-- ==== Sys2Proof/Word.lean ====
section
/-! DEFINITION. The byte of the frames, the boot blocks and the maintenance port, and nothing else:
distances, speeds and times of the TC416 are whole numbers (R1, 00_scope.md "Arithmetic"). -/

namespace Sys2Proof

/-- One byte on the line, in a boot block or on the maintenance port. -/
abbrev Byte := BitVec 8

end Sys2Proof
end

