-- ==== Sys2Proof/Syntax.lean ====
section
/-! DEFINITION. The commands the TC416 takes: one constructor for each row of spec/opcode_table.json, with the
operands that the rule the row names reads from outside the part. -/

namespace Sys2Proof

/-- The two tachometer channels (02 R18). -/
inductive Channel where
  | a
  | b
  deriving DecidableEq, Repr

/-- The two marker readers (02 R29). -/
inductive ReaderSide where
  | left
  | right
  deriving DecidableEq, Repr

/-- The two clamp sensors (06 R115). -/
inductive ClampSensor where
  | down
  | up
  deriving DecidableEq, Repr

/-- The three events that abandon a frame (09 R166). -/
inductive AbandonCause where
  | drivenStopBit
  | idleInFrame
  | oversizeLength
  deriving DecidableEq, Repr

/-- The commands, in the order of spec/opcode_table.json. The seventeen dispatch commands (`beacon` to `peerReportFrame`,
`moveOrder` to `linkTestStop`) take no operand: the frame they dispatch is the head of the receive mailbox (09 R167). -/
inductive Instr where
  /-- RESET (R193); `bootHold` is the boot-hold input sampled when reset ends. -/
  | reset (bootHold : Bool)
  /-- BOOT_BLOCK_READ (R194); the 32 bytes of the block. -/
  | bootBlockRead (data : List Byte)
  /-- BLOCK_TIMER_EXPIRY (R194). -/
  | blockTimerExpiry
  /-- TACH_TRANSITION (R18); the accepted levels of the two phases after the change. -/
  | tachTransition (ch : Channel) (p q : Bool)
  /-- ODOMETRY_SAMPLE (R20). -/
  | odometrySample
  /-- MARKER_EDGE (R29). -/
  | markerEdge (side : ReaderSide)
  /-- PAD_EDGE (R34); the new level of the presence line and the seven code lines (number in bits 5..0, parity in bit 6). -/
  | padEdge (presence : Bool) (lines : BitVec 7)
  /-- FRAME_RECEIVE (R166); the whole frame with its envelope. -/
  | frameReceive (bytes : List Byte)
  /-- FRAME_ABANDONED (R166). -/
  | frameAbandoned (cause : AbandonCause)
  /-- BEACON (R43). -/
  | beacon
  /-- TAKEN (R44). -/
  | taken
  /-- RELEASE (R45). -/
  | release
  /-- INTENT (R46). -/
  | intent
  /-- OBJECT (R47). -/
  | object
  /-- POINTS_STATE (R48). -/
  | pointsState
  /-- PEER_REPORT_FRAME (R47). -/
  | peerReportFrame
  /-- PEER_STALE (R50); the record's station number. -/
  | peerStale (station : Nat)
  /-- PEER_LOST (R51). -/
  | peerLost (station : Nat)
  /-- PEER_INTENT_EXPIRY (R46). -/
  | peerIntentExpiry (station : Nat)
  /-- MOVE_ORDER (R147). -/
  | moveOrder
  /-- HALT (R153). -/
  | halt
  /-- RESUME (R155). -/
  | resume
  /-- ABORT (R156). -/
  | abort
  /-- LOCATE (R157). -/
  | locate
  /-- FREE_STATION (R52). -/
  | freeStation
  /-- CLEAR_FAULTS (R122). -/
  | clearFaults
  /-- LINK_TEST_START (R176). -/
  | linkTestStart
  /-- LINK_TEST_DATA (R176). -/
  | linkTestData
  /-- LINK_TEST_STOP (R176). -/
  | linkTestStop
  /-- TRANSMIT_START (R163). -/
  | transmitStart
  /-- COLLISION (R163). -/
  | collision
  /-- FRAME_SENT (R163). -/
  | frameSent
  /-- BACKOFF_EXPIRY (R163). -/
  | backoffExpiry
  /-- BEACON_TIMER_EXPIRY (R174). -/
  | beaconTimerExpiry
  /-- LINE_QUIET_EXPIRY (R175). -/
  | lineQuietExpiry
  /-- WINDOW_EXPIRY (R70). -/
  | windowExpiry
  /-- CLAIM_BACKOFF_EXPIRY (R71). -/
  | claimBackoffExpiry
  /-- POINTS_TIMER_EXPIRY (R82); the section of the entry. -/
  | pointsTimerExpiry (sec : Nat)
  /-- REREQUEST_TIMER_EXPIRY (R82). -/
  | rerequestTimerExpiry (sec : Nat)
  /-- SUPERVISION_EVALUATION (R89). -/
  | supervisionEvaluation
  /-- TRAIN_WATCH_EXPIRY (R124). -/
  | trainWatchExpiry
  /-- LOCAL_STOP_CHANGE (R117); the new filtered level. -/
  | localStopChange (active : Bool)
  /-- DRIVE_READY_CHANGE (R117). -/
  | driveReadyChange (active : Bool)
  /-- SUPPLY_MONITOR_CHANGE (R187). -/
  | supplyMonitorChange (active : Bool)
  /-- CLAMP_SENSOR_CHANGE (R139). -/
  | clampSensorChange (sensor : ClampSensor) (active : Bool)
  /-- CLAMP_TIMER_EXPIRY (R137). -/
  | clampTimerExpiry
  /-- CORRECTION_WATCH_EXPIRY (R136). -/
  | correctionWatchExpiry
  /-- CLAMP_WATCH_EXPIRY (R139). -/
  | clampWatchExpiry
  /-- LISTEN_TIMER_EXPIRY (R143). -/
  | listenTimerExpiry
  /-- READ_STATUS (R190). -/
  | readStatus
  /-- READ_IDENT (R190). -/
  | readIdent
  /-- READ_COUNTERS (R190). -/
  | readCounters
  /-- READ_COUNTERS_COMPLETE (R190). -/
  | readCountersComplete
  /-- SET_WINDOW (R191); the three argument fields as they are clocked in. -/
  | setWindow (table : Byte) (index : BitVec 16) (auto : Byte)
  /-- READ_WINDOW (R191). -/
  | readWindow
  /-- WRITE_BOOT (R192); block address and 32 data bytes. -/
  | writeBoot (block : BitVec 16) (data : List Byte)
  /-- BOOT_WRITE_READBACK (R192); the 32 bytes read back. -/
  | bootWriteReadback (data : List Byte)
  /-- BOOT_WRITE_TIMEOUT (R192). -/
  | bootWriteTimeout
  /-- BAD_COMMAND (R189). -/
  | badCommand
  /-- LINE_IDLE (R166). -/
  | lineIdle
  deriving DecidableEq, Repr

end Sys2Proof
end

