-- ==== Sys2Proof/WellFormed.lean ====
section
/-! DEFINITION. Which command terms stand for an event that the spec describes. -/

namespace Sys2Proof

/-- The operand checks: a boot block, a boot write and a read-back are 32 bytes (R172, R192); a received frame has its
whole envelope, 6 + length bytes with the length at most 60 (R165); a station number lies in 1..32 and a section number in
1..240 (00_scope.md "Station, section and pad numbers"). -/
def Instr.wellFormed : Instr → Bool
  | .bootBlockRead data => data.length == 32
  | .writeBoot _ data => data.length == 32
  | .bootWriteReadback data => data.length == 32
  | .frameReceive bytes =>
    decide (6 ≤ bytes.length) && decide ((bytes.getD 3 0).toNat ≤ 60)
      && bytes.length == 6 + (bytes.getD 3 0).toNat
  | .peerStale n => decide (1 ≤ n) && decide (n ≤ 32)
  | .peerLost n => decide (1 ≤ n) && decide (n ≤ 32)
  | .peerIntentExpiry n => decide (1 ≤ n) && decide (n ≤ 32)
  | .pointsTimerExpiry n => decide (1 ≤ n) && decide (n ≤ 240)
  | .rerequestTimerExpiry n => decide (1 ≤ n) && decide (n ≤ 240)
  | .reset _ | .blockTimerExpiry | .tachTransition _ _ _ | .odometrySample | .markerEdge _ | .padEdge _ _
  | .frameAbandoned _ | .beacon | .taken | .release | .intent | .object | .pointsState | .peerReportFrame
  | .moveOrder | .halt | .resume | .abort | .locate | .freeStation | .clearFaults
  | .linkTestStart | .linkTestData | .linkTestStop | .transmitStart | .collision | .frameSent | .backoffExpiry
  | .beaconTimerExpiry | .lineQuietExpiry | .windowExpiry | .claimBackoffExpiry | .supervisionEvaluation
  | .trainWatchExpiry | .localStopChange _ | .driveReadyChange _ | .supplyMonitorChange _ | .clampSensorChange _ _
  | .clampTimerExpiry | .correctionWatchExpiry | .clampWatchExpiry | .listenTimerExpiry | .readStatus | .readIdent
  | .readCounters | .readCountersComplete | .setWindow _ _ _ | .readWindow | .bootWriteTimeout | .badCommand
  | .lineIdle => true

end Sys2Proof
end

