-- ==== Sys2Proof/Decode.lean ====
section
/-! DEFINITION. spec/opcode_table.json gives no bits for any row: the TC416 takes events, and no word spells one. -/

namespace Sys2Proof

/-- The command that a word spells by the table's bits: none, for every word, since no row has bits. -/
def decodeTableWord (_nbits _w : Nat) : Option Instr :=
  none

end Sys2Proof
end

