-- ==== Sys2Proof/Config.lean ====
section
/-! DEFINITION. What the spec fixes for every TC416 as a bare number, and the free values it leaves open. -/

namespace Sys2Proof

/-- FREE VALUE (log 9, 10, 11): the n-th choice that the spec leaves open. Nothing in Lean can evaluate it; a claim that
depends on one holds whatever it is. -/
opaque Config.freeBit : Nat → Bool

/-- Most records of each kind in the map, and most markers in one section and in all (R3, R5, R10). -/
def Config.maxSections : Nat := 240
def Config.maxPads : Nat := 63
def Config.maxMarkers : Nat := 1024
def Config.maxSectionMarkers : Nat := 16

/-- The cap of the uncertainty in µm (R25). -/
def Config.uncertaintyCap : Nat := 10000000

/-- Most entries of the claim table and sections of one RELEASE (R57, R81). -/
def Config.maxClaims : Nat := 8

/-- Most sections in a route (R15). -/
def Config.maxRoute : Nat := 24

/-- Most frames in the transmit queue and in the mailbox (R173, R167). -/
def Config.maxQueue : Nat := 8
def Config.maxMailbox : Nat := 16

/-- Most sections in a peer's held list (R40, R44). -/
def Config.maxHeld : Nat := 8

/-- The cap of the distances ahead in mm (R95, R99). -/
def Config.distanceCap : Nat := 1000000

/-- Fixed times: ODO's sample, SUP's evaluation, BDU's train watch, BTL's block timer, the boot write, in ms
(R20, R88, R124, R194, R192), and the backoff slot in µs (R163). -/
def Config.sampleMs : Nat := 10
def Config.evaluationMs : Nat := 20
def Config.trainWatchMs : Nat := 30
def Config.blockMs : Nat := 10
def Config.bootWriteMs : Nat := 20
def Config.slotUs : Nat := 512

/-- How many section ends the search for a marker crosses at most: it does not branch and comes round again within that many, at most
two for each leg of 240 sections (log 38). -/
def Config.markerEnds : Nat := 1000

end Sys2Proof
end

