-- ==== Sys2Proof/Machine/State.lean ====
section
/-! DEFINITION. The state of the TC416 as plain data, block by block, with the value each item takes at reset. Times are
microseconds since reset; a timer is `some` of the time of its expiry while it runs and `none` while it is stopped (R1). -/

namespace Sys2Proof.Machine

/-- The reasons a step can end in a fault: there are none. Every command of the table has an effect, and a fault of the spec
is a kind raised in the Fault Collector (R178), which is state. -/
inductive Fault where
  deriving DecidableEq, Repr

/-- The reasons a step can be refused. -/
inductive Refusal where
  /-- Raised by an arm of `exec` whose command has no meaning yet; safe (nothing is claimed of it). No arm raises it. -/
  | notModelled (mnemonic : String)
  deriving DecidableEq, Repr

/-- A timer: the time in µs at which it expires, while it runs (R1). -/
abbrev Timer := Option Nat

/-! ### Track Map (01_the_track_map.md) -/

/-- The three states of the map store (R2). -/
inductive TmpPhase where
  | unloaded
  | loading
  | locked
  deriving DecidableEq, Repr

/-- The ends of a section (R3). -/
inductive TrackEnd where
  | a
  | b
  | c
  deriving DecidableEq, Repr

/-- The legs (R3, R5). -/
inductive Leg where
  | plain
  | straight
  | diverge
  deriving DecidableEq, Repr

/-- The directions of travel (00_scope.md "Direction"). -/
inductive Direction where
  | towardB
  | towardA
  deriving DecidableEq, Repr

/-- The kinds of section (R3). -/
inductive SectionKind where
  | plain
  | points
  deriving DecidableEq, Repr

/-- A marker entry: offset in mm, and the leg it lies on, PLAIN in a plain section (R3). -/
structure Marker where
  offset : Nat
  leg : Leg
  deriving DecidableEq, Repr

/-- A section record (R3). `length` is the plain length or the STRAIGHT leg's, `diverge` the DIVERGE leg's, in mm; a
neighbour is a section with one of its ends, or `none` for BUFFER. -/
structure SectionRec where
  number : Nat
  kind : SectionKind
  length : Nat
  diverge : Nat
  nbrA : Option (Nat × TrackEnd)
  nbrB : Option (Nat × TrackEnd)
  nbrC : Option (Nat × TrackEnd)
  speedLimit : Nat
  grade : Int
  junction : Nat
  markers : List Marker
  deriving DecidableEq, Repr

/-- A pad record (R5); the offset in mm. -/
structure PadRec where
  number : Nat
  sec : Nat
  leg : Leg
  offset : Nat
  deriving DecidableEq, Repr

/-- The plan parameters (R6), in ms, mm and mm/s. -/
structure PlanParams where
  beaconPeriod : Nat
  claimWindow : Nat
  lostTime : Nat
  quietTime : Nat
  clearance : Nat
  horizonExtra : Nat
  lineMax : Nat
  class0 : Nat
  class1 : Nat
  class2 : Nat
  class3 : Nat
  lockTimeout : Nat
  deriving DecidableEq, Repr

/-- The carriage block parameters (R7). -/
structure CarriageParams where
  station : Nat
  length : Nat
  pitchA : Nat
  pitchB : Nat
  growth : Nat
  markerTol : Nat
  padTol : Nat
  dockTol : Nat
  serviceDecel : Nat
  reaction : Nat
  margin : Nat
  accel : Nat
  creep : Nat
  approach : Nat
  overspeed : Nat
  slipThreshold : Nat
  clampTimeout : Nat
  locateUnc : Nat
  deriving DecidableEq, Repr

/-- The Track Map: its phase, the locked map and parameters, the signature (R2, R9), and the bytes taken while LOADING
(R2, R194), which are discarded at the lock or at a failure. -/
structure Tmp where
  phase : TmpPhase
  sections : List SectionRec
  pads : List PadRec
  plan : PlanParams
  carriage : CarriageParams
  signature : BitVec 32
  carriageData : List Byte
  planData : List Byte
  recordData : List Byte
  deriving DecidableEq, Repr

/-! ### Odometer (02_position_and_odometry.md) -/

/-- A point on the track: section, leg, offset in µm, a direction, and the route index of the entry it lies in (R12). -/
structure Point where
  sec : Nat
  leg : Leg
  offset : Nat
  dir : Direction
  idx : Option Nat
  deriving DecidableEq, Repr

/-- One tachometer channel (R18). Its quadrature error total is the counter of R39. -/
structure TachChannel where
  failed : Bool
  net : Int
  seen : Bool
  errTimes : List Nat
  p : Bool
  q : Bool
  deriving DecidableEq, Repr

/-- The validity of the position record (R24). -/
inductive Validity where
  | known
  | restricted
  | unknown
  deriving DecidableEq, Repr

/-- The position record (R24), with the uncertainty as ODO last recomputed it (R25). Distances in µm. -/
structure PositionRec where
  validity : Validity
  sec : Nat
  leg : Leg
  offset : Nat
  idx : Option Nat
  dir : Direction
  uAnchor : Nat
  travelled : Nat
  disagreement : Nat
  pendingLoss : Bool
  unc : Nat
  deriving DecidableEq, Repr

/-- An open pairing window (R29): the side and snapshot of its first edge and the travel of R29. For R31's travel since the
snapshot it keeps the advance that the sample in progress had at the opening (0 once that sample has ended), and, of the samples
that have ended since, the sum of the motions after the snapshot and their signed sum. -/
structure PairWindow where
  side : ReaderSide
  snap : Point
  travel : Nat
  part : Int
  since : Nat
  net : Int
  deriving DecidableEq, Repr

/-- The next marker due (R33): its point on the track, and the model's own record of how far ahead of the reference it lies in
µm, negative once the reference has passed it. -/
structure MarkerDue where
  point : Point
  ahead : Int
  deriving DecidableEq, Repr

/-- The Odometer (R18 to R36). `pUp` is the model's own record of the count sense of R18: phase p leads in the motion that counts
up (log 7). -/
structure Odo where
  active : Bool
  pUp : Bool
  chA : TachChannel
  chB : TachChannel
  sampleTimer : Timer
  slipRun : Nat
  history : List Nat
  zeroRun : Nat
  standstill : Bool
  pos : PositionRec
  window : Option PairWindow
  unpaired : Nat
  missingSide : ReaderSide
  nextDue : Option MarkerDue
  missedRun : Nat
  padPresence : Bool
  padCode : Nat
  padLines : BitVec 7
  deriving DecidableEq, Repr

/-! ### Peer Table (03_the_peer_table.md) -/

/-- The kinds of peer (R40). -/
inductive PeerKind where
  | carriage
  | junction
  | console
  deriving DecidableEq, Repr

/-- Freshness (R40). -/
inductive Freshness where
  | fresh
  | stale
  | lost
  deriving DecidableEq, Repr

/-- A ticket (R60). -/
structure Ticket where
  occupancy : Bool
  loss : Nat
  priority : Nat
  station : Nat
  deriving DecidableEq, Repr

/-- A peer's intent with its timer (R46). -/
structure PeerIntent where
  sec : Nat
  ticket : Ticket
  timer : Nat
  deriving DecidableEq, Repr

/-- One entry of a junction's points-state list (R48). -/
structure PointsEntry where
  sec : Nat
  leg : Leg
  locked : Bool
  holder : Nat
  deriving DecidableEq, Repr

/-- A peer record (R40). The age timer is the time in µs at which the station was last heard. -/
structure PeerRec where
  station : Nat
  kind : PeerKind
  freshness : Freshness
  heardAt : Nat
  framesHeard : BitVec 16
  foreign : Bool
  signature : Option (BitVec 32)
  beaconSeen : Bool
  sec : Nat
  offset : Nat
  dir : Direction
  speed : Nat
  length : Nat
  unc : Nat
  restricted : Bool
  overspeedWarn : Bool
  stateByte : Option Byte
  faultByte : Option Byte
  ticket : Ticket
  held : List Nat
  intent : Option PeerIntent
  waiting : Option (Nat × Nat)
  frozen : Bool
  points : List PointsEntry
  deriving DecidableEq, Repr

/-! ### Claim Engine (04_section_claims.md) -/

/-- The basis of a HELD entry (R57). -/
inductive ClaimBasis where
  | occupancy
  | route
  deriving DecidableEq, Repr

/-- The basis on which a peer blocks a section (R53). -/
inductive BlockBasis where
  | held
  | occupied
  | intent
  deriving DecidableEq, Repr

/-- The state of a claim with the fields that are present in it (R57). `retry` of a WANTED entry marks one whose INTENT was
dropped on arrival and which is examined again at the end of the next sample (R67). -/
inductive ClaimState where
  | wanted (retry : Bool)
  | blocked (peer : Nat) (basis : BlockBasis) (backoff : Timer)
  | contending (ticket : Ticket) (tag : Nat) (window : Timer)
  | held (basis : ClaimBasis) (ticket : Ticket)
  deriving DecidableEq, Repr

/-- The points state of a claim (R57). -/
inductive PointsState where
  | unrequested
  | requested
  | locked
  | lost
  deriving DecidableEq, Repr

/-- An entry of the claim table (R57). -/
structure Claim where
  sec : Nat
  idx : Option Nat
  state : ClaimState
  legNeeded : Option Leg
  points : PointsState
  pointsTimer : Timer
  rerequestTimer : Timer
  deriving DecidableEq, Repr

/-- An entry of a validated route (R16): its section, direction, leg, ends, and the route coordinates of both in µm. -/
structure RouteEntry where
  sec : Nat
  dir : Direction
  leg : Leg
  entryEnd : TrackEnd
  exitEnd : TrackEnd
  c0 : Nat
  c1 : Nat
  deriving DecidableEq, Repr

/-- A validated route (R16): its entries, the pad's coordinate and the index of the pad's entry, and the total length. -/
structure Route where
  entries : List RouteEntry
  padCoord : Nat
  padIdx : Nat
  total : Nat
  deriving DecidableEq, Repr

/-- The Claim Engine's view of the current order's route (R64, R87). -/
structure RouteView where
  route : Route
  pad : Nat
  priority : Nat
  deriving DecidableEq, Repr

/-- The Claim Engine (R57 to R87). `gathering` holds the sections released so far by the event in progress, until they are
announced with one RELEASE (R81); none between events. -/
structure Cle where
  active : Bool
  table : List Claim
  lossCount : Nat
  view : Option RouteView
  horizon : Nat
  abortPending : Bool
  deadlock : Option Nat
  nextTag : Nat
  gathering : Option (List Nat)
  deriving DecidableEq, Repr

/-! ### Supervision Unit (05_movement_authority_and_speed_supervision.md) -/

/-- The binding term of the permitted speed (R88, R101). -/
inductive Binding where
  | line
  | sectionLimit
  | limitCurve (sec : Nat)
  | curve
  | approachCurve
  | creep
  | stopped
  deriving DecidableEq, Repr

/-- The bands (R106). -/
inductive Band where
  | nominal
  | warn
  | service
  | overspeed
  deriving DecidableEq, Repr

/-- The authority limit (R88, R93): a point on the track, its offset in mm, with its route index while it lies on a route. -/
structure AuthLimit where
  idx : Option Nat
  sec : Nat
  offset : Int
  deriving DecidableEq, Repr

/-- The Supervision Unit (R88). -/
structure Sup where
  evalTimer : Timer
  vOrder : Option Nat
  authLimit : Option AuthLimit
  dAuth : Int
  dStop : Option Int
  dist : Int
  aEff : Nat
  rd : Nat
  vCurve : Nat
  vPerm : Nat
  binding : Binding
  target : Nat
  demand : Nat
  band : Band
  warnFlag : Bool
  serviceBand : Bool
  sd : Nat
  exhausted : Bool
  skipped : Bool
  chainLen : Nat
  deriving DecidableEq, Repr

/-! ### Brake and Drive Unit (06_drive_and_brake_outputs.md) -/

/-- The three emergency latches (R116). -/
inductive Latch where
  | safeStop
  | clampsNotUp
  | supplyLow
  deriving DecidableEq, Repr

/-- The Brake and Drive Unit (R110). -/
structure Bdu where
  active : Bool
  demandHanded : Nat
  duty : Nat
  dirLine : Direction
  traction : Bool
  serviceBrake : Bool
  trainRunning : Bool
  trainLevel : Bool
  trainTimer : Timer
  clampDown : Bool
  clampUp : Bool
  inLocalStop : Bool
  inDriveReady : Bool
  inSupplyLow : Bool
  inClampsDown : Bool
  inClampsUp : Bool
  srcServiceBand : Bool
  srcHalted : Bool
  srcLocalStop : Bool
  srcDriveNotReady : Bool
  latchSafeStop : Bool
  latchClampsNotUp : Bool
  latchSupplyLow : Bool
  deriving DecidableEq, Repr

/-! ### Dock Controller (07_pad_approach_and_docking.md) -/

/-- The sub-states (R127). -/
inductive DockState where
  | idle
  | creep
  | stopping
  | check
  | correct
  | clamping
  | clamped
  | unclamping
  | failed
  deriving DecidableEq, Repr

/-- The failure causes of R136. -/
inductive DockCause where
  | wrongPad
  | padNotSeen
  | checksExhausted
  | outsideHeld
  | correctionTimeout
  | clampTimeout
  | positionLost
  deriving DecidableEq, Repr

/-- The last result (R127). -/
inductive DockResult where
  | none
  | clamped
  | unclamped
  | failed (cause : DockCause)
  deriving DecidableEq, Repr

/-- The Dock Controller (R127). `downLeft` records that the clamps-down sensor has gone inactive in UNCLAMPING (R139). -/
structure Dkc where
  active : Bool
  sub : DockState
  dest : Option Nat
  anchored : Bool
  corrections : Nat
  motionSeen : Bool
  stopError : Int
  dStop : Option Int
  clampTimer : Timer
  corrTimer : Timer
  watchTimer : Timer
  abortTaken : Bool
  last : DockResult
  downLeft : Bool
  deriving DecidableEq, Repr

/-! ### Fault kinds (10_faults_and_safe_stop.md) -/

/-- The fault kinds of R178, in the order of their codes (R168). -/
inductive FaultKind where
  | configClamped
  | tachChannel
  | markerReader
  | padCode
  | echoId
  | deadlock
  | slip
  | unexpectedMarker
  | missedMarkers
  | planMismatch
  | pointsTimeout
  | wrongPad
  | dockFailed
  | clampTimeout
  | clampSensor
  | localStop
  | lineQuiet
  | supplyLow
  | positionLost
  | occupancyConflict
  | authorityWithdrawn
  | authorityOverrun
  | overspeed
  | tachBoth
  deriving DecidableEq, Repr

/-! ### Station Controller (08_move_orders_and_station_states.md) -/

/-- The station states, in the order of R142's table. -/
inductive StationState where
  | start
  | bootFailed
  | bootHold
  | listen
  | noPosition
  | standing
  | parked
  | running
  | approach
  | docking
  | halted
  | safeStop
  deriving DecidableEq, Repr

/-- The remembered state (R142). -/
inductive Remembered where
  | running
  | approach
  | docking
  | rest
  deriving DecidableEq, Repr

/-- The current order record (R146); the validated route carries the pad's coordinate and the total length. -/
structure Order where
  id : Nat
  console : Nat
  route : Route
  pad : Nat
  speedClass : Nat
  vOrder : Nat
  priority : Nat
  onAuthority : Bool
  departing : Bool
  deriving DecidableEq, Repr

/-- The outcomes with which an order ends (R152). -/
inductive OrderOutcome where
  | arrived
  | aborted
  | failed
  deriving DecidableEq, Repr

/-- The last order that ended (R142). -/
structure LastOrder where
  id : Nat
  outcome : Option OrderOutcome
  kind : Option FaultKind
  deriving DecidableEq, Repr

/-- The Station Controller (R142). `waiting` is the RUNNING sub-state WAITING; `stopKind` is the kind that caused the entry
into SAFE-STOP, which the end of a clamp movement there carries (R152, R158). -/
structure Stc where
  state : StationState
  waiting : Bool
  remembered : Option Remembered
  haltHold : Bool
  abortPending : Bool
  parkedPad : Option Nat
  listenTimer : Timer
  order : Option Order
  heldReport : Bool
  lastOrder : LastOrder
  stopKind : Option FaultKind
  deriving DecidableEq, Repr

/-! ### Line Interface (09_the_trackside_line.md) -/

/-- The frame kinds of R168. -/
inductive FrameKind where
  | beacon
  | intent
  | taken
  | object
  | release
  | pointsRequest
  | orderReport
  | faultReport
  | linkReport
  | pointsState
  | moveOrder
  | halt
  | resume
  | abort
  | locate
  | freeStation
  | clearFaults
  | linkTest
  deriving DecidableEq, Repr

/-- A received frame, whole with its envelope (R165, R167). -/
structure Frame where
  dest : Nat
  src : Nat
  kind : FrameKind
  payload : List Byte
  check : BitVec 16
  deriving DecidableEq, Repr

/-- An entry of the transmit queue (R173). The payload of a BEACON is built at each sending attempt (R169). -/
structure TxEntry where
  kind : FrameKind
  dest : Nat
  payload : List Byte
  attempts : Nat
  tag : Option Nat
  sending : Bool
  deriving DecidableEq, Repr

/-- The transmitter (R161). -/
inductive TxState where
  | idle
  | waiting
  | sending
  | backoff
  deriving DecidableEq, Repr

/-- The receiver (R161). -/
inductive RxState where
  | idle
  | receiving
  | discarding
  deriving DecidableEq, Repr

/-- A link test that is ON (R176). -/
structure LinkTest where
  console : Nat
  reg : BitVec 15
  bitErrors : BitVec 32
  compared : BitVec 16
  deriving DecidableEq, Repr

/-- The Line Interface (R161). `sending` is the frame being driven onto the line, envelope and check included; `awaitIdle` holds
from the activation until the next idle line, at which the receiver begins. -/
structure Lif where
  active : Bool
  tx : TxState
  rx : RxState
  awaitIdle : Bool
  queue : List TxEntry
  mailbox : List Frame
  lfsr : BitVec 16
  backoffTimer : Timer
  beaconTimer : Timer
  quietTimer : Timer
  quiet : Bool
  test : Option LinkTest
  sending : List Byte
  deriving DecidableEq, Repr

/-! ### Fault Collector, Boot Loader, Maintenance Port -/

/-- An entry of the active-fault set (R179). -/
structure FaultEntry where
  kind : FaultKind
  repeats : BitVec 8
  sec : Nat
  offset : Nat
  clearBlocked : Bool
  reported : Bool
  deriving DecidableEq, Repr

/-- The checks of R10, in their order. -/
inductive MapCheck where
  | counts
  | sectionNumbers
  | sectionFields
  | linksExist
  | linksMutual
  | noSelfLinks
  | singleLink
  | markers
  | padNumbers
  | padsPlaced
  deriving DecidableEq, Repr

/-- The phases of the Boot Loader (R194). -/
inductive BootPhase where
  | idle
  | reading
  | done
  | failed
  deriving DecidableEq, Repr

/-- The failure reasons (R194). -/
inductive BootReason where
  | none
  | noResponse
  | blockCheck
  | carriageId
  | mapInvalid
  deriving DecidableEq, Repr

/-- The failure detail (R194). -/
inductive BootDetail where
  | block (address : Nat)
  | check (kind : MapCheck) (number : Nat)
  deriving DecidableEq, Repr

/-- The Boot Loader (R194). -/
structure Btl where
  phase : BootPhase
  next : Nat
  total : Nat
  reason : BootReason
  detail : Option BootDetail
  blockTimer : Timer
  deriving DecidableEq, Repr

/-- The tables of the window (R191). -/
inductive WindowTable where
  | peer
  | claim
  | route
  | map
  deriving DecidableEq, Repr

/-- The end of a boot write (R192). -/
inductive WriteEnd where
  | done
  | mismatch
  | noResponse
  | inProgress
  deriving DecidableEq, Repr

/-- The last boot write (R192), with the data of a write in progress. -/
structure BootWrite where
  block : Nat
  ending : WriteEnd
  data : List Byte
  deriving DecidableEq, Repr

/-- The Maintenance Port (R189 to R192). `output` is what the last command made the port shift out, result byte first;
`reported` holds the counter values of a READ-COUNTERS whose transaction has not ended (R190). -/
structure Mnp where
  table : WindowTable
  index : Nat
  auto : Bool
  badCommands : BitVec 16
  write : Option BootWrite
  writeTimer : Timer
  output : List Byte
  reported : Option (List (BitVec 16))
  deriving DecidableEq, Repr

/-- The read-clear counters, in the order of the chapters and within each chapter in the order listed there
(R39, R56, R87, R109, R126, R141, R160, R177, R188, R190). -/
inductive Counter where
  | errorsA | errorsB | slipSamples | missingLeft | missingRight | unexpectedMarkers | missedMarkers | markerAnchors
  | badSource | echoFrames | kindConflict | beaconMalformed | listOverrun | pointsForeign | freeRefused | freeIgnored
  | recordsMade
  | contentionsStarted | contentionsWon | contentionsLost | intentsDropped | objectionsHolding | objectionsContending
  | lateObjections | clashesFound | clashYields | mutualYields | lockLosses | sectionsReleased
  | evaluationsTaken | evaluationsSkipped | warnEntries | bandActivations | overspeedEvaluations | negativeAuthority
  | setSafeStop | setClampsNotUp | setSupplyLow | latchRepeats | latchReleases | clearsRefused | trainStops
  | driveNotReady | localStops | reversals
  | approaches | anchorsAccepted | anchorsRefused | anchorsOutside | passingPads | edgesPassed | wrongPads | stopChecks
  | correctionsStarted | docksCompleted
  | failWrongPad | failPadNotSeen | failChecksExhausted | failOutsideHeld | failCorrectionTimeout | failClampTimeout
  | failPositionLost
  | departures | clampBoth | clampNeither | clampDropped
  | ordersAccepted
  | refusedBusy | refusedNoPosition | refusedStopped | refusedListening | refusedPlanMismatch | refusedOrderInvalid
  | refusedNotStandstill | refusedRouteBroken | refusedRouteStart | refusedRouteDirection | refusedRoutePoints
  | refusedRoutePad | refusedRouteShort
  | ordersAtOnce | ordersArrived | ordersAborted | ordersFailed | orderToAll | haltsTaken | secondHalts
  | resumesAccepted | resumesRefused | abortsRefused | locatesHanded | entriesHalted | entriesSafeStop
  | goodFrames | crcErrors | formatErrors | rxOverflow | framesSent | collisions | txDrops | queueDrops
  | coalescedBeacons | notConsole | testIgnored
  | raisesWarn | raisesHalt | raisesSafeStop | kindsEntered | raisedQueued | refusedQueued | clearsAtStandstill
  | clearsMoving | clearsNothing | causesEnded
  deriving DecidableEq, Repr

/-- How many read-clear counters the part has. -/
def Counter.count : Nat := 114

/-! ### The whole part -/

/-- Everything the part holds but the queue of commands: the twelve blocks, the read-clear counters, and the model's own
clock (µs since reset, R1) and index of the next free value (log 40). -/
structure Dev where
  tmp : Tmp
  odo : Odo
  peers : List PeerRec
  cle : Cle
  sup : Sup
  bdu : Bdu
  dkc : Dkc
  stc : Stc
  lif : Lif
  faults : List FaultEntry
  btl : Btl
  mnp : Mnp
  counters : List (BitVec 16)
  now : Nat
  freeCount : Nat
  deriving DecidableEq, Repr

/-- The machine: the part, and the commands that wait, first in, first out. -/
structure State where
  dev : Dev
  pending : List Instr
  deriving DecidableEq, Repr

/-! ### Reset values -/

/-- TMP at reset (R2). -/
def Tmp.reset : Tmp where
  phase := .unloaded
  sections := []
  pads := []
  plan := ⟨0, 0, 0, 0, 0, 0, 0, 0, 0, 0, 0, 0⟩
  carriage := ⟨0, 0, 0, 0, 0, 0, 0, 0, 0, 0, 0, 0, 0, 0, 0, 0, 0, 0⟩
  signature := 0
  carriageData := []
  planData := []
  recordData := []

/-- A tachometer channel at reset (R18). DESIGN CHOICE: the accepted levels are low (log 7). -/
def TachChannel.reset : TachChannel where
  failed := false
  net := 0
  seen := false
  errTimes := []
  p := false
  q := false

/-- The position record at reset (R24). -/
def PositionRec.reset : PositionRec where
  validity := .unknown
  sec := 0
  leg := .plain
  offset := 0
  idx := none
  dir := .towardB
  uAnchor := 0
  travelled := 0
  disagreement := 0
  pendingLoss := false
  unc := 0

/-- ODO at reset (R18 to R34). DESIGN CHOICE: the side kept with the unpaired count is LEFT, where R30 gives the count alone its 0
(log 62). -/
def Odo.reset : Odo where
  active := false
  pUp := true
  chA := TachChannel.reset
  chB := TachChannel.reset
  sampleTimer := none
  slipRun := 0
  history := List.replicate 10 0
  zeroRun := 0
  standstill := false
  pos := PositionRec.reset
  window := none
  unpaired := 0
  missingSide := .left
  nextDue := none
  missedRun := 0
  padPresence := false
  padCode := 0
  padLines := 0

/-- CLE at reset (04_section_claims.md, introduction). DESIGN CHOICE: H is 0 until an order starts (log 61). -/
def Cle.reset : Cle where
  active := false
  table := []
  lossCount := 0
  view := none
  horizon := 0
  abortPending := false
  deadlock := none
  nextTag := 0
  gathering := none

/-- SUP at reset (R88). -/
def Sup.reset : Sup where
  evalTimer := none
  vOrder := none
  authLimit := none
  dAuth := 0
  dStop := none
  dist := 0
  aEff := 0
  rd := 0
  vCurve := 0
  vPerm := 0
  binding := .stopped
  target := 0
  demand := 0
  band := .nominal
  warnFlag := false
  serviceBand := false
  sd := 0
  exhausted := false
  skipped := false
  chainLen := 0

/-- BDU at reset (R110): the service brake is on. -/
def Bdu.reset : Bdu where
  active := false
  demandHanded := 0
  duty := 0
  dirLine := .towardB
  traction := false
  serviceBrake := true
  trainRunning := false
  trainLevel := false
  trainTimer := none
  clampDown := false
  clampUp := false
  inLocalStop := false
  inDriveReady := false
  inSupplyLow := false
  inClampsDown := false
  inClampsUp := false
  srcServiceBand := false
  srcHalted := false
  srcLocalStop := false
  srcDriveNotReady := false
  latchSafeStop := false
  latchClampsNotUp := false
  latchSupplyLow := false

/-- DKC at reset (R127). -/
def Dkc.reset : Dkc where
  active := false
  sub := .idle
  dest := none
  anchored := false
  corrections := 0
  motionSeen := false
  stopError := 0
  dStop := none
  clampTimer := none
  corrTimer := none
  watchTimer := none
  abortTaken := false
  last := .none
  downLeft := false

/-- STC at reset (R142). -/
def Stc.reset : Stc where
  state := .start
  waiting := true
  remembered := none
  haltHold := false
  abortPending := false
  parkedPad := none
  listenTimer := none
  order := none
  heldReport := false
  lastOrder := ⟨0, none, none⟩
  stopKind := none

/-- LIF at reset (R161). -/
def Lif.reset : Lif where
  active := false
  tx := .idle
  rx := .idle
  awaitIdle := false
  queue := []
  mailbox := []
  lfsr := 0
  backoffTimer := none
  beaconTimer := none
  quietTimer := none
  quiet := false
  test := none
  sending := []

/-- BTL at reset (R194). -/
def Btl.reset : Btl where
  phase := .idle
  next := 0
  total := 2
  reason := .none
  detail := none
  blockTimer := none

/-- MNP at reset (R189, R191, R192). -/
def Mnp.reset : Mnp where
  table := .map
  index := 0
  auto := false
  badCommands := 0
  write := none
  writeTimer := none
  output := []
  reported := none

/-- The whole part at reset. -/
def Dev.reset : Dev where
  tmp := Tmp.reset
  odo := Odo.reset
  peers := []
  cle := Cle.reset
  sup := Sup.reset
  bdu := Bdu.reset
  dkc := Dkc.reset
  stc := Stc.reset
  lif := Lif.reset
  faults := []
  btl := Btl.reset
  mnp := Mnp.reset
  counters := List.replicate Counter.count 0
  now := 0
  freeCount := 0

/-- The machine right after reset, with no command waiting. The end of reset, at which the boot-hold input is sampled
(R193), is the command RESET (log 1). -/
def State.reset : State where
  dev := Dev.reset
  pending := []

end Sys2Proof.Machine
end

