-- ==== Sys2Proof/Machine/Ops.lean ====
section
/-! DEFINITION. The operations every block uses: rounded quotients, saturating counters, bytes, the two checks, timers and
the free value. -/

namespace Sys2Proof.Machine

/-- The quotient rounded up (00_scope.md "Arithmetic"); a divisor of 0 gives 0. -/
def ceilDiv (a b : Nat) : Nat :=
  (a + b - 1) / b

/-- The integer square root: the largest integer whose square does not exceed `n` (00_scope.md "Arithmetic"). -/
def isqrt (n : Nat) : Nat :=
  Nat.sqrt n

/-- A saturating counter's next value. -/
def satInc {w : Nat} (x : BitVec w) : BitVec w :=
  if x = BitVec.allOnes w then x else x + 1

/-- A saturating counter raised by `n`. -/
def satAdd {w : Nat} (x : BitVec w) (n : Nat) : BitVec w :=
  if 2 ^ w ≤ x.toNat + n then BitVec.allOnes w else BitVec.ofNat w (x.toNat + n)

/-- Insertion into a list sorted by a key, after the elements whose key is no greater. -/
def insertSorted {α : Type} (key : α → Nat) (x : α) : List α → List α
  | [] => [x]
  | y :: ys => if key x < key y then x :: y :: ys else y :: insertSorted key x ys

/-- A list put in ascending order of a key, equal keys in the order they had. -/
def sortBy {α : Type} (key : α → Nat) (l : List α) : List α :=
  l.foldl (fun acc x => insertSorted key x acc) []

/-- The first occurrences of a list, by a key. -/
def dedupBy {α : Type} (key : α → Nat) : List Nat → List α → List α
  | _, [] => []
  | seen, x :: xs => if seen.contains (key x) then dedupBy key seen xs else x :: dedupBy key (key x :: seen) xs

/-- The least of a list of distances, or none. -/
def leastOf (l : List Nat) : Option Nat :=
  l.foldl (fun acc n => match acc with | none => some n | some m => some (min m n)) none

/-- The least of a list of places by their distances, the first of equal ones, or none. -/
def nearestOf {α : Type} (l : List (Nat × α)) : Option (Nat × α) :=
  l.foldl (fun acc x => match acc with | none => some x | some m => some (if x.1 < m.1 then x else m)) none

/-! ### Bytes (00_scope.md "Byte order": most significant byte first) -/

/-- A number in `w` bytes. -/
def beBytes : Nat → Nat → List Byte
  | 0, _ => []
  | w + 1, n => BitVec.ofNat 8 (n / 256 ^ w) :: beBytes w n

/-- The number that bytes spell. -/
def beValue (bytes : List Byte) : Nat :=
  bytes.foldl (fun acc b => acc * 256 + b.toNat) 0

/-- The number in `w` bytes from position `i`; bytes past the end read as 0. -/
def beAt (bytes : List Byte) (i w : Nat) : Nat :=
  beValue ((List.range w).map (fun k => bytes.getD (i + k) 0))

/-- A signed number in four bytes, two's complement (R191). -/
def i32Bytes (n : Int) : List Byte :=
  beBytes 4 (BitVec.ofInt 32 n).toNat

/-- The signed value of a byte, two's complement (R172, grade). -/
def signedByte (b : Byte) : Int :=
  b.toInt

/-- One bit of the 16-bit CRC (R165). -/
def crc16Bit (r : BitVec 16) (b : Bool) : BitVec 16 :=
  if (b ^^ r.msb) then (r <<< 1) ^^^ 0x1021#16 else r <<< 1

/-- The 16-bit CRC of the frames and the boot blocks (R165): the register starts at 0xFFFF, each byte most significant bit
first, no final inversion. -/
def crc16 (bytes : List Byte) : BitVec 16 :=
  bytes.foldl (fun r x => [7, 6, 5, 4, 3, 2, 1, 0].foldl (fun r i => crc16Bit r (x.getLsbD i)) r) 0xFFFF#16

/-- One bit of the 32-bit CRC, reflected (R9). -/
def crc32Bit (r : BitVec 32) (b : Bool) : BitVec 32 :=
  if (b ^^ r.getLsbD 0) then (r >>> 1) ^^^ 0xEDB88320#32 else r >>> 1

/-- The 32-bit CRC of the plan signature (R9): the register starts at all ones, each byte least significant bit first, the
final register inverted. -/
def crc32 (bytes : List Byte) : BitVec 32 :=
  ~~~ (bytes.foldl (fun r x => [0, 1, 2, 3, 4, 5, 6, 7].foldl (fun r i => crc32Bit r (x.getLsbD i)) r) (BitVec.allOnes 32))

/-! ### Timers (R1) -/

/-- A timer of `ms` milliseconds started now. -/
def Dev.timerMs (d : Dev) (ms : Nat) : Timer :=
  some (d.now + ms * 1000)

/-- A timer of `us` microseconds started now. -/
def Dev.timerUs (d : Dev) (us : Nat) : Timer :=
  some (d.now + us)

/-- A timer runs and has expired by now: an expiry is taken no earlier than its timer's time (R1). -/
def Dev.due (d : Dev) (t : Timer) : Bool :=
  t.any (fun at' => decide (at' ≤ d.now))

/-- An expiry acts when its timer has run out; it has no effect while the timer is stopped or, started again since, still runs (R1,
log 3). -/
def Dev.whileDue (d : Dev) (t : Timer) (act : Dev → Dev) : Dev :=
  if d.due t then act d else d

/-- The whole milliseconds on the 1 ms timebase. -/
def Dev.nowMs (d : Dev) : Nat :=
  d.now / 1000

/-- The milliseconds remaining of a timer; none when stopped (R87, R191). DESIGN CHOICE: rounded up to a whole one (log 63). -/
def Dev.remaining (d : Dev) (t : Timer) : Option Nat :=
  t.map (fun at' => ceilDiv (at' - d.now) 1000)

/-! ### Counters (R190) -/

/-- The place of a counter in READ-COUNTERS' response. -/
def Counter.index (c : Counter) : Nat :=
  c.ctorIdx

/-- The value of a counter. -/
def Dev.counter (d : Dev) (c : Counter) : BitVec 16 :=
  d.counters.getD c.index 0

/-- One more on a saturating read-clear counter. -/
def Dev.bump (d : Dev) (c : Counter) : Dev :=
  { d with counters := d.counters.modify c.index satInc }

/-- `n` more on a saturating read-clear counter. -/
def Dev.bumpBy (d : Dev) (c : Counter) (n : Nat) : Dev :=
  { d with counters := d.counters.modify c.index (satAdd · n) }

/-! ### Free values (log 40) -/

/-- The choice that the spec leaves open at this point. -/
def Dev.freeChoice (d : Dev) : Bool :=
  Config.freeBit d.freeCount

/-- A choice that the spec leaves open has been made; the next one is another. -/
def Dev.drawn (d : Dev) : Dev :=
  { d with freeCount := d.freeCount + 1 }

/-- Half of a whole number; an odd one goes to either side (log 9). -/
def Dev.halved (d : Dev) (n : Nat) : Dev × Nat :=
  if n % 2 = 0 then (d, n / 2) else (d.drawn, n / 2 + d.freeChoice.toNat)

end Sys2Proof.Machine
end

