-- ==== Sys2Proof/Machine/Flags.lean ====
section
/-! DEFINITION. The codes, classes and derived flags: fault kinds with class and mode (R178), the class summary (R179), the
codes of R168, ticket precedence (R60). -/

namespace Sys2Proof.Machine

/-- The classes of fault (R178). -/
inductive FaultClass where
  | warn
  | halt
  | safeStop
  deriving DecidableEq, Repr

/-- The class of each kind (R178). -/
def FaultKind.cls : FaultKind → FaultClass
  | .configClamped | .tachChannel | .markerReader | .padCode | .echoId | .deadlock => .warn
  | .slip | .unexpectedMarker | .missedMarkers | .planMismatch | .pointsTimeout | .wrongPad | .dockFailed
  | .clampTimeout | .clampSensor | .localStop | .lineQuiet | .supplyLow => .halt
  | .positionLost | .occupancyConflict | .authorityWithdrawn | .authorityOverrun | .overspeed | .tachBoth => .safeStop

/-- Whether a kind is free-running (R178). -/
def FaultKind.freeRunning : FaultKind → Bool
  | .deadlock | .planMismatch | .localStop | .lineQuiet => true
  | .configClamped | .tachChannel | .markerReader | .padCode | .echoId | .slip | .unexpectedMarker | .missedMarkers
  | .pointsTimeout | .wrongPad | .dockFailed | .clampTimeout | .clampSensor | .supplyLow | .positionLost
  | .occupancyConflict | .authorityWithdrawn | .authorityOverrun | .overspeed | .tachBoth => false

/-- The code of a kind on the line (R168), 1..24. -/
def FaultKind.code (k : FaultKind) : Nat :=
  k.ctorIdx + 1

/-- The code of a class (R168). -/
def FaultClass.code : FaultClass → Nat
  | .warn => 1
  | .halt => 2
  | .safeStop => 3

/-- The raise total of a class (R179, R188). -/
def FaultClass.total : FaultClass → Counter
  | .warn => .raisesWarn
  | .halt => .raisesHalt
  | .safeStop => .raisesSafeStop

/-- A kind is active. -/
def Dev.faultActive (d : Dev) (k : FaultKind) : Bool :=
  d.faults.any (fun e => e.kind == k)

/-- The class summary's flag of a class (R179, R185). -/
def Dev.classActive (d : Dev) (c : FaultClass) : Bool :=
  d.faults.any (fun e => e.kind.cls == c)

/-- The fault summary byte of a beacon (R169). -/
def Dev.faultSummary (d : Dev) : Byte :=
  BitVec.ofNat 8 ((d.classActive .warn).toNat + 2 * (d.classActive .halt).toNat + 4 * (d.classActive .safeStop).toNat)

/-- The refusal reasons (R168). -/
inductive RefuseReason where
  | busy | noPosition | stopped | listening | planMismatch | orderInvalid | notStandstill
  | routeBroken | routeStart | routeDirection | routePoints | routePad | routeShort
  | noOrder | notHalted | faultActive | positionHeld | locateInvalid
  deriving DecidableEq, Repr

/-- The code of a refusal reason (R168), 1..18. -/
def RefuseReason.code (r : RefuseReason) : Nat :=
  r.ctorIdx + 1

/-- The counter of a refused order (R160), by its reason; the reasons of R147 alone have one. -/
def RefuseReason.counter : RefuseReason → Option Counter
  | .busy => some .refusedBusy
  | .noPosition => some .refusedNoPosition
  | .stopped => some .refusedStopped
  | .listening => some .refusedListening
  | .planMismatch => some .refusedPlanMismatch
  | .orderInvalid => some .refusedOrderInvalid
  | .notStandstill => some .refusedNotStandstill
  | .routeBroken => some .refusedRouteBroken
  | .routeStart => some .refusedRouteStart
  | .routeDirection => some .refusedRouteDirection
  | .routePoints => some .refusedRoutePoints
  | .routePad => some .refusedRoutePad
  | .routeShort => some .refusedRouteShort
  | .noOrder | .notHalted | .faultActive | .positionHeld | .locateInvalid => none

/-- The counter of a docking failure (R141). -/
def DockCause.counter : DockCause → Counter
  | .wrongPad => .failWrongPad
  | .padNotSeen => .failPadNotSeen
  | .checksExhausted => .failChecksExhausted
  | .outsideHeld => .failOutsideHeld
  | .correctionTimeout => .failCorrectionTimeout
  | .clampTimeout => .failClampTimeout
  | .positionLost => .failPositionLost

/-- The codes of leg, end and direction (R168). -/
def Leg.code : Leg → Nat
  | .plain => 0
  | .straight => 1
  | .diverge => 2

def TrackEnd.code : TrackEnd → Nat
  | .a => 0
  | .b => 1
  | .c => 2

def Direction.code : Direction → Nat
  | .towardB => 0
  | .towardA => 1

/-- The opposite direction. -/
def Direction.flip : Direction → Direction
  | .towardB => .towardA
  | .towardA => .towardB

/-- The station state's code (R168). START, BOOT-FAILED and BOOT-HOLD, which are never sent, have their place in R142's list
(R191, log 27). -/
def StationState.code : StationState → Nat
  | .start => 0
  | .bootFailed => 1
  | .bootHold => 2
  | .listen => 1
  | .noPosition => 2
  | .standing => 3
  | .parked => 4
  | .running => 5
  | .approach => 6
  | .docking => 7
  | .halted => 8
  | .safeStop => 9

/-- The kinds of frame by sender (R41, R168). -/
def FrameKind.sender : FrameKind → PeerKind
  | .beacon | .intent | .taken | .object | .release | .pointsRequest | .orderReport | .faultReport | .linkReport => .carriage
  | .pointsState => .junction
  | .moveOrder | .halt | .resume | .abort | .locate | .freeStation | .clearFaults | .linkTest => .console

/-- The code of a frame kind (R168). -/
def FrameKind.code : FrameKind → Nat
  | .beacon => 0x10
  | .intent => 0x11
  | .taken => 0x12
  | .object => 0x13
  | .release => 0x14
  | .pointsRequest => 0x15
  | .orderReport => 0x16
  | .faultReport => 0x17
  | .linkReport => 0x18
  | .pointsState => 0x20
  | .moveOrder => 0x30
  | .halt => 0x31
  | .resume => 0x32
  | .abort => 0x33
  | .locate => 0x34
  | .freeStation => 0x35
  | .clearFaults => 0x36
  | .linkTest => 0x37

/-- Every frame kind. -/
def FrameKind.all : List FrameKind :=
  [.beacon, .intent, .taken, .object, .release, .pointsRequest, .orderReport, .faultReport, .linkReport, .pointsState,
    .moveOrder, .halt, .resume, .abort, .locate, .freeStation, .clearFaults, .linkTest]

/-- The frame kind of a code (R168), none for a code that is not there. -/
def FrameKind.ofCode (n : Nat) : Option FrameKind :=
  FrameKind.all.find? (fun k => k.code == n)

/-- The least payload of a kind (R168). -/
def FrameKind.minPayload : FrameKind → Nat
  | .beacon => 24
  | .intent | .taken | .object | .release | .pointsRequest => 2
  | .orderReport => 5
  | .faultReport => 9
  | .linkReport => 6
  | .pointsState => 4
  | .moveOrder => 8
  | .halt | .resume | .abort | .clearFaults => 0
  | .locate => 5
  | .freeStation => 1
  | .linkTest => 1

/-- The transmit queue class of a kind this station sends (R168, R173). -/
def FrameKind.txClass : FrameKind → Nat
  | .taken | .object | .release => 0
  | .intent | .pointsRequest => 1
  | .beacon => 2
  | .orderReport | .faultReport | .linkReport | .pointsState | .moveOrder | .halt | .resume | .abort | .locate
  | .freeStation | .clearFaults | .linkTest => 3

/-- Precedence between tickets (R60): the occupancy flag, the loss count, the priority, then the lower station number. -/
def Ticket.outranks (t u : Ticket) : Bool :=
  if t.occupancy != u.occupancy then t.occupancy
  else if t.loss != u.loss then decide (u.loss < t.loss)
  else if t.priority != u.priority then decide (u.priority < t.priority)
  else decide (t.station < u.station)

/-- An entry is HELD. -/
def Claim.isHeld (c : Claim) : Bool :=
  match c.state with
  | .held _ _ => true
  | .wanted _ | .blocked _ _ _ | .contending _ _ _ => false

/-- An entry is CONTENDING. -/
def Claim.isContending (c : Claim) : Bool :=
  match c.state with
  | .contending _ _ _ => true
  | .wanted _ | .blocked _ _ _ | .held _ _ => false

/-- An entry is BLOCKED. -/
def Claim.isBlocked (c : Claim) : Bool :=
  match c.state with
  | .blocked _ _ _ => true
  | .wanted _ | .contending _ _ _ | .held _ _ => false

/-- An entry is WANTED. -/
def Claim.isWanted (c : Claim) : Bool :=
  match c.state with
  | .wanted _ => true
  | .blocked _ _ _ | .contending _ _ _ | .held _ _ => false

/-- Some emergency latch is set. -/
def Bdu.latched (b : Bdu) : Bool :=
  b.latchSafeStop || b.latchClampsNotUp || b.latchSupplyLow

/-- The conditions that force the duty to 0 (R111). -/
def Bdu.forced (b : Bdu) : Bool :=
  b.latched || b.inClampsDown || b.clampDown

/-- Some service source is active (R117). -/
def Bdu.sourced (b : Bdu) : Bool :=
  b.srcServiceBand || b.srcHalted || b.srcLocalStop || b.srcDriveNotReady

/-- The position record is KNOWN or RESTRICTED. -/
def Odo.known (o : Odo) : Bool :=
  o.pos.validity != .unknown

end Sys2Proof.Machine
end

