-- ==== Sys2Proof/Machine/Operands.lean ====
section
/-! DEFINITION. The operand forms of the frames: the envelope (R165), the payload layouts (R169 to R171), and the layout
checks of R166. -/

namespace Sys2Proof.Machine

/-- The ticket byte (R168): bit 7 occupancy, bits 6..3 loss count, bits 2..1 priority, bit 0 sent as 0. -/
def Ticket.toByte (t : Ticket) : Byte :=
  BitVec.ofNat 8 (128 * t.occupancy.toNat + 8 * (t.loss % 16) + 2 * (t.priority % 4))

/-- The ticket a byte carries for a sender; bit 0 is ignored. -/
def Ticket.ofByte (b : Byte) (station : Nat) : Ticket :=
  ⟨b.getLsbD 7, b.toNat / 8 % 16, b.toNat / 2 % 4, station⟩

/-- Byte `i` of a payload as a number; 0 past the end. -/
def byteAt (p : List Byte) (i : Nat) : Nat :=
  (p.getD i 0).toNat

/-- The bytes of a frame on the line: header, payload, check (R165). -/
def frameBytes (dest src : Nat) (kind : FrameKind) (payload : List Byte) : List Byte :=
  let body := [BitVec.ofNat 8 dest, BitVec.ofNat 8 src, BitVec.ofNat 8 kind.code, BitVec.ofNat 8 payload.length] ++ payload
  body ++ beBytes 2 (crc16 body).toNat

/-- The bytes form one whole frame: 6 + length of them, with the length at most 60 (R165, R166). -/
def frameWhole (bytes : List Byte) : Bool :=
  decide (6 ≤ bytes.length) && decide (byteAt bytes 3 ≤ 60) && bytes.length == 6 + byteAt bytes 3

/-- The payload of a whole frame. -/
def framePayload (bytes : List Byte) : List Byte :=
  (bytes.drop 4).take (byteAt bytes 3)

/-- The check bytes of a whole frame. -/
def frameCheck (bytes : List Byte) : BitVec 16 :=
  BitVec.ofNat 16 (beAt bytes (4 + byteAt bytes 3) 2)

/-- The first check of R166: the check bytes agree with the CRC over the bytes before them. -/
def frameCrcOk (bytes : List Byte) : Bool :=
  crc16 (bytes.take (4 + byteAt bytes 3)) == frameCheck bytes

/-- The layout check of R166 by kind: the minimum payload, and the lengths and coded fields that R169 to R171 name. -/
def layoutOk (kind : FrameKind) (p : List Byte) : Bool :=
  decide (kind.minPayload ≤ p.length) &&
    match kind with
    | .beacon => decide (8 < byteAt p 19) || p.length == 24 + byteAt p 19
    | .object => byteAt p 1 == 1 || byteAt p 1 == 2
    | .release => decide (1 ≤ byteAt p 0) && decide (byteAt p 0 ≤ 8) && p.length == 1 + byteAt p 0
    | .pointsRequest => byteAt p 1 == 1 || byteAt p 1 == 2
    | .pointsState =>
      decide (1 ≤ byteAt p 0) && p.length == 1 + 3 * byteAt p 0 &&
        (List.range (byteAt p 0)).all (fun i => byteAt p (2 + 3 * i) % 4 == 1 || byteAt p (2 + 3 * i) % 4 == 2)
    | .locate => byteAt p 4 == 0 || byteAt p 4 == 1
    | .linkTest =>
      (byteAt p 0 == 1 && p.length == 3) || (byteAt p 0 == 2 && p.length == 33) || (byteAt p 0 == 3 && p.length == 1)
    | .intent | .taken | .orderReport | .faultReport | .linkReport | .moveOrder | .halt | .resume | .abort
    | .freeStation | .clearFaults => true

/-! ### Payloads read -/

/-- The fields of a BEACON payload with a held count of 8 or less (R169, R43). -/
structure BeaconFields where
  signature : BitVec 32
  stateByte : Byte
  faultByte : Byte
  sec : Nat
  offset : Nat
  dir : Direction
  restricted : Bool
  overspeedWarn : Bool
  speed : Nat
  length : Nat
  unc : Nat
  heldCount : Nat
  held : List Nat
  intentSec : Nat
  ticketByte : Byte
  waitSec : Nat
  waitPeer : Nat
  deriving DecidableEq, Repr

/-- The direction of a code. -/
def Direction.ofCode (n : Nat) : Direction :=
  if n % 2 = 1 then .towardA else .towardB

/-- A BEACON payload read by R169: a section 0 in the held list is dropped and a section that appears twice is kept at its
first place (R43). -/
def readBeacon (p : List Byte) : BeaconFields :=
  let n := byteAt p 19
  { signature := BitVec.ofNat 32 (beAt p 0 4)
    stateByte := p.getD 4 0
    faultByte := p.getD 5 0
    sec := byteAt p 8
    offset := beAt p 9 3
    dir := Direction.ofCode (byteAt p 12)
    restricted := (p.getD 12 0).getLsbD 1
    overspeedWarn := (p.getD 12 0).getLsbD 2
    speed := beAt p 13 2
    length := beAt p 15 2
    unc := beAt p 17 2
    heldCount := n
    held := dedupBy id [] ((((p.drop 20).take n).map (·.toNat)).filter (· != 0))
    intentSec := byteAt p (20 + n)
    ticketByte := p.getD (21 + n) 0
    waitSec := byteAt p (22 + n)
    waitPeer := byteAt p (23 + n) }

/-- The sections a RELEASE names (R170). -/
def readRelease (p : List Byte) : List Nat :=
  ((p.drop 1).take (byteAt p 0)).map (·.toNat)

/-- The entries of a POINTS-STATE (R171). -/
def readPointsState (p : List Byte) : List PointsEntry :=
  (List.range (byteAt p 0)).map (fun i =>
    { sec := byteAt p (1 + 3 * i)
      leg := if byteAt p (2 + 3 * i) % 4 = 1 then .straight else .diverge
      locked := (p.getD (2 + 3 * i) 0).getLsbD 7
      holder := byteAt p (3 + 3 * i) })

/-- The fields of a MOVE-ORDER (R171). -/
structure MoveFields where
  id : Nat
  pad : Nat
  speedClass : Nat
  priority : Nat
  mode : Nat
  count : Nat
  route : List Nat
  deriving DecidableEq, Repr

def readMoveOrder (p : List Byte) : MoveFields :=
  { id := beAt p 0 2
    pad := byteAt p 2
    speedClass := byteAt p 3
    priority := byteAt p 4
    mode := byteAt p 5
    count := byteAt p 6
    route := (p.drop 7).map (·.toNat) }

/-- The seventh check of R147: the fields are in range and the route count agrees with the sections carried. -/
def MoveFields.valid (m : MoveFields) : Bool :=
  decide (1 ≤ m.id) && decide (m.speedClass ≤ 3) && decide (m.priority ≤ 3) && decide (m.mode ≤ 1)
    && m.count == m.route.length

/-! ### Payloads this station sends (R170) -/

/-- INTENT and TAKEN. -/
def ticketPayload (sec : Nat) (t : Ticket) : List Byte :=
  [BitVec.ofNat 8 sec, t.toByte]

/-- The bases of an OBJECT (R168). -/
inductive ObjectBasis where
  | holding
  | contending
  deriving DecidableEq, Repr

def ObjectBasis.code : ObjectBasis → Nat
  | .holding => 1
  | .contending => 2

def objectPayload (sec : Nat) (b : ObjectBasis) : List Byte :=
  [BitVec.ofNat 8 sec, BitVec.ofNat 8 b.code]

def releasePayload (secs : List Nat) : List Byte :=
  BitVec.ofNat 8 secs.length :: secs.map (BitVec.ofNat 8 ·)

def pointsRequestPayload (sec : Nat) (leg : Leg) : List Byte :=
  [BitVec.ofNat 8 sec, BitVec.ofNat 8 leg.code]

/-- The requests an ORDER-REPORT names (R170). -/
inductive ReportRequest where
  | moveOrder
  | resume
  | abort
  | locate
  deriving DecidableEq, Repr

def ReportRequest.code : ReportRequest → Nat
  | .moveOrder => 1
  | .resume => 2
  | .abort => 3
  | .locate => 4

/-- The outcomes of an ORDER-REPORT with their detail (R170). -/
inductive ReportOutcome where
  | accepted
  | refused (r : RefuseReason)
  | arrived
  | aborted
  | failed (k : FaultKind)
  deriving DecidableEq, Repr

def ReportOutcome.code : ReportOutcome → Nat
  | .accepted => 1
  | .refused _ => 2
  | .arrived => 3
  | .aborted => 4
  | .failed _ => 5

def ReportOutcome.detail : ReportOutcome → Nat
  | .accepted | .arrived | .aborted => 0
  | .refused r => r.code
  | .failed k => k.code

def orderReportPayload (req : ReportRequest) (id : Nat) (o : ReportOutcome) : List Byte :=
  BitVec.ofNat 8 req.code :: (beBytes 2 id ++ [BitVec.ofNat 8 o.code, BitVec.ofNat 8 o.detail])

/-- FAULT-REPORT: report 1 RAISED or 2 CLEAR-REFUSED, kind, class, repeat count, detail, section, offset in mm. -/
def faultReportPayload (report : Nat) (k : FaultKind) (repeats : BitVec 8) (detail sec offset : Nat) : List Byte :=
  [BitVec.ofNat 8 report, BitVec.ofNat 8 k.code, BitVec.ofNat 8 k.cls.code, repeats, BitVec.ofNat 8 detail,
    BitVec.ofNat 8 sec] ++ beBytes 3 offset

def linkReportPayload (t : LinkTest) : List Byte :=
  beBytes 4 t.bitErrors.toNat ++ beBytes 2 t.compared.toNat

end Sys2Proof.Machine
end

