-- ==== Sys2Proof/Machine/TrackMap.lean ====
section
/-! DEFINITION. The Track Map's geometry: sections and links (R3, R4), carrying a point (R12), the footprint (R13), route
coordinates (R14) and route validation (R15, R16). Offsets and distances along the track are in µm. -/

namespace Sys2Proof.Machine

/-- The section record of a number. -/
def findSection (secs : List SectionRec) (n : Nat) : Option SectionRec :=
  secs.find? (fun r => r.number == n)

/-- The length of a leg of a section record, in µm (R3). -/
def SectionRec.legLength (r : SectionRec) (leg : Leg) : Nat :=
  match leg with
  | .diverge => r.diverge * 1000
  | .plain | .straight => r.length * 1000

/-- The length of a leg in µm; 0 for a section that is not in the map. -/
def legLength (secs : List SectionRec) (sec : Nat) (leg : Leg) : Nat :=
  match findSection secs sec with
  | some r => r.legLength leg
  | none => 0

/-- What an end of a section joins, none for BUFFER and for an end the section does not have (R3). -/
def SectionRec.neighbour (r : SectionRec) (e : TrackEnd) : Option (Nat × TrackEnd) :=
  match e with
  | .a => r.nbrA
  | .b => r.nbrB
  | .c => if r.kind = .points then r.nbrC else none

/-- The exit end of a leg for a direction of travel (R4). -/
def exitEnd (leg : Leg) (dir : Direction) : TrackEnd :=
  match dir, leg with
  | .towardA, _ => .a
  | .towardB, .diverge => .c
  | .towardB, .plain => .b
  | .towardB, .straight => .b

/-- The entry end of a leg for a direction of travel (R4). -/
def entryEnd (leg : Leg) (dir : Direction) : TrackEnd :=
  exitEnd leg dir.flip

/-- The direction in which a section is travelled that is entered at an end (R4). -/
def directionFrom (e : TrackEnd) : Direction :=
  match e with
  | .a => .towardB
  | .b | .c => .towardA

/-- A point's distance to the exit end of its section (R4). -/
def exitDistance (secs : List SectionRec) (p : Point) : Nat :=
  match p.dir with
  | .towardB => legLength secs p.sec p.leg - p.offset
  | .towardA => p.offset

/-- The point at the entry end of a section travelled in a direction on a leg. -/
def entryPoint (secs : List SectionRec) (sec : Nat) (leg : Leg) (dir : Direction) (idx : Option Nat) : Point :=
  { sec := sec
    leg := leg
    offset := match dir with
      | .towardB => 0
      | .towardA => legLength secs sec leg
    dir := dir
    idx := idx }

/-- The same point facing the other way. -/
def Point.flip (p : Point) : Point :=
  { p with dir := p.dir.flip }

/-- The points at which a section is entered through one of its ends: one, or one for each leg that `toe` gives when a
points section is entered through its toe (R4, R12). -/
def arrivals (secs : List SectionRec) (toe : Nat → List Leg) (sec : Nat) (e : TrackEnd) : List Point :=
  match findSection secs sec with
  | none => []
  | some r =>
    match r.kind, e with
    | .plain, .c => []
    | .plain, _ => [entryPoint secs sec .plain (directionFrom e) none]
    | .points, .a => (toe sec).map (fun leg => entryPoint secs sec leg .towardB none)
    | .points, .b => [entryPoint secs sec .straight .towardA none]
    | .points, .c => [entryPoint secs sec .diverge .towardA none]

/-- Where a crossing leads: to a buffer, or onto the points entered (none when a toe is entered and no leg is known). -/
inductive Crossing where
  | buffer
  | onto (points : List Point)
  deriving DecidableEq, Repr

/-- Crossing the exit end along the map's links (R12, "Without a route"). -/
def crossLink (secs : List SectionRec) (toe : Nat → List Leg) (p : Point) : Crossing :=
  match (findSection secs p.sec).bind (fun r => r.neighbour (exitEnd p.leg p.dir)) with
  | none => .buffer
  | some (y, e) => .onto (arrivals secs toe y e)

/-- Crossing the exit end with a route as guide: forward into entry k + 1, backward into entry k - 1, and past either end of
the route along the map's links (R12, "With a route"). DESIGN CHOICE: a point that has left the route and has no route index goes on
along the map's links, with no index and both legs at a toe, also where they lead back onto a section of the route (log 66). -/
def crossEnd (secs : List SectionRec) (route : List RouteEntry) (toe : Nat → List Leg) (p : Point) : Crossing :=
  match p.idx with
  | none => crossLink secs toe p
  | some k =>
    match route[k - 1]? with
    | none => crossLink secs toe p
    | some e =>
      if p.dir = e.dir then
        match route[k]? with
        | some e' => .onto [entryPoint secs e'.sec e'.leg e'.dir (some (k + 1))]
        | none => crossLink secs toe p
      else if 2 ≤ k then
        match route[k - 2]? with
        | some e' => .onto [entryPoint secs e'.sec e'.leg e'.dir.flip (some (k - 1))]
        | none => crossLink secs toe p
      else crossLink secs toe p

/-- The stretch of a section that a walk covers: two offsets in µm, the direction in which the walk passes, and the route
index (R13). -/
structure Stretch where
  sec : Nat
  leg : Leg
  lo : Nat
  hi : Nat
  dir : Direction
  idx : Option Nat
  deriving DecidableEq, Repr

/-- How a carry ends: where it was to end, at a buffer, or before a toe with no leg known. -/
inductive WalkStop where
  | reached
  | buffer
  | noLeg
  deriving DecidableEq, Repr

/-- One result of a carry: the stretches covered in the order walked, the point reached, how the carry ended, and the
distance that could not be travelled (R12). -/
structure Walk where
  stretches : List Stretch
  last : Point
  stop : WalkStop
  short : Nat
  deriving DecidableEq, Repr

/-- The offset after a move of `r` µm within the section. -/
def movedOffset (p : Point) (r : Nat) : Nat :=
  match p.dir with
  | .towardB => p.offset + r
  | .towardA => p.offset - r

/-- The stretch from a point to the same section's point `r` µm on. -/
def stretchFrom (p : Point) (r : Nat) : Stretch :=
  let o := movedOffset p r
  { sec := p.sec, leg := p.leg, lo := min p.offset o, hi := max p.offset o, dir := p.dir, idx := p.idx }

/-- Carrying a point forward by `r` µm (R12), crossing at most `fuel` ends. With no route the result has one walk for each
branch at a toe. -/
def walk (secs : List SectionRec) (route : List RouteEntry) (toe : Nat → List Leg) : Nat → Point → Nat → List Walk
  | 0, p, r => [{ stretches := [stretchFrom p 0], last := p, stop := .noLeg, short := r }]
  | fuel + 1, p, r =>
    let dist := exitDistance secs p
    if r ≤ dist then
      [{ stretches := [stretchFrom p r], last := { p with offset := movedOffset p r }, stop := .reached, short := 0 }]
    else
      let here := stretchFrom p dist
      let stay (s : WalkStop) : List Walk :=
        [{ stretches := [here], last := { p with offset := movedOffset p dist }, stop := s, short := r - dist }]
      match crossEnd secs route toe p with
      | .buffer => stay .buffer
      | .onto [] => stay .noLeg
      | .onto (q :: qs) =>
        (q :: qs).flatMap (fun x =>
          (walk secs route toe fuel x (r - dist)).map (fun w => { w with stretches := here :: w.stretches }))

/-- How many ends a carry of `r` µm can cross: every leg is at least 1,000 mm long (R3, R10). -/
def walkFuel (r : Nat) : Nat :=
  r / 1000000 + 2

/-- Both legs: how the map continues beyond a toe without a route (R12). -/
def bothLegs (_sec : Nat) : List Leg :=
  [.straight, .diverge]

/-- A section under a footprint, with every stretch of it that the footprint covers: one, but where two branches cover it on both
legs or from both ends (R13). -/
structure Covered where
  sec : Nat
  parts : List Stretch
  deriving DecidableEq, Repr

/-- The route index of a section under a footprint (R13). DESIGN CHOICE: of a section that two stretches cover, it is that of the first
stretch from the rear that is on the route, also where a stretch before it lies off the route (log 74). -/
def Covered.idx (c : Covered) : Option Nat :=
  c.parts.findSome? (·.idx)

/-- An extent of a footprint: the point reached, how the walk to it ended, and by how much it falls short of the half-span (R13). -/
structure Extent where
  point : Point
  stop : WalkStop
  short : Nat
  deriving DecidableEq, Repr

/-- The footprint: its sections from the rear extent to the front extent, each once at its first occurrence from the rear, and a
front and a rear extent for each branch (R13). -/
structure Footprint where
  places : List Covered
  half : Nat
  front : List Extent
  rear : List Extent
  deriving DecidableEq, Repr

/-- The footprint's sections from the rear. -/
def Footprint.sections (f : Footprint) : List Nat :=
  f.places.map (·.sec)

/-- Every stretch that the footprint covers. -/
def Footprint.stretches (f : Footprint) : List Stretch :=
  f.places.flatMap (·.parts)

/-- A section is under the footprint (R13). -/
def Footprint.covers (f : Footprint) (sec : Nat) : Bool :=
  f.places.any (fun c => c.sec == sec)

/-- The farthest extent of a side falls short by this much (log 35). -/
def leastShort (es : List Extent) : Nat :=
  (leastOf (es.map (·.short))).getD 0

/-- BUFFER-REACHED on a side (R13). -/
def reachesBuffer (es : List Extent) : Bool :=
  es.any (fun e => e.stop == .buffer)

/-- A stretch seen facing the other way. -/
def Stretch.flip (s : Stretch) : Stretch :=
  { s with dir := s.dir.flip }

/-- Stretches walked one after the other, each with the distance at which the walk enters it. -/
def withDistances : Nat → List Stretch → List (Nat × Stretch)
  | _, [] => []
  | x, s :: rest => (x, s) :: withDistances (x + (s.hi - s.lo)) rest

/-- What a walk covers beyond the section that it starts in. -/
def Walk.beyond (w : Walk) : List (Nat × Stretch) :=
  (withDistances 0 w.stretches).drop 1

/-- The extent that a walk reaches. -/
def Walk.extent (w : Walk) : Extent :=
  { point := w.last, stop := w.stop, short := w.short }

/-- Stretches gathered under their sections, in the order of the sections' first occurrences. -/
def gather (l : List Stretch) : List Covered :=
  (dedupBy (·.sec) [] l).map (fun s => { sec := s.sec, parts := (l.filter (fun x => x.sec == s.sec)).eraseDups })

/-- The stretch of its own section that a footprint covers around a reference point, from the walks to both sides. -/
def ownStretch (ref : Point) (ws : List Walk) : Stretch :=
  let own := ws.flatMap (fun w => w.stretches.take 1)
  { sec := ref.sec, leg := ref.leg, dir := ref.dir, idx := ref.idx
    lo := own.foldl (fun m s => min m s.lo) ref.offset
    hi := own.foldl (fun m s => max m s.hi) ref.offset }

/-- The union of the footprints of reference points with one half-span in µm, with the extents of each (R13). The sections of two
branches stand in the order of their distance from the reference, those of the STRAIGHT leg first at the same distance (log 59). -/
def footprintOver (secs : List SectionRec) (route : List RouteEntry) (refs : List Point) (half : Nat) : Footprint :=
  let front (ref : Point) := walk secs route bothLegs (walkFuel half) ref half
  let rear (ref : Point) := walk secs route bothLegs (walkFuel half) ref.flip half
  let here := refs.map (fun ref => ownStretch ref (front ref ++ rear ref))
  let behind := (sortBy (fun x => half - x.1) ((refs.flatMap rear).flatMap Walk.beyond)).map (fun x => x.2.flip)
  let ahead := (sortBy (fun x => x.1) ((refs.flatMap front).flatMap Walk.beyond)).map (·.2)
  { places := gather (behind ++ here ++ ahead)
    half := half
    front := (refs.flatMap front).map Walk.extent
    rear := (refs.flatMap rear).map (fun w => { w.extent with point := w.last.flip }) }

/-- The footprint of a reference point with a half-span in µm (R13). -/
def footprintOf (secs : List SectionRec) (route : List RouteEntry) (ref : Point) (half : Nat) : Footprint :=
  footprintOver secs route [ref] half

/-- The half-span of a footprint: L × 500 + U µm (R13). -/
def halfSpan (length unc : Nat) : Nat :=
  length * 500 + unc

/-- The reference points of a beacon: on each leg in turn of a points section, with the offset held at the leg's length (R13). -/
def SectionRec.beaconPoints (r : SectionRec) (offset : Nat) (dir : Direction) : List Point :=
  let on (leg : Leg) : Point :=
    { sec := r.number, leg := leg, offset := min (offset * 1000) (r.legLength leg), dir := dir, idx := none }
  match r.kind with
  | .plain => [on .plain]
  | .points => [on .straight, on .diverge]

/-- A peer's footprint, mapped from its beacon's section, offset, direction, length and uncertainty without a route, as the union over
the legs of a points section (R13, R49, R54); none for a section that is not in the map. -/
def peerFootprintOf (secs : List SectionRec) (sec offset : Nat) (dir : Direction) (length unc : Nat) : Option Footprint :=
  (findSection secs sec).map (fun r => footprintOver secs [] (r.beaconPoints offset dir) (halfSpan length (unc * 1000)))

/-- The sections under a peer's footprint. -/
def peerSections (secs : List SectionRec) (sec offset : Nat) (dir : Direction) (length unc : Nat) : List Nat :=
  ((peerFootprintOf secs sec offset dir length unc).map Footprint.sections).getD []

/-! ### Searches along the map (log 38) -/

/-- The points at which the sections next beyond a point are entered, with their distances. -/
def entered (secs : List SectionRec) (route : List RouteEntry) (x : Nat × Point) : List (Nat × Point) :=
  match crossEnd secs route bothLegs x.2 with
  | .buffer => []
  | .onto qs => qs.map (fun q => (x.1 + exitDistance secs x.2, q))

/-- The entry points reached from a list of open ones in ascending distance, the nearest first and each once. -/
def reachFrom (secs : List SectionRec) (route : List RouteEntry) : Nat → List Point → List (Nat × Point) → List (Nat × Point)
  | 0, _, _ => []
  | _ + 1, _, [] => []
  | fuel + 1, seen, x :: rest =>
    if seen.contains x.2 then reachFrom secs route fuel seen rest
    else x :: reachFrom secs route fuel (x.2 :: seen) ((entered secs route x).foldl (fun l y => insertSorted (·.1) y l) rest)

/-- How many open points a search takes up: a section has at most two entry points on each of two legs, a route entry two more, and
each leads on to at most two. -/
def reachFuel (secs : List SectionRec) (route : List RouteEntry) : Nat :=
  8 * secs.length + 4 * route.length + 2

/-- Every entry point that going forward from a point can reach, with its least distance, the nearest first. -/
def reachable (secs : List SectionRec) (route : List RouteEntry) (p : Point) : List (Nat × Point) :=
  reachFrom secs route (reachFuel secs route) [] (sortBy (·.1) (entered secs route (0, p)))

/-- The least distance at which going forward from a point enters a section. -/
def enterDistance (secs : List SectionRec) (route : List RouteEntry) (sec : Nat) (p : Point) : Option Nat :=
  ((reachable secs route p).find? (fun x => x.2.sec == sec)).map (·.1)

/-- How far on from a point in its own section a place lies; none when it is elsewhere or behind. -/
def aheadInSection (sec : Nat) (leg : Leg) (offset : Nat) (p : Point) : Option Nat :=
  let ahead := match p.dir with
    | .towardB => decide (p.offset ≤ offset)
    | .towardA => decide (offset ≤ p.offset)
  if p.sec = sec && p.leg = leg && ahead then some (max p.offset offset - min p.offset offset) else none

/-- The least distance at which going forward from a point meets a place on the track, with the direction in which the place is
passed. -/
def meetPlace (secs : List SectionRec) (route : List RouteEntry) (sec : Nat) (leg : Leg) (offset : Nat) (p : Point) :
    Option (Nat × Direction) :=
  nearestOf (((0, p) :: reachable secs route p).filterMap (fun x =>
    (aheadInSection sec leg offset x.2).map (fun n => (x.1 + n, x.2.dir))))

/-- The signed distance along the track from one point to another, the nearer of the ways forward and back, positive ahead; none
when neither way meets it (log 38). -/
def trackBetween (secs : List SectionRec) (route : List RouteEntry) (p q : Point) : Option Int :=
  let on := (meetPlace secs route q.sec q.leg q.offset p).map (fun x => (x.1 : Int))
  let back := (meetPlace secs route q.sec q.leg q.offset p.flip).map (fun x => (x.1 : Int))
  match on, back with
  | some x, some y => some (if x ≤ y then x else -y)
  | some x, none => some x
  | none, some y => some (-y)
  | none, none => none

/-- The point `n` µm on from a point on the way to another that lies `dist` µm ahead. -/
def partWay (secs : List SectionRec) (route : List RouteEntry) (p q : Point) (dist n : Nat) : Option Point :=
  ((walk secs route bothLegs (walkFuel n) p n).find? (fun w =>
    (meetPlace secs route q.sec q.leg q.offset w.last).any (fun x => x.1 == dist - n))).map (·.last)

/-- The offsets in µm of the markers on a leg of a section. -/
def markerOffsets (secs : List SectionRec) (sec : Nat) (leg : Leg) : List Nat :=
  match findSection secs sec with
  | none => []
  | some r => (r.markers.filter (fun m => m.leg == leg)).map (fun m => m.offset * 1000)

/-- A marker at a distance from a point. -/
structure MarkerAt where
  dist : Nat
  ahead : Bool
  point : Point
  deriving DecidableEq, Repr

/-- The markers of a point's own section ahead of it, at `base` and more; at the point itself only with `incl`. -/
def markersAhead (secs : List SectionRec) (incl : Bool) (p : Point) (base : Nat) : List MarkerAt :=
  (markerOffsets secs p.sec p.leg).filterMap (fun o =>
    let ok := match p.dir with
      | .towardB => decide (p.offset < o) || (incl && o == p.offset)
      | .towardA => decide (o < p.offset) || (incl && o == p.offset)
    if ok then some ⟨base + (max o p.offset - min o p.offset), true, { p with offset := o }⟩ else none)

/-- The first marker ahead of a point in its direction of travel, along the route while there is one and else along the map,
with the leg that `toe` gives at a toe (R33), with its distance; none before a buffer or a toe with no leg. -/
def firstMarker (secs : List SectionRec) (route : List RouteEntry) (toe : Nat → List Leg) (incl : Bool) :
    Nat → Point → Nat → Option MarkerAt
  | 0, _, _ => none
  | fuel + 1, p, acc =>
    match (sortBy (·.dist) (markersAhead secs incl p acc)).head? with
    | some m => some m
    | none =>
      match crossEnd secs route toe p with
      | .buffer => none
      | .onto [] => none
      | .onto (q :: _) => firstMarker secs route toe true fuel q (acc + exitDistance secs p)

/-- The candidates of R31 on one side of a point: its own section and the sections next to it on that side. -/
def candidatesAhead (secs : List SectionRec) (route : List RouteEntry) (incl : Bool) (p : Point) : List MarkerAt :=
  markersAhead secs incl p 0 ++
    match crossEnd secs route bothLegs p with
    | .buffer => []
    | .onto qs => qs.flatMap (fun q => markersAhead secs true q (exitDistance secs p))

/-- The candidates within `u` of a point on both sides, nearest first, one ahead before one behind at the same distance
(R31). -/
def markerCandidates (secs : List SectionRec) (route : List RouteEntry) (p : Point) (u : Nat) : List MarkerAt :=
  let ahead := candidatesAhead secs route true p
  let behind := (candidatesAhead secs route false p.flip).map
    (fun m => { m with ahead := false, point := m.point.flip })
  sortBy (fun m => 2 * m.dist + (!m.ahead).toNat) ((ahead ++ behind).filter (fun m => decide (m.dist ≤ u)))

/-! ### Route coordinates (R14) -/

/-- The coordinate of a point that lies in a route entry. -/
def RouteEntry.coord (e : RouteEntry) (secs : List SectionRec) (offset : Nat) : Int :=
  match e.dir with
  | .towardB => (e.c0 + offset : Nat)
  | .towardA => (e.c0 : Int) + (legLength secs e.sec e.leg : Int) - (offset : Int)

/-- The coordinate of a point off the route, with the direction there that is the route's sense: measured by the walk from the
nearer route end (R14, R91). DESIGN CHOICE: a point equally near to both ends lies beyond the last entry, and one that neither walk
reaches has the coordinate of the route's end (log 30). -/
def offRoutePlace (secs : List SectionRec) (r : Route) (p : Point) : Int × Direction :=
  let beyond := r.entries.getLast?.bind (fun e =>
    meetPlace secs [] p.sec p.leg p.offset
      ({ entryPoint secs e.sec e.leg e.dir.flip none with dir := e.dir }))
  let behind := r.entries.head?.bind (fun e =>
    meetPlace secs [] p.sec p.leg p.offset
      ({ entryPoint secs e.sec e.leg e.dir none with dir := e.dir.flip }))
  match beyond, behind with
  | some x, some y => if x.1 ≤ y.1 then ((r.total + x.1 : Nat), x.2) else (-(y.1 : Int), y.2.flip)
  | some x, none => ((r.total + x.1 : Nat), x.2)
  | none, some y => (-(y.1 : Int), y.2.flip)
  | none, none => (r.total, p.dir)

/-- The route entry that a point lies in: that of its route index, and for a point that has left the route and come back onto a
section of it with no index, the first entry of the section and leg (R14, R26, log 30). -/
def Route.entryOf (r : Route) (p : Point) : Option RouteEntry :=
  match p.idx.bind (fun k => r.entries[k - 1]?) with
  | some e => some e
  | none => r.entries.find? (fun e => e.sec == p.sec && e.leg == p.leg)

/-- The route coordinate of a point, in µm, and the direction there that is the route's sense (R14, R91). -/
def Route.place (r : Route) (secs : List SectionRec) (p : Point) : Int × Direction :=
  match r.entryOf p with
  | some e => (e.coord secs p.offset, e.dir)
  | none => offRoutePlace secs r p

/-- The route coordinate of a point, in µm (R14). -/
def Route.coord (r : Route) (secs : List SectionRec) (p : Point) : Int :=
  (r.place secs p).1

/-! ### Route validation (R15, R16) -/

/-- The end by which a section joins another, with the end of the other (R4, R10). -/
def linkBetween (secs : List SectionRec) (x y : Nat) : Option (TrackEnd × TrackEnd) :=
  (findSection secs x).bind (fun r =>
    [TrackEnd.a, .b, .c].findSome? (fun e =>
      match r.neighbour e with
      | some (n, f) => if n = y then some (e, f) else none
      | none => none))

/-- The links of adjacent route sections, none when a pair has none or repeats a section (R15, check 1). -/
def routeLinks (secs : List SectionRec) : List Nat → Option (List (TrackEnd × TrackEnd))
  | [] => some []
  | [_] => some []
  | x :: y :: rest =>
    if x = y then none
    else
      match linkBetween secs x y, routeLinks secs (y :: rest) with
      | some l, some ls => some (l :: ls)
      | _, _ => none

/-- The end opposite an end of a plain section. -/
def plainOpposite (e : TrackEnd) : TrackEnd :=
  match e with
  | .a => .b
  | .b | .c => .a

/-- The end of a leg away from the toe. -/
def legEnd (leg : Leg) : TrackEnd :=
  match leg with
  | .diverge => .c
  | .plain | .straight => .b

/-- The leg that an end away from the toe fixes. -/
def endLeg (e : TrackEnd) : Leg :=
  match e with
  | .c => .diverge
  | .a | .b => .straight

/-- One derived route entry before its coordinates: the section record and its entry and exit ends; the exit end of a last
points entry entered at its toe stays open until the pad gives the leg (R15). -/
structure DerivedEntry where
  rec' : SectionRec
  entry : TrackEnd
  exit : Option TrackEnd
  deriving DecidableEq, Repr

/-- The entry end of a first entry from its exit end (R15). -/
def firstEntryEnd (r : SectionRec) (refLeg : Leg) (exit : TrackEnd) : TrackEnd :=
  match r.kind, exit with
  | .plain, e => plainOpposite e
  | .points, .a => legEnd refLeg
  | .points, _ => .a

/-- The exit end of a last entry from its entry end (R15). -/
def lastExitEnd (r : SectionRec) (entry : TrackEnd) (padLeg : Option Leg) : Option TrackEnd :=
  match r.kind, entry with
  | .plain, e => some (plainOpposite e)
  | .points, .a => padLeg.map legEnd
  | .points, _ => some .a

/-- The derived entries of a route of two or more sections: entry ends from the links before, exit ends from the links
after. -/
def deriveFrom (padLeg : Option Leg) : TrackEnd → List SectionRec → List (TrackEnd × TrackEnd) → List DerivedEntry
  | entry, r :: rs, (e, f) :: ls => ⟨r, entry, some e⟩ :: deriveFrom padLeg f rs ls
  | entry, r :: _, [] => [⟨r, entry, lastExitEnd r entry padLeg⟩]
  | _, [], _ => []

/-- The leg of a derived entry: PLAIN, or the leg whose end is not the toe; none when neither end or both are the toe
(R15, check 4). -/
def DerivedEntry.leg (d : DerivedEntry) : Option Leg :=
  match d.rec'.kind with
  | .plain => some .plain
  | .points =>
    match d.entry, d.exit with
    | .a, some .b => some .straight
    | .a, some .c => some .diverge
    | .b, some .a => some .straight
    | .c, some .a => some .diverge
    | _, _ => none

/-- The route entries with their coordinates (R14), from the coordinate of the first entry end on. -/
def placeEntries : Nat → List DerivedEntry → List RouteEntry
  | _, [] => []
  | c, d :: ds =>
    let leg := d.leg.getD .plain
    let c1 := c + d.rec'.legLength leg
    { sec := d.rec'.number, dir := directionFrom d.entry, leg := leg, entryEnd := d.entry
      exitEnd := d.exit.getD .a, c0 := c, c1 := c1 } :: placeEntries c1 ds

/-- The pad record of a number; none for 0 and for a number that names no pad (R5). -/
def findPad (pads : List PadRec) (n : Nat) : Option PadRec :=
  pads.find? (fun p => p.number == n)

/-- The derived entries of a route (R15, "The derivation"). -/
def deriveRoute (refLeg : Leg) (refOffset : Nat) (pad : Option PadRec) (recs : List SectionRec)
    (links : List (TrackEnd × TrackEnd)) : List DerivedEntry :=
  match recs, links with
  | [r], _ =>
    let dir := match pad with
      | some p => if p.sec = r.number && decide (p.offset * 1000 < refOffset) then Direction.towardA else .towardB
      | none => .towardB
    [⟨r, entryEnd refLeg dir, some (exitEnd refLeg dir)⟩]
  | r :: rs, (e, f) :: ls =>
    let lastNo := (recs.getLast?.map (·.number)).getD 0
    let padLeg := pad.bind (fun p => if p.sec = lastNo then some p.leg else none)
    ⟨r, firstEntryEnd r refLeg e, some e⟩ :: deriveFrom padLeg f rs ls
  | _, _ => []

/-- Check 4 on the first entry: an exit end B or C agrees with the reference's leg (R15). -/
def firstLegAgrees (refLeg : Leg) (d : DerivedEntry) : Bool :=
  match d.rec'.kind, d.exit with
  | .points, some .b => refLeg == .straight
  | .points, some .c => refLeg == .diverge
  | _, _ => true

/-- The pad's entry: the last entry, or the second-to-last when the front extent at the pad lies past its exit end, in the
last one (R16, check 5). Answers the route index and the pad's coordinate. -/
def padPlace (secs : List SectionRec) (entries : List RouteEntry) (p : PadRec) (half : Nat) : Option (Nat × Nat) :=
  let n := entries.length
  let at' (k : Nat) : Option Nat :=
    (entries[k - 1]?).bind (fun e =>
      if e.sec = p.sec && e.leg = p.leg then some (e.coord secs (p.offset * 1000)).toNat else none)
  match at' n with
  | some c => some (n, c)
  | none =>
    if n < 2 then none
    else
      match at' (n - 1), entries[n - 2]? with
      | some c, some e =>
        if e.c1 < c + half && decide (c + half ≤ (entries.getLast?.map (·.c1)).getD 0) then some (n - 1, c) else none
      | _, _ => none

/-- Route validation (R15, R16): the refusal reason of the first check that fails, or the validated route. -/
def validateRoute (secs : List SectionRec) (pads : List PadRec) (length dockTol : Nat) (ref : Point) (route : List Nat)
    (padNo : Nat) : Except RefuseReason Route :=
  let recs := route.filterMap (findSection secs)
  if route.length < 1 || Config.maxRoute < route.length || recs.length != route.length then .error .routeBroken
  else
    match routeLinks secs route with
    | none => .error .routeBroken
    | some links =>
      if route.head? != some ref.sec then .error .routeStart
      else
        let pad := findPad pads padNo
        let ds := deriveRoute ref.leg ref.offset pad recs links
        if ds.any (fun d => d.exit == some d.entry) then .error .routeDirection
        else if ds.any (fun d => d.leg.isNone) || !((ds.head?.map (firstLegAgrees ref.leg)).getD true) then
          .error .routePoints
        else
          let entries := placeEntries 0 ds
          let total := (entries.getLast?.map (·.c1)).getD 0
          let half := length * 500 + dockTol * 1000
          match pad.bind (fun p => padPlace secs entries p half) with
          | none => .error .routePad
          | some (k, c) =>
            if c < half || total < c + half then .error .routeShort
            else .ok { entries := entries, padCoord := c, padIdx := k, total := total }

end Sys2Proof.Machine
end

