-- ==== Sys2Proof/Machine/Derived.lean ====
section
/-! DEFINITION. What the blocks answer one another without changing: the reference, footprint and uncertainty of ODO (R25, R39),
the questions of PTB (R48, R53, R54), the current ticket and front entry of CLE (R58, R60, R85), the leg for a toe (R27). -/

namespace Sys2Proof.Machine

/-- This station's number. -/
def Dev.station (d : Dev) : Nat :=
  d.tmp.carriage.station

/-- The entries of the current order's route; empty with no order. -/
def Dev.routeEntries (d : Dev) : List RouteEntry :=
  match d.stc.order with
  | some o => o.route.entries
  | none => []

/-! ### Odometer -/

/-- A channel counts toward the sample while it is HEALTHY (R20). -/
def Odo.bothFailed (o : Odo) : Bool :=
  o.chA.failed && o.chB.failed

def Odo.bothHealthy (o : Odo) : Bool :=
  !o.chA.failed && !o.chB.failed

/-- The reference point (R24). -/
def PositionRec.point (p : PositionRec) : Point :=
  { sec := p.sec, leg := p.leg, offset := p.offset, dir := p.dir, idx := p.idx }

/-- The growth in ‰ used for U at the present channel health (R20, R25). -/
def Dev.growth (d : Dev) : Nat :=
  if d.odo.bothHealthy then d.tmp.carriage.growth else 2 * d.tmp.carriage.growth

/-- U from its three terms (R25), before the cap. -/
def Dev.uncertainty (d : Dev) (uAnchor travelled disagreement : Nat) : Nat :=
  uAnchor + ceilDiv (travelled * d.growth) 1000 + ceilDiv disagreement 2

/-- v_meas in mm/s (R22). -/
def Odo.vMeas (o : Odo) : Nat :=
  o.history.foldl (· + ·) 0 / 100

/-- The footprint of this station (R13, R39); with no position there is none. -/
def Dev.footprint (d : Dev) : Footprint :=
  footprintOf d.tmp.sections d.routeEntries d.odo.pos.point (halfSpan d.tmp.carriage.length d.odo.pos.unc)

/-- A section is under this station's footprint; never while the record is UNKNOWN. -/
def Dev.underOwn (d : Dev) (sec : Nat) : Bool :=
  d.odo.known && d.footprint.covers sec

/-- The section and the offset in mm that ODO gives for the beacon; 0 and 0 while the record is UNKNOWN (R39, R180). -/
def Odo.beaconPlace (o : Odo) : Nat × Nat :=
  if o.known then (o.pos.sec, o.pos.offset / 1000) else (0, 0)

/-- Travel is in the route's sense: the record's direction is the route's at the reference, also where the reference has left the
route (R91); with no order current it counts as such. -/
def Dev.withRoute (d : Dev) : Bool :=
  match d.stc.order with
  | some o => (o.route.place d.tmp.sections d.odo.pos.point).2 == d.odo.pos.dir
  | none => true

/-- The route coordinate of the reference for a route (R14). -/
def Dev.refCoord (d : Dev) (r : Route) : Int :=
  r.coord d.tmp.sections d.odo.pos.point

/-- The front extent, the farthest of the branches (R13, log 35). DESIGN CHOICE: of two branches that reach equally far, the STRAIGHT
leg's (log 35). -/
def Dev.frontPoint (d : Dev) : Point :=
  let es := d.footprint.front
  ((es.find? (fun e => e.short == leastShort es)).map (·.point)).getD d.odo.pos.point

/-- The footprint's sections in the order of the claim table: from the rear, in the route's sense while an order is current (R58). -/
def Dev.trackOrder (d : Dev) : List Nat :=
  if d.withRoute then d.footprint.sections else d.footprint.sections.reverse

/-- The route coordinate of the front extent: the half-span ahead of the reference, short of it at a buffer (R13, R91,
log 35). -/
def Dev.frontCoord (d : Dev) (r : Route) : Int :=
  let f := d.footprint
  let reach : Int := (f.half : Int) - (leastShort f.front : Int)
  if d.withRoute then d.refCoord r + reach else d.refCoord r - reach

/-- The route coordinate of the rear extent: the half-span behind the reference, short of it at a buffer (R13, R91, log 35). -/
def Dev.rearCoord (d : Dev) (r : Route) : Int :=
  let f := d.footprint
  let reach : Int := (f.half : Int) - (leastShort f.rear : Int)
  if d.withRoute then d.refCoord r - reach else d.refCoord r + reach

/-! ### Peer Table -/

/-- The record of a station. -/
def Dev.peer (d : Dev) (n : Nat) : Option PeerRec :=
  d.peers.find? (fun r => r.station == n)

/-- A carriage record's footprint sections (R54). -/
def Dev.peerFootprint (d : Dev) (r : PeerRec) : List Nat :=
  if r.kind == .carriage && r.sec != 0 then peerSections d.tmp.sections r.sec r.offset r.dir r.length r.unc else []

/-- The basis on which a record blocks a section, the first that applies (R53). -/
def Dev.blockBasis (d : Dev) (r : PeerRec) (sec : Nat) : Option BlockBasis :=
  if r.kind == .carriage && r.held.contains sec then some .held
  else if (d.peerFootprint r).contains sec then some .occupied
  else if r.intent.any (fun i => i.sec == sec) then some .intent
  else none

/-- Whether a section is blocked in this station's view, by which station and on which basis: the first record in ascending
station number (R53). -/
def Dev.blocked (d : Dev) (sec : Nat) : Option (Nat × BlockBasis) :=
  d.peers.findSome? (fun r => (d.blockBasis r sec).map (fun b => (r.station, b)))

/-- The count of CARRIAGE records that are both FOREIGN and FRESH (R49). -/
def Dev.foreignCount (d : Dev) : Nat :=
  (d.peers.filter (fun r => r.kind == .carriage && r.foreign && r.freshness == .fresh)).length

/-- The leg a junction last reported for a points section, while its record is FRESH (R48). -/
def Dev.reportedLeg (d : Dev) (sec : Nat) : Option Leg :=
  (findSection d.tmp.sections sec).bind (fun s =>
    (d.peer s.junction).bind (fun r =>
      if r.freshness == .fresh then (r.points.find? (fun e => e.sec == sec)).map (·.leg) else none))

/-! ### Claim Engine -/

/-- The claim table's entry for a section. -/
def Cle.entry (c : Cle) (sec : Nat) : Option Claim :=
  c.table.find? (fun e => e.sec == sec)

/-- The section is HELD in the claim table. -/
def Cle.holds (c : Cle) (sec : Nat) : Bool :=
  c.table.any (fun e => e.sec == sec && e.isHeld)

/-- The front entry: the first route entry that is not HELD (R58). -/
def Cle.front (c : Cle) : Option Claim :=
  c.table.find? (fun e => e.idx.isSome && !e.isHeld)

/-- The state of the front entry. -/
def Cle.frontState (c : Cle) : Option ClaimState :=
  c.front.map (·.state)

/-- The HELD sections in table order (R86). -/
def Cle.heldSections (c : Cle) : List Nat :=
  (c.table.filter Claim.isHeld).map (·.sec)

/-- The CONTENDING entry's section and ticket (R86). -/
def Cle.contention (c : Cle) : Option (Nat × Ticket) :=
  c.table.findSome? (fun e => match e.state with
    | .contending t _ _ => some (e.sec, t)
    | .wanted _ | .blocked _ _ _ | .held _ _ => none)

/-- The waiting-for of this station's beacon: the front entry's section and blocker when it is BLOCKED (R86). -/
def Cle.waitingFor (c : Cle) : Nat × Nat :=
  match c.front with
  | some e =>
    match e.state with
    | .blocked p _ _ => (e.sec, p)
    | .wanted _ | .contending _ _ _ | .held _ _ => (0, 0)
  | none => (0, 0)

/-- The current ticket (R60). -/
def Dev.currentTicket (d : Dev) : Ticket :=
  { occupancy := false
    loss := d.cle.lossCount
    priority := (d.cle.view.map (·.priority)).getD 0
    station := d.station }

/-- The ticket of the beacon (R86). -/
def Dev.beaconTicket (d : Dev) : Ticket :=
  match d.cle.contention with
  | some (_, t) => t
  | none => d.currentTicket

/-- The kind of a section in this station's map is POINTS. -/
def Dev.isPoints (d : Dev) (sec : Nat) : Bool :=
  (findSection d.tmp.sections sec).any (fun r => r.kind == .points)

/-- An entry is usable: HELD, and LOCKED for a points section (R85). -/
def Dev.usable (d : Dev) (e : Claim) : Bool :=
  e.isHeld && (!d.isPoints e.sec || e.points == .locked)

/-- The leg ODO takes into a points section through its toe: the leg needed of the claim table's entry when the table holds
one, failing that the leg its junction last reported; none when neither gives one (R27). -/
def Dev.toeLegs (d : Dev) (sec : Nat) : List Leg :=
  match (d.cle.entry sec).bind (·.legNeeded) with
  | some leg => [leg]
  | none => (d.reportedLeg sec).toList

/-- The backoff of a lost contention and of a mutual-wait yield: Tw × (1 + station number mod 4) ms (R68, R77). -/
def Dev.claimBackoff (d : Dev) : Timer :=
  d.timerMs (d.tmp.plan.claimWindow * (1 + d.station % 4))

/-- The distance in µm ahead from the front extent to the end at which the carriage enters a route entry, in the direction of travel: the
lower end with the route's sense and the upper one against it, by route coordinates (R14, R91). -/
def Dev.entryEndOf (d : Dev) (r : Route) (e : RouteEntry) : Int :=
  if d.withRoute then (e.c0 : Int) - d.frontCoord r else d.frontCoord r - e.c1

/-- The distance in µm from the front extent to the entry end of a claim's section: by route coordinates for a route entry. An entry with
no route index has the least distance at which the track ahead of a front extent enters its section, and none when it lies behind
(DESIGN CHOICE, log 17). -/
def Dev.entryEndAhead (d : Dev) (c : Claim) : Option Int :=
  match c.idx with
  | some k => d.cle.view.bind (fun v => (v.route.entries[k - 1]?).map (d.entryEndOf v.route))
  | none =>
    (leastOf (d.footprint.front.filterMap (fun x => enterDistance d.tmp.sections d.routeEntries c.sec x.point))).map (fun n => (n : Int))

/-- The entry end of a claim's section lies ahead of the front extent and within the stopping distance of SUP's last evaluation
(R59, R75, R105, log 17). -/
def Dev.withinStopping (d : Dev) (c : Claim) : Bool :=
  (d.entryEndAhead c).any (fun x => decide (0 ≤ x) && decide (x ≤ (d.sup.sd : Int) * 1000))

/-- The entry end of a claim's section lies beyond the stopping distance, or nowhere ahead (R76). DESIGN CHOICE: a route entry whose
entry end lies behind the front extent is neither within the stopping distance nor beyond it (log 17). -/
def Dev.beyondStopping (d : Dev) (c : Claim) : Bool :=
  (d.entryEndAhead c).all (fun x => decide ((d.sup.sd : Int) * 1000 < x))

/-- CLE examines nothing and lets no entry join: no order current, an ABORT taken, or SAFE-STOP (R65, R66, R80). -/
def Dev.claimingStopped (d : Dev) : Bool :=
  d.cle.view.isNone || d.cle.abortPending || d.stc.abortPending || d.stc.state == .safeStop

/-! ### Beacon (R169) -/

/-- The state byte of a beacon. -/
def Dev.stateByte (d : Dev) : Byte :=
  BitVec.ofNat 8 (d.stc.state.code + 128 * (d.stc.state == .running && d.stc.waiting).toNat)

/-- The payload of a BEACON from the values its owners hold now (R169). -/
def Dev.beaconPayload (d : Dev) : List Byte :=
  let held := d.cle.heldSections
  let known := d.odo.known
  let place := d.odo.beaconPlace
  let flags := d.odo.pos.dir.code + 2 * (d.odo.pos.validity == .restricted).toNat + 4 * d.sup.warnFlag.toNat
  let wait := d.cle.waitingFor
  beBytes 4 d.tmp.signature.toNat ++ [d.stateByte, d.faultSummary]
    ++ beBytes 2 ((d.stc.order.map (·.id)).getD 0)
    ++ [BitVec.ofNat 8 place.1] ++ beBytes 3 place.2 ++ [BitVec.ofNat 8 flags]
    ++ beBytes 2 (min d.odo.vMeas 65535) ++ beBytes 2 d.tmp.carriage.length
    ++ beBytes 2 (if known then ceilDiv d.odo.pos.unc 1000 else 0)
    ++ (BitVec.ofNat 8 held.length :: held.map (BitVec.ofNat 8 ·))
    ++ [BitVec.ofNat 8 ((d.cle.contention.map (·.1)).getD 0), d.beaconTicket.toByte,
      BitVec.ofNat 8 wait.1, BitVec.ofNat 8 wait.2]

end Sys2Proof.Machine
end

