-- ==== Sys2Proof/Machine/Line.lean ====
section
/-! DEFINITION. The transmit queue (R173), the link test's sequence (R176) and the backoff generator (R164): what the other
blocks use of the Line Interface. -/

namespace Sys2Proof.Machine

/-- The transmitter follows the queue: IDLE enters WAITING when the queue holds a frame, WAITING returns to IDLE when it has
emptied (R163). -/
def Lif.follow (l : Lif) : Lif :=
  match l.tx with
  | .idle => if l.queue.isEmpty then l else { l with tx := .waiting }
  | .waiting => if l.queue.isEmpty then { l with tx := .idle } else l
  | .sending | .backoff => l

/-- A frame is placed after every frame of its class (R173, 2). -/
def Lif.place (l : Lif) (e : TxEntry) : Lif :=
  ({ l with queue := insertSorted (fun x => x.kind.txClass) e l.queue }).follow

/-- The queue without its last entry that satisfies a test; none when no entry does. -/
def dropLast? (p : TxEntry → Bool) (q : List TxEntry) : Option (List TxEntry) :=
  if q.any p then some (q.reverse.eraseP p).reverse else none

/-- The newest class 3 frame, or the BEACON, leaves a full queue; a frame being sent is no candidate (R173). -/
def evictReport (q : List TxEntry) : Option (List TxEntry) :=
  dropLast? (fun x => x.kind.txClass == 3 && !x.sending) q

def evictBeacon (q : List TxEntry) : Option (List TxEntry) :=
  dropLast? (fun x => x.kind == .beacon && !x.sending) q

/-- The full queue with room made for an arriving frame of a class; none when the frame is dropped (R173, 3 to 5). -/
def makeRoom (cls : Nat) (q : List TxEntry) : Option (List TxEntry) :=
  if cls ≤ 1 then
    match evictReport q with
    | some q' => some q'
    | none => evictBeacon q
  else if cls = 2 then evictReport q
  else none

/-- Queuing a frame (R173). The answer says whether it was not dropped on arrival; while LIF is inactive it is dropped without
count. -/
def Dev.enqueue (d : Dev) (kind : FrameKind) (dest : Nat) (payload : List Byte) (tag : Option Nat) : Dev × Bool :=
  let e : TxEntry := { kind := kind, dest := dest, payload := payload, attempts := 0, tag := tag, sending := false }
  if !d.lif.active then (d, false)
  else if kind == .beacon && d.lif.queue.any (fun x => x.kind == .beacon) then (d.bump .coalescedBeacons, true)
  else if d.lif.queue.length < Config.maxQueue then ({ d with lif := d.lif.place e }, true)
  else
    match makeRoom kind.txClass d.lif.queue with
    | some q => (({ d with lif := ({ d.lif with queue := q }).place e }).bump .queueDrops, true)
    | none => (d.bump .queueDrops, false)

/-- Queuing a frame whose drop its block does not act on. -/
def Dev.send (d : Dev) (kind : FrameKind) (dest : Nat) (payload : List Byte) : Dev :=
  (d.enqueue kind dest payload none).1

/-- CLE withdraws a queued INTENT; one being sent is finished (R67, R173). DESIGN CHOICE: it stays queued when that sending meets a
collision, and is sent again (log 71). -/
def Dev.withdraw (d : Dev) (tag : Nat) : Dev :=
  { d with lif := ({ d.lif with
      queue := d.lif.queue.filter (fun (x : TxEntry) => !(x.kind == FrameKind.intent && x.tag == some tag && !x.sending)) } : Lif).follow }

/-- An ORDER-REPORT to a console (R145, R170). -/
def Dev.orderReport (d : Dev) (console : Nat) (req : ReportRequest) (id : Nat) (o : ReportOutcome) : Dev :=
  d.send .orderReport console (orderReportPayload req id o)

/-! ### Backoff generator (R164) -/

/-- One step: the exclusive-or of bits 16, 14, 13 and 11 enters bit 1, every bit moves up one place. -/
def lfsrStep (r : BitVec 16) : BitVec 16 :=
  let b := r.getLsbD 15 ^^ r.getLsbD 13 ^^ r.getLsbD 12 ^^ r.getLsbD 10
  (r <<< 1) ||| BitVec.ofNat 16 b.toNat

/-- The backoff in slots: bits 1 to 4 plus one. -/
def lfsrSlots (r : BitVec 16) : Nat :=
  r.toNat % 16 + 1

/-! ### Link test sequence (R176) -/

/-- The register loaded from a seed: its low 15 bits, all ones in place of all zeros. -/
def testSeed (seed : Nat) : BitVec 15 :=
  if seed % 32768 = 0 then BitVec.allOnes 15 else BitVec.ofNat 15 seed

/-- One step: the bit given is bit 15; the exclusive-or of bits 15 and 14 enters bit 1. -/
def testStep (r : BitVec 15) : Bool × BitVec 15 :=
  (r.getLsbD 14, (r <<< 1) ||| BitVec.ofNat 15 (r.getLsbD 14 ^^ r.getLsbD 13).toNat)

/-- Eight steps give a byte, the first bit most significant. -/
def testByte (r : BitVec 15) : Byte × BitVec 15 :=
  (List.range 8).foldl (fun acc _ =>
    let s := testStep acc.2
    ((acc.1 <<< 1) ||| BitVec.ofNat 8 s.1.toNat, s.2)) (0, r)

/-- The number of bit positions in which two bytes differ. -/
def bitDiff (x y : Byte) : Nat :=
  ((List.range 8).filter (fun i => x.getLsbD i != y.getLsbD i)).length

/-- The differences of received bytes from the expected ones, and the register after them. -/
def testCompare (bytes : List Byte) (r : BitVec 15) : Nat × BitVec 15 :=
  bytes.foldl (fun acc b =>
    let e := testByte acc.2
    (acc.1 + bitDiff b e.1, e.2)) (0, r)

end Sys2Proof.Machine
end

