-- ==== Sys2Proof/Machine/MapLoad.lean ====
section
/-! DEFINITION. Reading the plan image (R172), the load checks (R10), defaults and clamping (R8), the lock (R2, R9). -/

namespace Sys2Proof.Machine

/-! ### The records as stored (R172) -/

/-- A marker as stored. -/
structure RawMarker where
  offset : Nat
  leg : Nat
  deriving DecidableEq, Repr

/-- A section record as stored; a neighbour is its section number and end code. -/
structure RawSection where
  number : Nat
  kind : Nat
  length : Nat
  diverge : Nat
  nbrA : Nat × Nat
  nbrB : Nat × Nat
  nbrC : Nat × Nat
  speedLimit : Nat
  grade : Int
  junction : Nat
  count : Nat
  markers : List RawMarker
  deriving DecidableEq, Repr

/-- A pad record as stored. -/
structure RawPad where
  number : Nat
  sec : Nat
  leg : Nat
  offset : Nat
  deriving DecidableEq, Repr

/-- The markers that follow a section record's 19 bytes. -/
def rawMarkers (b : List Byte) (m : Nat) : List RawMarker :=
  (List.range m).map (fun i => ⟨beAt b (4 * i) 3, byteAt b (4 * i + 3)⟩)

/-- A section record of 19 + 4 × m bytes. -/
def rawSection (b : List Byte) : RawSection :=
  { number := byteAt b 0
    kind := byteAt b 1
    length := beAt b 2 3
    diverge := beAt b 5 3
    nbrA := (byteAt b 8, byteAt b 9)
    nbrB := (byteAt b 10, byteAt b 11)
    nbrC := (byteAt b 12, byteAt b 13)
    speedLimit := beAt b 14 2
    grade := signedByte (b.getD 16 0)
    junction := byteAt b 17
    count := byteAt b 18
    markers := rawMarkers (b.drop 19) (byteAt b 18) }

/-- `n` section records one after the other, and the bytes after them. -/
def rawSections : Nat → List Byte → List RawSection × List Byte
  | 0, b => ([], b)
  | n + 1, b =>
    let r := rawSection b
    let rest := rawSections n (b.drop (19 + 4 * r.count))
    (r :: rest.1, rest.2)

/-- `n` pad records of 6 bytes. -/
def rawPads (n : Nat) (b : List Byte) : List RawPad :=
  (List.range n).map (fun i => ⟨byteAt b (6 * i), byteAt b (6 * i + 1), byteAt b (6 * i + 2), beAt b (6 * i + 3) 3⟩)

/-- The section, pad and marker counts of block 1. -/
def planCounts (plan : List Byte) : Nat × Nat × Nat :=
  (byteAt plan 0, byteAt plan 1, beAt plan 2 2)

/-- A count exceeds its limit (R10, R194). -/
def countsOver (c : Nat × Nat × Nat) : Bool :=
  decide (Config.maxSections < c.1) || decide (Config.maxPads < c.2.1) || decide (Config.maxMarkers < c.2.2)

/-- The blocks to read (R194). -/
def blocksToRead (c : Nat × Nat × Nat) : Nat :=
  2 + ceilDiv (19 * c.1 + 4 * c.2.2 + 6 * c.2.1) 30

/-! ### The load checks (R10), each answering the first number that fails -/

/-- The end of a code. -/
def TrackEnd.ofCode (n : Nat) : Option TrackEnd :=
  [TrackEnd.a, .b, .c].find? (fun e => e.code == n)

/-- The neighbours of a stored section with the ends they stand at: A and B, and C of a POINTS section. -/
def RawSection.neighbours (r : RawSection) : List (Nat × Nat × Nat) :=
  [(0, r.nbrA), (1, r.nbrB)] ++ if r.kind = 2 then [(2, r.nbrC)] else []

/-- The stored neighbour at an end. -/
def RawSection.at' (r : RawSection) (e : Nat) : Option (Nat × Nat) :=
  (r.neighbours.find? (fun n => n.1 == e)).map (·.2)

/-- The length of a stored leg in mm, none for a leg the section does not have. -/
def RawSection.legOf (r : RawSection) (leg : Nat) : Option Nat :=
  if r.kind = 2 then
    if leg = 1 then some r.length else if leg = 2 then some r.diverge else none
  else if leg = 0 then some r.length
  else none

def lengthInRange (n : Nat) : Bool :=
  decide (1000 ≤ n) && decide (n ≤ 400000)

/-- "section fields". -/
def RawSection.fieldsOk (station : Nat) (r : RawSection) : Bool :=
  (r.kind == 1 || r.kind == 2) && lengthInRange r.length && (r.kind != 2 || lengthInRange r.diverge)
    && decide (50 ≤ r.speedLimit) && decide (r.speedLimit ≤ 1500) && decide (-5 ≤ r.grade) && decide (r.grade ≤ 5)
    && (r.kind != 2 || (decide (1 ≤ r.junction) && decide (r.junction ≤ 32) && r.junction != station))

def rawFind (secs : List RawSection) (n : Nat) : Option RawSection :=
  secs.find? (fun r => r.number == n)

/-- "links exist". -/
def RawSection.linksExist (secs : List RawSection) (r : RawSection) : Bool :=
  r.neighbours.all (fun n => n.2.1 == 0 || ((rawFind secs n.2.1).bind (fun y => y.at' n.2.2)).isSome)

/-- "links mutual". -/
def RawSection.linksMutual (secs : List RawSection) (r : RawSection) : Bool :=
  r.neighbours.all (fun n =>
    n.2.1 == 0 || (rawFind secs n.2.1).bind (fun y => y.at' n.2.2) == some (r.number, n.1))

/-- "no self-links". -/
def RawSection.noSelf (r : RawSection) : Bool :=
  r.neighbours.all (fun n => n.2.1 != r.number)

/-- "single link per pair". -/
def RawSection.singleLink (r : RawSection) : Bool :=
  r.neighbours.all (fun n => n.2.1 == 0 || (r.neighbours.filter (fun m => m.2.1 == n.2.1)).length == 1)

/-- A list of offsets ascends with no repeat. -/
def ascends : List Nat → Bool
  | x :: y :: rest => decide (x < y) && ascends (y :: rest)
  | _ => true

/-- "markers". -/
def RawSection.markersOk (r : RawSection) : Bool :=
  decide (r.count ≤ Config.maxSectionMarkers)
    && r.markers.all (fun m => (r.legOf m.leg).any (fun len => decide (0 < m.offset) && decide (m.offset < len)))
    && [0, 1, 2].all (fun leg => ascends ((r.markers.filter (fun m => m.leg == leg)).map (·.offset)))

/-- "pads placed". -/
def RawPad.placed (secs : List RawSection) (p : RawPad) : Bool :=
  (rawFind secs p.sec).any (fun r =>
    (r.legOf p.leg).any (fun len => decide (0 < p.offset) && decide (p.offset < len)))

/-- The number of the first record that fails a test. -/
def firstFail {α : Type} (number : α → Nat) (ok : α → Bool) (l : List α) : Option Nat :=
  (l.find? (fun x => !ok x)).map number

/-- The image read: counts, section records and pad records in ascending number. -/
structure RawMap where
  counts : Nat × Nat × Nat
  sections : List RawSection
  pads : List RawPad
  deriving DecidableEq, Repr

/-- Every record of the image (R172). -/
def readImage (plan records : List Byte) : RawMap :=
  let c := planCounts plan
  let s := rawSections c.1 records
  { counts := c
    sections := sortBy (·.number) s.1
    pads := sortBy (·.number) (rawPads c.2.1 s.2) }

/-- The marker entries of all stored sections. -/
def RawMap.markerTotal (m : RawMap) : Nat :=
  (m.sections.map (·.count)).foldl (· + ·) 0

/-- The load checks in the order of R10 and the first that fails, with the number concerned; 0 for the counts check
(log 29). -/
def RawMap.check (m : RawMap) (station : Nat) : Option (MapCheck × Nat) :=
  let secs := m.sections
  let onSections (ok : RawSection → Bool) : Option Nat := firstFail (·.number) ok secs
  let once (numbers : List Nat) (n : Nat) : Bool := numbers.count n == 1
  [ (MapCheck.counts, if countsOver m.counts || m.markerTotal != m.counts.2.2 then some 0 else none),
    (.sectionNumbers, onSections (fun r =>
      decide (1 ≤ r.number) && decide (r.number ≤ 240) && once (secs.map (·.number)) r.number)),
    (.sectionFields, onSections (RawSection.fieldsOk station)),
    (.linksExist, onSections (RawSection.linksExist secs)),
    (.linksMutual, onSections (RawSection.linksMutual secs)),
    (.noSelfLinks, onSections RawSection.noSelf),
    (.singleLink, onSections RawSection.singleLink),
    (.markers, onSections RawSection.markersOk),
    (.padNumbers, firstFail (·.number) (fun p =>
      decide (1 ≤ p.number) && decide (p.number ≤ 63) && once (m.pads.map (·.number)) p.number) m.pads),
    (.padsPlaced, firstFail (·.number) (RawPad.placed secs) m.pads) ].findSome?
      (fun c => c.2.map (fun n => (c.1, n)))

/-! ### The map as every block uses it -/

def Leg.ofCode (n : Nat) : Leg :=
  if n = 1 then .straight else if n = 2 then .diverge else .plain

/-- A checked section record. -/
def RawSection.typed (r : RawSection) : SectionRec :=
  let nbr (n : Nat × Nat) : Option (Nat × TrackEnd) :=
    if n.1 = 0 then none else (TrackEnd.ofCode n.2).map (fun e => (n.1, e))
  { number := r.number
    kind := if r.kind = 2 then .points else .plain
    length := r.length
    diverge := if r.kind = 2 then r.diverge else 0
    nbrA := nbr r.nbrA
    nbrB := nbr r.nbrB
    nbrC := if r.kind = 2 then nbr r.nbrC else none
    speedLimit := r.speedLimit
    grade := r.grade
    junction := if r.kind = 2 then r.junction else 0
    markers := r.markers.map (fun m => ⟨m.offset, Leg.ofCode m.leg⟩) }

def RawPad.typed (p : RawPad) : PadRec :=
  { number := p.number, sec := p.sec, leg := Leg.ofCode p.leg, offset := p.offset }

/-! ### Defaults and clamping (R8) -/

/-- A value brought into its range. -/
def clamp (lo hi n : Nat) : Nat :=
  if n < lo then lo else if hi < n then hi else n

/-- A stored field of `w` bytes: the default in place of all ones. -/
def orDefault (w dflt raw : Nat) : Nat :=
  if raw = 256 ^ w - 1 then dflt else raw

/-- A field of the boot data with its default and range, and whether it was replaced. -/
def settle (data : List Byte) (pos w dflt lo hi : Nat) : Nat × Bool :=
  let n := orDefault w dflt (beAt data pos w)
  (clamp lo hi n, n != clamp lo hi n)

/-- The plan parameters after R8, and how many were replaced. -/
def settlePlan (data : List Byte) : PlanParams × Nat :=
  let tb := settle data 4 2 250 100 1000
  let tw := settle data 6 2 150 50 1000
  let tl := settle data 8 2 2000 500 10000
  let tq := settle data 10 2 1500 500 10000
  let clr := settle data 12 2 500 0 5000
  let hex := settle data 14 2 10000 0 50000
  let vline := settle data 16 2 1000 100 1500
  let c0 := settle data 18 2 200 10 vline.1
  let c1 := settle data 20 2 400 10 vline.1
  let c2 := settle data 22 2 700 10 vline.1
  let c3 := settle data 24 2 1000 10 vline.1
  let lock := settle data 26 2 5000 1000 30000
  ({ beaconPeriod := tb.1, claimWindow := tw.1, lostTime := tl.1, quietTime := tq.1, clearance := clr.1
     horizonExtra := hex.1, lineMax := vline.1, class0 := c0.1, class1 := c1.1, class2 := c2.1, class3 := c3.1
     lockTimeout := lock.1 },
    ([tb, tw, tl, tq, clr, hex, vline, c0, c1, c2, c3, lock].filter (·.2)).length)

/-- The carriage parameters after R8, and how many were replaced; the station number is as stored (R7). -/
def settleCarriage (data : List Byte) : CarriageParams × Nat :=
  let len := settle data 1 2 8000 2000 20000
  let pa := settle data 3 2 500 100 5000
  let pb := settle data 5 2 500 100 5000
  let growth := settle data 7 1 10 2 50
  let mtol := settle data 8 1 5 1 50
  let ptol := settle data 9 1 1 1 10
  let dtol := settle data 10 1 3 1 20
  let asv := settle data 11 2 200 100 800
  let tr := settle data 13 2 300 50 1000
  let m := settle data 15 2 3000 500 10000
  let acc := settle data 17 2 100 20 500
  let vc := settle data 19 1 25 10 100
  let appr := settle data 20 2 2500 500 10000
  let vm := settle data 22 1 30 10 200
  let slip := settle data 23 2 100 20 500
  let clampT := settle data 25 2 20000 5000 60000
  let loc := settle data 27 2 2000 100 10000
  ({ station := byteAt data 0, length := len.1, pitchA := pa.1, pitchB := pb.1, growth := growth.1
     markerTol := mtol.1, padTol := ptol.1, dockTol := dtol.1, serviceDecel := asv.1, reaction := tr.1, margin := m.1
     accel := acc.1, creep := vc.1, approach := appr.1, overspeed := vm.1, slipThreshold := slip.1
     clampTimeout := clampT.1, locateUnc := loc.1 },
    ([len, pa, pb, growth, mtol, ptol, dtol, asv, tr, m, acc, vc, appr, vm, slip, clampT, loc].filter (·.2)).length)

/-- The speed Vorder of a class (R6). -/
def PlanParams.classSpeed (p : PlanParams) (c : Nat) : Nat :=
  match c with
  | 0 => p.class0
  | 1 => p.class1
  | 2 => p.class2
  | _ => p.class3

/-- Discarding what was taken (R2). -/
def Tmp.unload (_t : Tmp) : Tmp :=
  Tmp.reset

/-- The plan signature (R9): over the data bytes of block 1 and of every later block. -/
def Tmp.computeSignature (t : Tmp) : BitVec 32 :=
  crc32 (t.planData ++ t.recordData)

/-- The lock after the checks (R2, R8, R9), with the number of replacements. -/
def Tmp.lock (t : Tmp) : Tmp × Nat :=
  let m := readImage t.planData t.recordData
  let plan := settlePlan t.planData
  let carriage := settleCarriage t.carriageData
  ({ phase := .locked
     sections := m.sections.map RawSection.typed
     pads := m.pads.map RawPad.typed
     plan := plan.1
     carriage := carriage.1
     signature := t.computeSignature
     carriageData := []
     planData := []
     recordData := [] },
    plan.2 + carriage.2)

end Sys2Proof.Machine
end

