-- ==== Sys2Proof/Machine/Outputs.lean ====
section
/-! DEFINITION. What the Brake and Drive Unit does for the other blocks: its outputs (R110, R111, R113, R114), the latches
(R121), the release train (R124), the clamp commands (R125), the direction line (R112), the zeroing of the demand (R104), and
the Dock Controller's clamp watch (R139). -/

namespace Sys2Proof.Machine

/-- BDU holds every output at its reset value: it is inactive, or the station is in START, BOOT-FAILED or BOOT-HOLD (R110). -/
def Dev.outputsHeld (d : Dev) : Bool :=
  !d.bdu.active || d.stc.state == .start || d.stc.state == .bootFailed || d.stc.state == .bootHold

/-- Every output re-judged after an event (R110, R111, R113, R114). -/
def Dev.settle (d : Dev) : Dev :=
  let held := d.outputsHeld
  let b := d.bdu
  { d with bdu := { b with
      duty := if held || b.forced then 0 else b.duty
      traction := !(held || b.forced)
      serviceBrake := held || b.sourced || b.latched } }

/-- The clamp watch timer runs while both sensors and both commands are inactive, from DKC's activation (R139). -/
def Dev.watchClamps (d : Dev) : Dev :=
  if d.dkc.active && !d.bdu.inClampsDown && !d.bdu.inClampsUp && !d.bdu.clampDown && !d.bdu.clampUp then
    match d.dkc.watchTimer with
    | some _ => d
    | none => { d with dkc := { d.dkc with watchTimer := d.timerMs d.tmp.carriage.clampTimeout } }
  else { d with dkc := { d.dkc with watchTimer := none } }

/-- SUP sets its demand to 0 and hands that over at once (R90, R104, R137). -/
def Dev.zeroDemand (d : Dev) : Dev :=
  { d with
    sup := { d.sup with demand := 0 }
    bdu := { d.bdu with demandHanded := 0, duty := 0 } }

/-- The train made STOPPED with the output low and the timer stopped; a change from RUNNING is counted (R124). -/
def Dev.stopTrain (d : Dev) : Dev :=
  let d' := { d with bdu := { d.bdu with trainRunning := false, trainLevel := false, trainTimer := none } }
  if d.bdu.trainRunning then d'.bump .trainStops else d'

/-- A latch's flag. -/
def Bdu.latch (b : Bdu) : Latch → Bool
  | .safeStop => b.latchSafeStop
  | .clampsNotUp => b.latchClampsNotUp
  | .supplyLow => b.latchSupplyLow

/-- A latch written. -/
def Bdu.withLatch (b : Bdu) (l : Latch) (v : Bool) : Bdu :=
  match l with
  | .safeStop => { b with latchSafeStop := v }
  | .clampsNotUp => { b with latchClampsNotUp := v }
  | .supplyLow => { b with latchSupplyLow := v }

/-- The counter of a latch's settings (R126). -/
def Latch.counter : Latch → Counter
  | .safeStop => .setSafeStop
  | .clampsNotUp => .setClampsNotUp
  | .supplyLow => .setSupplyLow

/-- A latch's condition comes to hold: a clear latch is set with the steps of R121, a set one counts a repeat (R116). -/
def Dev.setLatch (d : Dev) (l : Latch) : Dev :=
  if d.bdu.latch l then d.bump .latchRepeats
  else ((({ d with bdu := d.bdu.withLatch l true }).bump l.counter).settle.stopTrain).zeroDemand

/-- The clamp-down command is made active: the other inactive, the duty 0 and traction off (R125). -/
def Dev.requestClampDown (d : Dev) : Dev :=
  ({ d with bdu := { d.bdu with clampUp := false, clampDown := true } }).settle.watchClamps

/-- The clamp-up command is made active (R125). -/
def Dev.requestClampUp (d : Dev) : Dev :=
  ({ d with bdu := { d.bdu with clampDown := false, clampUp := true } }).settle.watchClamps

/-- Both clamp commands are made inactive (R125, R128, R136). -/
def Dev.dropClampCommands (d : Dev) : Dev :=
  ({ d with bdu := { d.bdu with clampDown := false, clampUp := false } }).settle.watchClamps

/-- The direction line set, with nothing else of BDU. -/
def Dev.setLine (d : Dev) (dir : Direction) : Dev :=
  { d with bdu := { d.bdu with dirLine := dir } }

/-- A direction change that ODO notifies: the duty 0, then the direction line at the new direction; a nonzero duty is a reversal
under demand (R112). -/
def Dev.reverseLine (d : Dev) (dir : Direction) : Dev :=
  let d' := { d with bdu := { d.bdu with duty := 0, dirLine := dir } }
  if d.bdu.duty = 0 then d' else d'.bump .reversals

end Sys2Proof.Machine
end

