-- ==== Sys2Proof/Machine/Faults.lean ====
section
/-! DEFINITION. The Fault Collector's set (R179 to R184): entering a kind, ending a cause, clearing, reporting. What a raise
does to the station is in Station.lean. -/

namespace Sys2Proof.Machine

/-- An entry placed in ascending kind code (R179). -/
def faultInsert (e : FaultEntry) (l : List FaultEntry) : List FaultEntry :=
  insertSorted (fun (x : FaultEntry) => x.kind.code) e l

/-- FAULT-REPORT RAISED for a kind of the set, queued to all, and its reported flag set (R183). -/
def Dev.reportFault (d : Dev) (e : FaultEntry) : Dev :=
  let d' := { d with faults := d.faults.map (fun (x : FaultEntry) => if x.kind = e.kind then { x with reported := true } else x) }
  (d'.send .faultReport 0 (faultReportPayload 1 e.kind e.repeats 0 e.sec e.offset)).bump .raisedQueued

/-- A kind enters the set, or counts a repeat (R180). The report of a kind that enters before LISTEN waits (R184). -/
def Dev.enterFault (d : Dev) (k : FaultKind) : Dev :=
  let d := d.bump k.cls.total
  if d.faultActive k then
    { d with faults := d.faults.map (fun (x : FaultEntry) => if x.kind = k then { x with repeats := satInc x.repeats } else x) }
  else
    let place := d.odo.beaconPlace
    let e : FaultEntry :=
      { kind := k, repeats := 0, sec := place.1, offset := place.2, clearBlocked := false, reported := false }
    let d := ({ d with faults := faultInsert e d.faults }).bump .kindsEntered
    if d.lif.active then d.reportFault e else d

/-- The cause of a free-running kind has ended (R181). -/
def Dev.causeEnded (d : Dev) (k : FaultKind) : Dev :=
  if d.faultActive k then ({ d with faults := d.faults.filter (fun (x : FaultEntry) => x.kind != k) }).bump .causesEnded
  else d

/-- The reports held until LISTEN, in ascending kind code (R184). -/
def Dev.reportHeld (d : Dev) : Dev :=
  (d.faults.filter (fun (e : FaultEntry) => !e.reported)).foldl Dev.reportFault d

/-- A latched kind that a CLEAR-FAULTS removes, by its standstill mark (R182). -/
def FaultKind.clearable (k : FaultKind) (standstill supplyLow : Bool) : Bool :=
  !k.freeRunning && k != .configClamped &&
    (if k == .supplyLow then standstill && !supplyLow else k.cls != .safeStop || standstill)

/-- A CLEAR-FAULTS taken by FCL (R182), with its counters (R188). -/
def Dev.clearFaultSet (d : Dev) (standstill : Bool) : Dev :=
  let supply := d.bdu.inSupplyLow
  let kept := (d.faults.filter (fun (e : FaultEntry) => !e.kind.clearable standstill supply)).map (fun (e : FaultEntry) =>
    if e.kind = .supplyLow && standstill then { e with clearBlocked := true } else e)
  let d := d.bump (if standstill then .clearsAtStandstill else .clearsMoving)
  let d := if kept.length = d.faults.length then d.bump .clearsNothing else d
  { d with faults := kept }

/-- The kind that a refused clear names: that of the first latch still set (R183). -/
def Dev.refusedKind (d : Dev) : FaultKind :=
  if d.bdu.latchSafeStop then
    (((d.faults.filter (fun (e : FaultEntry) => e.kind.cls == .safeStop)).head?).map (·.kind)).getD .positionLost
  else if d.bdu.latchClampsNotUp then .clampSensor
  else .supplyLow

/-- FAULT-REPORT CLEAR-REFUSED with detail NOT-STANDSTILL (R183). -/
def Dev.reportRefused (d : Dev) : Dev :=
  let k := d.refusedKind
  let repeats := (((d.faults.find? (fun (e : FaultEntry) => e.kind == k)).map (·.repeats)).getD 0)
  let place := d.odo.beaconPlace
  (d.send .faultReport 0
    (faultReportPayload 2 k repeats RefuseReason.notStandstill.code place.1 place.2)).bump .refusedQueued

end Sys2Proof.Machine
end

