-- ==== Sys2Proof/Machine/ClaimBase.lean ====
section
/-! DEFINITION. The claim table's operations that raise no fault: order of entries (R58), abandoning (R67), releases (R79, R80,
R81), points requests (R82), the end of DEADLOCK (R77). -/

namespace Sys2Proof.Machine

/-- The entry of a section changed. -/
def Cle.update (c : Cle) (sec : Nat) (f : Claim → Claim) : Cle :=
  { c with table := c.table.map (fun (e : Claim) => if e.sec = sec then f e else e) }

def Dev.updateClaim (d : Dev) (sec : Nat) (f : Claim → Claim) : Dev :=
  { d with cle := d.cle.update sec f }

/-- A new entry, before it becomes anything else (R57). -/
def Claim.fresh (sec : Nat) (idx : Option Nat) (legNeeded : Option Leg) : Claim :=
  { sec := sec, idx := idx, state := .wanted false, legNeeded := legNeeded, points := .unrequested
    pointsTimer := none, rerequestTimer := none }

/-- The key of R58: entries with no route index first, then ascending route index. -/
def Claim.orderKey (c : Claim) : Nat :=
  c.idx.getD 0

/-- An entry with no route index placed along the footprint: after the last entry under the footprint that comes before it,
else before the first that comes after it, else behind every entry with no route index (R58). `pos` gives a section's place in
the footprint. -/
def placeFootprint (pos : Nat → Option Nat) (c : Claim) (l : List Claim) : List Claim :=
  let here := (pos c.sec).getD 0
  let before (e : Claim) : Bool := e.idx.isNone && (pos e.sec).any (fun p => decide (p < here))
  let after (e : Claim) : Bool := e.idx.isNone && (pos e.sec).any (fun p => decide (here < p))
  let n :=
    if l.any before then l.length - (l.reverse.takeWhile (fun e => !before e)).length
    else if l.any after then (l.takeWhile (fun e => !after e)).length
    else (l.takeWhile (fun e => e.idx.isNone)).length
  l.take n ++ c :: l.drop n

/-- An entry joins the table in the place of R58, where the table has room and no entry for its section (R57). -/
def Cle.insert (cle : Cle) (pos : Nat → Option Nat) (c : Claim) : Cle :=
  if Config.maxClaims ≤ cle.table.length || (cle.entry c.sec).isSome then cle
  else
    match c.idx with
    | some _ => { cle with table := insertSorted Claim.orderKey c cle.table }
    | none => { cle with table := placeFootprint pos c cle.table }

/-- The place of a section in a list of sections. -/
def placeIn (secs : List Nat) (sec : Nat) : Option Nat :=
  secs.findIdx? (· == sec)

/-- The entries that satisfy a test replaced, each in its place, by those of another list in turn. -/
def refill (p : Claim → Bool) : List Claim → List Claim → List Claim
  | [], _ => []
  | x :: xs, [] => x :: xs
  | x :: xs, y :: ys => if p x then y :: refill p xs ys else x :: refill p xs (y :: ys)

/-- The entries with no route index that lie under the footprint put in the order given, the others keeping their places (R58). -/
def Cle.realign (c : Cle) (order : List Nat) : Cle :=
  let under (e : Claim) : Bool := e.idx.isNone && (placeIn order e.sec).isSome
  { c with table := refill under c.table (sortBy (fun (e : Claim) => (placeIn order e.sec).getD 0) (c.table.filter under)) }

/-- The INTENT of a contention that is abandoned is withdrawn (R67). -/
def Dev.abandon (d : Dev) (c : Claim) : Dev :=
  match c.state with
  | .contending _ tag _ => d.withdraw tag
  | .wanted _ | .blocked _ _ _ | .held _ _ => d

/-- DEADLOCK ends when the front entry is no longer BLOCKED (R77). -/
def Dev.tidyDeadlock (d : Dev) : Dev :=
  if d.cle.deadlock.isSome && !(d.cle.front.any Claim.isBlocked) then
    ({ d with cle := { d.cle with deadlock := none } }).causeEnded .deadlock
  else d

/-- DEADLOCK ends whatever the front entry is (R77, R79). -/
def Dev.endDeadlock (d : Dev) : Dev :=
  if d.cle.deadlock.isSome then ({ d with cle := { d.cle with deadlock := none } }).causeEnded .deadlock else d

/-- Entries leave the table without a RELEASE, contentions among them abandoned. -/
def Dev.dropClaims (d : Dev) (p : Claim → Bool) : Dev :=
  let d := (d.cle.table.filter p).foldl Dev.abandon d
  ({ d with cle := { d.cle with table := d.cle.table.filter (fun (e : Claim) => !p e) } }).tidyDeadlock

/-- Every entry that is not HELD is dropped (R63, R79, R80). -/
def Dev.dropUnheld (d : Dev) : Dev :=
  d.dropClaims (fun e => !e.isHeld)

/-- RELEASE for up to 8 sections, to all, counted (R81). -/
def Dev.sendRelease (d : Dev) (secs : List Nat) : Dev :=
  if secs.isEmpty then d
  else
    let tag := d.cle.nextTag
    let d := { d with cle := { d.cle with nextTag := tag + 1 } }
    ((d.enqueue .release 0 (releasePayload secs) (some tag)).1).bumpBy .sectionsReleased secs.length

/-- Sections released: announced at once, or with the others of the event in progress at its end (R81). -/
def Dev.announceRelease (d : Dev) (secs : List Nat) : Dev :=
  match d.cle.gathering with
  | some l => { d with cle := { d.cle with gathering := some (l ++ secs) } }
  | none => d.sendRelease secs

/-- The sections that an event has released. -/
def Cle.gathered (c : Cle) : List Nat :=
  c.gathering.getD []

/-- One event of the Claim Engine: what it releases is announced at its end with one RELEASE, in the order in which the table held
the sections at its start (R81). An event inside another announces its own. -/
def Dev.event (act : Dev → Dev) (d : Dev) : Dev :=
  let order := d.cle.table.map (·.sec)
  let d' := act { d with cle := { d.cle with gathering := some [] } }
  let gone := d'.cle.gathered
  let secs := order.filter (fun n => gone.contains n) ++ gone.filter (fun n => !order.contains n)
  let d' := { d' with cle := { d'.cle with gathering := d.cle.gathering } }
  (d'.sendRelease (secs.take Config.maxClaims)).sendRelease (secs.drop Config.maxClaims)

/-- HELD entries leave the table and are announced in table order (R81). -/
def Dev.releaseClaims (d : Dev) (p : Claim → Bool) : Dev :=
  let gone (e : Claim) : Bool := e.isHeld && p e
  let secs := (d.cle.table.filter gone).map (·.sec)
  (({ d with cle := { d.cle with table := d.cle.table.filter (fun (e : Claim) => !gone e) } }).announceRelease secs).tidyDeadlock

/-- Every HELD entry that is not under the footprint is released with one RELEASE (R79, R80, R63). -/
def Dev.releaseOutside (d : Dev) : Dev :=
  d.releaseClaims (fun e => !d.underOwn e.sec)

/-- The pending ABORT's releases, when standstill holds and the position is held; the pending ABORT clears (R80). -/
def Dev.settleAbort (d : Dev) : Dev :=
  if d.cle.abortPending && d.odo.standstill && d.odo.known then
    let d := d.releaseOutside
    { d with cle := { d.cle with abortPending := false } }
  else d

/-- CLE at an ABORT taken and at the entry into SAFE-STOP (R80). -/
def Dev.claimsAbort : Dev → Dev :=
  Dev.event (fun d =>
    let d := d.dropUnheld
    ({ d with cle := { d.cle with abortPending := true } }).settleAbort)

/-- CLE when the record becomes UNKNOWN (R63). -/
def Dev.claimsUnknown (d : Dev) : Dev :=
  d.dropUnheld

/-- An entry after the end of an order (R79). -/
def Claim.afterOrder (c : Claim) : Claim :=
  { c with idx := none, legNeeded := none, points := .unrequested, pointsTimer := none, rerequestTimer := none }

/-- The release at standstill, with no order current (R79). -/
def Dev.claimsAtStandstill (d : Dev) : Dev :=
  if d.cle.view.isNone && d.odo.known then d.releaseOutside.dropUnheld else d

/-- CLE's table after the end of an order: no route view, every entry off the route, in the order of the footprint (R58, R79). -/
def Cle.afterOrder (c : Cle) (order : List Nat) : Cle :=
  ({ c with view := none, lossCount := 0, table := c.table.map Claim.afterOrder } : Cle).realign order

/-- CLE at the end of an order (R79). DESIGN CHOICE: H keeps the value of that order (log 61). -/
def Dev.claimsOrderEnd : Dev → Dev :=
  Dev.event (fun d =>
    let d := d.dropUnheld.endDeadlock
    let d := { d with cle := d.cle.afterOrder (if d.odo.known then d.footprint.sections else []) }
    if d.odo.standstill then d.claimsAtStandstill else d)

/-- POINTS-REQUEST for an entry with a leg needed, to all (R82). -/
def Dev.sendPointsRequest (d : Dev) (c : Claim) : Dev :=
  match c.legNeeded with
  | some leg => d.send .pointsRequest 0 (pointsRequestPayload c.sec leg)
  | none => d

/-- The points of a HELD entry with a leg needed are requested: the request is queued, the entry becomes REQUESTED, the
re-request timer starts, and the points timer starts unless it is to run on (R82, R83, R84). -/
def Dev.requestPoints (d : Dev) (c : Claim) (keepTimer : Bool) : Dev :=
  let d := d.sendPointsRequest c
  d.updateClaim c.sec (fun e => { e with
    points := .requested
    pointsTimer := if keepTimer then e.pointsTimer else d.timerMs d.tmp.plan.lockTimeout
    rerequestTimer := d.timerMs d.tmp.plan.beaconPeriod })

/-- The sections that CLE's release, yield and room rules take from the route on: the entry of a section and every later one. -/
def Claim.fromIdx (k : Nat) (c : Claim) : Bool :=
  c.idx.any (fun j => decide (k ≤ j))

/-- A yield takes this entry: a route entry at index `k` or later, unless it is HELD under the footprint (R75, log 16). -/
def Dev.yields (d : Dev) (k : Nat) (c : Claim) : Bool :=
  c.fromIdx k && !(c.isHeld && d.underOwn c.sec)

/-- The route entry at index `k` and every later one become WANTED, those that were HELD announced with one RELEASE
(R75, R77). -/
def Dev.surrenderFrom (d : Dev) (k : Nat) : Dev :=
  let secs := (d.cle.table.filter (fun e => e.isHeld && d.yields k e)).map (·.sec)
  let d' := (d.cle.table.filter (d.yields k)).foldl Dev.abandon d
  let d' := { d' with cle := { d'.cle with table := d'.cle.table.map (fun (e : Claim) =>
    if d.yields k e then
      { e with state := .wanted false, points := .unrequested, pointsTimer := none, rerequestTimer := none }
    else e) } }
  (d'.announceRelease secs).tidyDeadlock

end Sys2Proof.Machine
end

