-- ==== Sys2Proof/Machine/Station.lean ====
section
/-! DEFINITION. The station state and its reports (R142 to R144), the end of an order (R152), HALTED and SAFE-STOP (R153, R158,
R159), raising a fault (R180, R186), a failed docking (R136), and losing the position (R38). -/

namespace Sys2Proof.Machine

/-- DKC stands clamped: the clamps-down sensor active and the clamps-up sensor inactive (R127, R128, R140). -/
def Bdu.clampsHeld (b : Bdu) : Bool :=
  b.inClampsDown && !b.inClampsUp

/-- The four states in which SUP hands on a demand (R104). -/
def StationState.demanding : StationState → Bool
  | .running | .approach | .docking | .halted => true
  | .start | .bootFailed | .bootHold | .listen | .noPosition | .standing | .parked | .safeStop => false

/-- The station enters a state, which STC reports to SUP, BDU, DKC and LIF (R144): outside the four states the demand becomes 0
(R104); the halted source follows HALTED (R117); HALTED and SAFE-STOP stop the correction watch (R140); the link test ends
outside STANDING and PARKED (R176); RUNNING begins WAITING (R148, R155); a state is remembered only while HALTED (R142); the entry into
SAFE-STOP sets its latch (R118). -/
def Dev.enterState (d : Dev) (s : StationState) : Dev :=
  let d := { d with
    stc := { d.stc with
      state := s
      waiting := if s == StationState.running then true else d.stc.waiting
      remembered := if s == StationState.halted then d.stc.remembered else none }
    bdu := { d.bdu with srcHalted := s == StationState.halted }
    dkc := if d.dkc.sub == DockState.correct && (s == StationState.halted || s == StationState.safeStop) then { d.dkc with corrTimer := none } else d.dkc
    lif := if s == StationState.standing || s == StationState.parked then d.lif else { d.lif with test := none } }
  let d := if s.demanding then d else d.zeroDemand
  let d := d.settle
  if s == StationState.safeStop then d.setLatch .safeStop else d

/-- The rest state (R143). -/
def Dev.restState (d : Dev) : StationState :=
  if !d.odo.known then .noPosition
  else if d.dkc.sub == .clamped && d.stc.parkedPad.isSome then .parked
  else .standing

/-- DKC at the end of an order (R128). -/
def Dev.dockOrderEnd (d : Dev) : Dev :=
  let d := { d with dkc := { d.dkc with clampTimer := none, corrTimer := none } }
  let d := if d.bdu.clampDown || d.bdu.clampUp then d.dropClampCommands else d
  { d with dkc := { d.dkc with
      dest := none
      anchored := false
      motionSeen := false
      abortTaken := false
      corrections := 0
      downLeft := false
      sub := if d.bdu.clampsHeld then .clamped else .idle } }

/-- The counter of an outcome (R160). -/
def OrderOutcome.counter : OrderOutcome → Counter
  | .arrived => .ordersArrived
  | .aborted => .ordersAborted
  | .failed => .ordersFailed

/-- The report of an outcome with the kind it carries (R152). -/
def OrderOutcome.report (o : OrderOutcome) (k : Option FaultKind) : ReportOutcome :=
  match o, k with
  | .arrived, _ => .arrived
  | .aborted, _ => .aborted
  | .failed, some k => .failed k
  | .failed, none => .failed .dockFailed

/-- ODO's route index set to none, with those of what it keeps for the order's route (R28; log 39). -/
def Odo.offRoute (o : Odo) : Odo :=
  { o with
    pos := { o.pos with idx := none }
    nextDue := o.nextDue.map (fun (m : MarkerDue) => { m with point := { m.point with idx := none } })
    window := o.window.map (fun (w : PairWindow) => { w with snap := { w.snap with idx := none } }) }

/-- Steps 1 to 6 of the end of an order (R152); with no order current nothing changes. The end-of-order report names the
request MOVE-ORDER (log 24). -/
def Dev.endOrder (d : Dev) (o : OrderOutcome) (k : Option FaultKind) : Dev :=
  match d.stc.order with
  | none => d
  | some ord =>
    let d := (d.orderReport ord.console .moveOrder ord.id (o.report k)).bump o.counter
    let d := { d with
      odo := d.odo.offRoute
      sup := { d.sup with vOrder := none } }
    let d := d.claimsOrderEnd.dockOrderEnd
    { d with stc := { d.stc with
        order := none
        abortPending := false
        heldReport := false
        lastOrder := ⟨ord.id, some o, if o == .failed then k else none⟩ } }

/-- SAFE-STOP is left at the first event at which no latch, no SAFE-STOP-class fault and no order remains (R159). -/
def Dev.leaveSafeStop (d : Dev) : Dev :=
  if d.stc.state == .safeStop && !d.bdu.latched && !d.classActive .safeStop && d.stc.order.isNone then
    let d := { d with stc := { d.stc with
      haltHold := d.stc.haltHold || d.classActive .halt
      stopKind := none } }
    d.enterState d.restState
  else d

/-- Entry into HALTED with a remembered state (R153). -/
def Dev.enterHalted (d : Dev) (r : Remembered) : Dev :=
  ((({ d with stc := { d.stc with remembered := some r, haltHold := true } }).enterState .halted)).bump .entriesHalted

/-- Entry into SAFE-STOP by a kind of its class (R158). -/
def Dev.enterSafeStop (d : Dev) (k : FaultKind) : Dev :=
  let d := { d with stc := { d.stc with listenTimer := none, remembered := none, stopKind := some k } }
  let d := ((d.enterState .safeStop).bump .entriesSafeStop).claimsAbort
  if d.dkc.sub == .clamping || d.dkc.sub == .unclamping then d
  else if d.stc.abortPending then d.endOrder .aborted none
  else d.endOrder .failed (some k)

/-- What a HALT, from a console or a HALT-class fault, does in the states in which both act alike (R153). -/
def Dev.takeHalt (d : Dev) : Dev :=
  match d.stc.state with
  | .running => d.enterHalted .running
  | .approach => d.enterHalted .approach
  | .docking => d.enterHalted .docking
  | .listen | .noPosition | .standing | .parked => { d with stc := { d.stc with haltHold := true } }
  | .halted | .safeStop | .start | .bootFailed | .bootHold => d

/-- STC takes a raise handed to it (R180, R186). -/
def Dev.takeRaise (d : Dev) (k : FaultKind) : Dev :=
  match k.cls with
  | .warn => d
  | .halt => d.takeHalt
  | .safeStop =>
    match d.stc.state with
    | .listen | .noPosition | .standing | .parked | .running | .approach | .docking | .halted => d.enterSafeStop k
    | .safeStop | .start | .bootFailed | .bootHold => d

/-- A block raises a kind: FCL takes it and hands it to STC by its class (R180). -/
def Dev.raise (d : Dev) (k : FaultKind) : Dev :=
  (d.enterFault k).takeRaise k

/-- The same kind raised `n` times. -/
def Dev.raiseTimes (d : Dev) (k : FaultKind) : Nat → Dev
  | 0 => d
  | n + 1 => (d.raise k).raiseTimes k n

/-- The state after an order FAILED by a docking failure or a loss of position (R152, step 7). -/
def Dev.stateAfterFailure (d : Dev) : Dev :=
  match d.stc.state with
  | .running | .approach | .docking => d.enterHalted .rest
  | .halted => { d with stc := { d.stc with remembered := some .rest } }
  | .parked => d.enterState d.restState
  | .safeStop => d.leaveSafeStop
  | .start | .bootFailed | .bootHold | .listen | .noPosition | .standing => d

/-- STC ends the current order FAILED with a kind; with none current the event is passed over (R152). -/
def Dev.failOrder (d : Dev) (k : FaultKind) : Dev :=
  if d.stc.order.isSome then (d.endOrder .failed (some k)).stateAfterFailure else d

/-- Docking ends in failure, with the kind reported for the cause (R136). -/
def Dev.failDocking (d : Dev) (c : DockCause) (k : FaultKind) : Dev :=
  let d := { d with dkc := { d.dkc with clampTimer := none, corrTimer := none } }
  let d := if d.bdu.clampDown || d.bdu.clampUp then d.dropClampCommands else d
  let d := ({ d with dkc := { d.dkc with last := .failed c, sub := .failed } }).bump c.counter
  d.failOrder k

/-- The ABORT completes when standstill holds and no clamp moves: the order ends ABORTED and the station takes its rest state
(R156). -/
def Dev.completeAbort (d : Dev) : Dev :=
  if d.stc.abortPending && d.stc.order.isSome && d.odo.standstill && d.dkc.sub != .clamping && d.dkc.sub != .unclamping then
    let d := d.endOrder .aborted none
    if d.stc.state == .safeStop then d.leaveSafeStop else d.enterState d.restState
  else d

/-! ### Losing the position (R38) -/

/-- The record becomes UNKNOWN: the window is discarded, the marker due and the pending loss cleared, every field but the
direction reset (R38, steps 1 to 3). -/
def Odo.forget (o : Odo) : Odo :=
  { o with window := none, nextDue := none, pos := { PositionRec.reset with dir := o.pos.dir } }

/-- SUP at the notice that the record is UNKNOWN (R90). -/
def Dev.superviseUnknown (d : Dev) : Dev :=
  ({ d with sup := { d.sup with
      authLimit := none
      dAuth := 0
      dist := 0
      vCurve := 0
      dStop := none
      vPerm := 0
      target := 0
      binding := .stopped
      band := .nominal
      warnFlag := false } }).zeroDemand

/-- DKC at the notice that the record is UNKNOWN (R136). -/
def Dev.dockUnknown (d : Dev) (k : FaultKind) : Dev :=
  match d.dkc.sub with
  | .creep | .stopping | .check | .correct => d.failDocking .positionLost k
  | .idle | .clamping | .clamped | .unclamping | .failed => d

/-- STC at the notice that the record is UNKNOWN (R157). -/
def Dev.stationUnknown (d : Dev) (k : FaultKind) : Dev :=
  let d := { d with stc := { d.stc with parkedPad := none } }
  if d.stc.order.isSome then d.failOrder k
  else
    match d.stc.state with
    | .standing | .parked => d.enterState .noPosition
    | .start | .bootFailed | .bootHold | .listen | .noPosition | .running | .approach | .docking | .halted | .safeStop => d

/-- The record becomes UNKNOWN and CLE, SUP, DKC and STC are notified (R38); `k` is the kind that was raised with the loss. -/
def Dev.losePosition (d : Dev) (k : FaultKind) : Dev :=
  if d.odo.known then
    ((({ d with odo := d.odo.forget }).claimsUnknown.superviseUnknown).dockUnknown k).stationUnknown k
  else d

/-- ODO raises a kind and sets the record to UNKNOWN (R19, R25, R27, R59; log 12). -/
def Dev.loseWith (d : Dev) (k : FaultKind) : Dev :=
  (d.raise k).losePosition k

/-! ### The held report (R149) -/

/-- The first section beyond the footprint: the first route entry that is not under it and lies ahead of the front extent. -/
def Dev.firstBeyond (d : Dev) (r : Route) : Option Nat :=
  let front := d.frontCoord r
  (r.entries.findIdx? (fun e => !d.underOwn e.sec && decide (front ≤ (e.c0 : Int)))).map (· + 1)

/-- The table holds the entry of a route index and it is usable (R85). -/
def Dev.usableIdx (d : Dev) (k : Nat) : Bool :=
  d.cle.table.any (fun e => e.idx == some k && d.usable e)

/-- ORDER-REPORT ACCEPTED for the current order, and no report is held (R149). -/
def Dev.sendHeldReport (d : Dev) (o : Order) : Dev :=
  let d := { d with stc := { d.stc with heldReport := false } }
  d.orderReport o.console .moveOrder o.id .accepted

/-- The held report is judged at the order's start and when a route entry has become usable (R149). -/
def Dev.judgeHeldReport (d : Dev) (atStart : Bool) : Dev :=
  match d.stc.order with
  | some o =>
    if d.stc.heldReport then
      match d.firstBeyond o.route with
      | some k => if d.usableIdx k then d.sendHeldReport o else d
      | none => if atStart then d.sendHeldReport o else d
    else d
  | none => d

end Sys2Proof.Machine
end

