-- ==== Sys2Proof/Machine/Claims.lean ====
section
/-! DEFINITION. The Claim Engine: examination and contention (R66 to R72), mutual waits (R76, R77), clashes (R73 to R75), the
footprint check with its room (R59, R62), route view and horizon (R64, R65), release behind (R78), points (R82 to R84). -/

namespace Sys2Proof.Machine

/-! ### Mutual waits (R76, R77) -/

/-- The HELD entry that a peer waits for on this station (R76). -/
def Dev.waitedEntry (d : Dev) (p : Nat) : Option Claim :=
  (d.peer p).bind (fun r => r.waiting.bind (fun w =>
    if w.2 = d.station then d.cle.table.find? (fun e => e.sec == w.1 && e.isHeld) else none))

/-- The loss count rises by one, or stays at 15 (R61). -/
def Dev.raiseLoss (d : Dev) : Dev :=
  { d with cle := { d.cle with lossCount := min 15 (d.cle.lossCount + 1) } }

/-- A mutual-wait yield of an entry to a peer (R77). -/
def Dev.mutualYield (d : Dev) (t : Claim) (p : Nat) : Dev :=
  match t.idx with
  | none => ((d.releaseClaims (fun e => e.sec == t.sec)).raiseLoss).bump .mutualYields
  | some k =>
    let d := (((d.surrenderFrom k).raiseLoss).bump .mutualYields).endDeadlock
    if (d.cle.front.map (·.sec)) == some t.sec then
      d.updateClaim t.sec (fun e => { e with state := .blocked p .intent d.claimBackoff })
    else d

/-- The examination for a mutual wait with the front entry's blocker (R76); a DEADLOCK raised for another peer ends (R77). -/
def Dev.examineMutual (d : Dev) : Dev :=
  match d.cle.frontState with
  | some (.blocked p b _) =>
    let d := if d.cle.deadlock.any (fun q => q != p) then d.endDeadlock else d
    match (if b = .intent then none else d.waitedEntry p) with
    | none => if d.cle.deadlock = some p then d.endDeadlock else d
    | some t =>
      let theirs : Ticket := { (((d.peer p).map (·.ticket)).getD ⟨false, 0, 0, p⟩) with station := p }
      if d.currentTicket.outranks theirs then d
      else if d.underOwn t.sec then
        ({ d with cle := { d.cle with deadlock := some p } }).raise .deadlock
      else if d.beyondStopping t then d.mutualYield t p
      else d
  | _ => d

/-! ### Examination and contention (R66, R67, R68) -/

/-- An entry becomes CONTENDING and its INTENT is queued; an INTENT dropped on arrival leaves it WANTED, to be examined again at
the end of the next sample (R66, R67). -/
def Dev.contend (d : Dev) (c : Claim) : Dev :=
  let t := d.currentTicket
  let tag := d.cle.nextTag
  let d := ({ d with cle := { d.cle with nextTag := tag + 1 } }).bump .contentionsStarted
  let r := d.enqueue .intent 0 (ticketPayload c.sec t) (some tag)
  if r.2 then r.1.updateClaim c.sec (fun e => { e with state := .contending t tag none })
  else (r.1.updateClaim c.sec (fun e => { e with state := .wanted true })).bump .intentsDropped

/-- The front entry is examined (R66). A changed blocker or basis is examined for a mutual wait (R76, log 18). -/
def Dev.examineFront (d : Dev) : Dev :=
  match d.cle.front with
  | none => d.tidyDeadlock
  | some c =>
    if d.claimingStopped then d.dropClaims (fun e => e.sec == c.sec)
    else if d.lif.quiet then
      (d.updateClaim c.sec (fun e => { e with state := .wanted false })).tidyDeadlock
    else
      match c.state with
      | .contending _ _ _ | .held _ _ | .blocked _ _ (some _) => d
      | .wanted _ | .blocked _ _ none =>
        match d.blocked c.sec with
        | some (p, b) =>
          if c.state = .blocked p b none then d
          else (d.updateClaim c.sec (fun e => { e with state := .blocked p b none })).examineMutual
        | none => (d.contend c).tidyDeadlock

/-- The front entry is examined while it is BLOCKED with its backoff stopped (R66, R71). -/
def Dev.examineBlocked (d : Dev) : Dev :=
  match d.cle.frontState with
  | some (.blocked _ _ none) => d.examineFront
  | _ => d

/-- The view-changed event (R55, R66). -/
def Dev.onViewChanged : Dev → Dev :=
  Dev.event Dev.examineBlocked

/-- An entry that has become the front entry is examined (R58, R66); `old` is the route index of the front entry before. -/
def Dev.refront (d : Dev) (old : Option (Option Nat)) : Dev :=
  if d.cle.front.map (·.idx) != old && d.cle.front.any Claim.isWanted then d.examineFront else d

/-- The route index of the front entry. -/
def Dev.frontIdx (d : Dev) : Option (Option Nat) :=
  d.cle.front.map (·.idx)

/-- A CONTENDING entry loses to a peer with a basis (R68). -/
def Dev.loseContention (d : Dev) (c : Claim) (p : Nat) (b : BlockBasis) : Dev :=
  let d := ((d.abandon c).raiseLoss).bump .contentionsLost
  (d.updateClaim c.sec (fun e => { e with state := .blocked p b d.claimBackoff })).tidyDeadlock.examineMutual

/-! ### Becoming HELD -/

/-- TAKEN for a section, to all. -/
def Dev.announceTaken (d : Dev) (sec : Nat) (t : Ticket) : Dev :=
  d.send .taken 0 (ticketPayload sec t)

/-- What follows when an entry has become HELD and TAKEN is queued: a POINTS entry with a leg needed requests its points (R82),
a usable route entry is reported to STC (R85, R149). -/
def Dev.afterHeld (d : Dev) (sec : Nat) : Dev :=
  match d.cle.entry sec with
  | some e =>
    if d.isPoints sec then if e.legNeeded.isSome then d.requestPoints e false else d
    else if e.idx.isSome then d.judgeHeldReport false else d
  | none => d

/-! ### Clashes (R73 to R75) -/

/-- A yield of an entry to a peer, with AUTHORITY-WITHDRAWN when its entry end lay within the stopping distance (R75). DESIGN CHOICE: what
R66 then answers for it stands, also where the peer's held list does not show the section after an objection (log 60). -/
def Dev.clashYield (d : Dev) (c : Claim) : Dev :=
  let near := d.withinStopping c
  let d := d.bump .clashYields
  let d := match c.idx with
    | none => d.releaseClaims (fun e => e.sec == c.sec)
    | some k => (d.surrenderFrom k).examineFront
  if near then d.raise .authorityWithdrawn else d

/-- A clash on a HELD entry with a peer, decided by the first step that applies (R74). -/
def Dev.clash (d : Dev) (c : Claim) (p : Nat) : Dev :=
  match d.peer p, c.state with
  | some r, .held _ t =>
    if r.freshness != .fresh then d
    else
      let d := d.bump .clashesFound
      let mine := d.underOwn c.sec
      let theirs := (d.peerFootprint r).contains c.sec
      if !d.odo.known || (mine && theirs) then (d.raise .occupancyConflict).announceTaken c.sec t
      else if mine then d.announceTaken c.sec t
      else if theirs then d.clashYield c
      else if d.station < p then d.announceTaken c.sec t
      else d.clashYield c
  | _, _ => d

/-! ### Events from the Peer Table (R55, R68 to R73) -/

/-- The intent event (R68, R69, R71, R72). -/
def Dev.onIntent (d : Dev) (p sec : Nat) (t : Ticket) : Dev :=
  d.event fun d => match d.cle.entry sec with
  | none => d
  | some c =>
    match c.state with
    | .held _ _ => (d.send .object p (objectPayload sec .holding)).bump .objectionsHolding
    | .contending mine _ _ =>
      if t.outranks mine then d.loseContention c p .intent
      else (d.send .object p (objectPayload sec .contending)).bump .objectionsContending
    | .blocked _ _ _ => d.examineBlocked
    | .wanted _ => d

/-- The objection event (R68, R71, R72, R73). -/
def Dev.onObjection (d : Dev) (p sec : Nat) (holding : Bool) : Dev :=
  d.event fun d => match d.cle.entry sec with
  | none => d.bump .lateObjections
  | some c =>
    match c.state with
    | .held _ _ => if holding then d.clash c p else d.bump .lateObjections
    | .contending _ _ _ => d.loseContention c p (if holding then .held else .intent)
    | .blocked _ _ _ | .wanted _ => d.bump .lateObjections

/-- The taking event (R68, R71, R72, R73). -/
def Dev.onTaking (d : Dev) (p sec : Nat) : Dev :=
  d.event fun d => match d.cle.entry sec with
  | none => d.examineBlocked
  | some c =>
    match c.state with
    | .held _ _ => (d.clash c p).examineBlocked
    | .contending _ _ _ => d.loseContention c p .held
    | .blocked _ _ _ | .wanted _ => d.examineBlocked

/-- The CONTENDING entry against a beacon: a held list or a footprint that shows its section makes it lose (R68). -/
def Dev.contendBeacon (d : Dev) (r : PeerRec) : Dev :=
  match d.cle.table.find? Claim.isContending with
  | none => d
  | some c =>
    if r.held.contains c.sec then d.loseContention c r.station .held
    else if (d.peerFootprint r).contains c.sec then d.loseContention c r.station .occupied
    else d

/-- The clashes that a beacon shows, in table order (R73). -/
def Dev.clashBeacon (d : Dev) (r : PeerRec) : Dev :=
  (d.cle.table.filter (fun e => e.isHeld && r.held.contains e.sec)).foldl
    (fun d c => match d.cle.entry c.sec with
      | some e => d.clash e r.station
      | none => d) d

/-- The beacon event (R66, R68, R73, R76): the contention first, then the clashes, then the examinations (log 60). -/
def Dev.onBeacon (d : Dev) (r : PeerRec) : Dev :=
  d.event fun d =>
  let before := d.cle.front
  let d := ((d.contendBeacon r).clashBeacon r).examineBlocked
  match d.cle.front with
  | some c =>
    match c.state with
    | .blocked p _ _ => if p = r.station && d.cle.front == before then d.examineMutual else d
    | .wanted _ | .contending _ _ _ | .held _ _ => d
  | none => d

/-- The points entries of a junction that has gone silent (R84). -/
def Dev.junctionSilent (d : Dev) (n : Nat) : Dev :=
  let mine (e : Claim) : Bool :=
    (findSection d.tmp.sections e.sec).any (fun s => s.kind == .points && s.junction == n)
  (d.cle.table.filter mine).foldl (fun d c =>
    match c.points with
    | .locked => (d.bump .lockLosses).requestPoints c false
    | .requested => (d.bump .lockLosses).requestPoints c true
    | .unrequested | .lost => d) d

/-- The freshness event (R66, R84). -/
def Dev.onFreshness (d : Dev) (r : PeerRec) : Dev :=
  d.event fun d =>
  let d := if r.kind == .junction && r.freshness != .fresh then d.junctionSilent r.station else d
  d.examineBlocked

/-- The points event (R83). -/
def Dev.onPoints (d : Dev) (sec : Nat) (leg : Leg) (locked : Bool) (holder : Nat) : Dev :=
  match d.cle.entry sec with
  | none => d
  | some c =>
    let lock := c.legNeeded == some leg && locked && holder == d.station
    match c.points with
    | .requested =>
      if lock then
        let d := d.updateClaim sec (fun e => { e with points := .locked, pointsTimer := none, rerequestTimer := none })
        if c.idx.isSome && c.isHeld then d.judgeHeldReport false else d
      else d
    | .locked => if lock then d else (d.bump .lockLosses).requestPoints c false
    | .unrequested | .lost => d

/-! ### Room and the footprint check (R59, R62) -/

/-- The last entry of the table that satisfies a test. -/
def Cle.lastEntry (c : Cle) (p : Claim → Bool) : Option Claim :=
  c.table.reverse.find? p

/-- An entry leaves the table for room. -/
def Dev.removeClaim (d : Dev) (c : Claim) : Dev :=
  let d := d.abandon c
  ({ d with cle := { d.cle with table := d.cle.table.filter (fun (e : Claim) => e.sec != c.sec) } }).tidyDeadlock

/-- One entry is removed to make room for a section under the footprint, in the order of R59, with the section to announce;
none when none can be removed. -/
def Dev.makeRoom (d : Dev) : Option (Dev × List Nat) :=
  match d.cle.lastEntry Claim.isWanted with
  | some c => some (d.removeClaim c, [])
  | none =>
    match d.cle.front with
    | some c => some (d.removeClaim c, [])
    | none =>
      match d.cle.lastEntry (fun e => e.idx.isSome && e.isHeld && !d.underOwn e.sec) with
      | some c =>
        let near := d.withinStopping c
        let d := d.removeClaim c
        some (if near then d.raise .authorityWithdrawn else d, [c.sec])
      | none =>
        match d.cle.table.find? (fun e => e.idx.isNone && e.isHeld && !d.underOwn e.sec) with
        | some c => some (d.removeClaim c, [c.sec])
        | none => none

/-- The leg that the current order's route needs at an index, for a points section (R57). -/
def Dev.legAt (d : Dev) (sec : Nat) (idx : Option Nat) : Option Leg :=
  if d.isPoints sec then (idx.bind (fun k => d.routeEntries[k - 1]?)).map (·.leg) else none

/-- An entry of the table becomes HELD with basis OCCUPANCY; a peer that holds or occupies the section raises
OCCUPANCY-CONFLICT before the TAKEN is queued (R62). -/
def Dev.occupy (d : Dev) (sec : Nat) : Dev :=
  match d.cle.entry sec with
  | none => d
  | some c =>
    let t : Ticket := { d.currentTicket with occupancy := true }
    let d := (d.abandon c).updateClaim sec (fun e => { e with state := .held .occupancy t })
    let d := d.tidyDeadlock
    let d := match d.blocked sec with
      | some (_, .held) | some (_, .occupied) => d.raise .occupancyConflict
      | some (_, .intent) | none => d
    (d.announceTaken sec t).afterHeld sec

/-- A new entry joins for a section under the footprint and is occupied: its route index is that of the footprint's stretch on the
route, none with no order current (R58, R62). -/
def Dev.joinOccupied (d : Dev) (x : Covered) : Dev :=
  let idx := if d.cle.view.isSome then x.idx else none
  let c : Claim := { Claim.fresh x.sec idx (d.legAt x.sec idx) with
    state := .held .occupancy { d.currentTicket with occupancy := true } }
  ({ d with cle := d.cle.insert (placeIn d.trackOrder) c }).occupy x.sec

/-- The footprint check of one section (R59, R62). Room may end the order: what joins is judged after it. -/
def Dev.checkCovered (d : Dev) (x : Covered) : Dev :=
  if !d.odo.known then d
  else
    match d.cle.entry x.sec with
    | some c => if c.isHeld then d else d.occupy x.sec
    | none =>
      if d.cle.table.length < Config.maxClaims then d.joinOccupied x
      else
        match d.makeRoom with
        | some (d', gone) => (d'.joinOccupied x).announceRelease gone
        | none => d.loseWith .positionLost

/-- The footprint check, with the table first put in the order of the footprint (R58, R62). -/
def Dev.footprintCheck (d : Dev) : Dev :=
  if d.cle.active && d.odo.known then
    let old := d.frontIdx
    let d := { d with cle := d.cle.realign d.trackOrder }
    (d.footprint.places.foldl Dev.checkCovered d).refront old
  else d

/-- CLE at an anchor and at its activation (R62). -/
def Dev.claimsAnchored : Dev → Dev :=
  Dev.event Dev.footprintCheck

/-- CLE at a LOCATE taken: the footprint check, one RELEASE for what lies outside, and the pending ABORT clears (R63, R80). -/
def Dev.claimsLocated : Dev → Dev :=
  Dev.event (fun d =>
    let d := d.footprintCheck
    if d.odo.known then
      let d := d.releaseOutside
      { d with cle := { d.cle with abortPending := false } }
    else d)

/-! ### Route view and horizon (R64, R65) -/

/-- The horizon distance in mm (R65). -/
def Dev.horizonOf (d : Dev) (vOrder : Nat) : Nat :=
  let c := d.tmp.carriage
  ceilDiv (vOrder * vOrder) (2 * c.serviceDecel) + ceilDiv (vOrder * c.reaction) 1000 + c.margin + d.tmp.plan.horizonExtra

/-- Route entries join the table as WANTED out to the horizon, from the one at index `k` on (R65). -/
def Dev.horizonFrom (d : Dev) (v : RouteView) : Nat → List RouteEntry → Dev
  | _, [] => d
  | k, e :: rest =>
    let near := decide ((e.c0 : Int) - d.frontCoord v.route ≤ (d.cle.horizon : Int) * 1000)
    if near && decide (d.cle.table.length < Config.maxClaims) && (d.cle.entry e.sec).isNone then
      let c := Claim.fresh e.sec (some k) (if d.isPoints e.sec then some e.leg else none)
      Dev.horizonFrom { d with cle := d.cle.insert (fun _ => none) c } v (k + 1) rest
    else d

/-- The highest route index of the table. -/
def Cle.lastIdx (c : Cle) : Option Nat :=
  (c.table.filterMap (·.idx)).foldl (fun m k => some (max k (m.getD 0))) none

/-- The horizon walk, and the examination of an entry that has become the front entry (R65). -/
def Dev.horizonWalk (d : Dev) : Dev :=
  match d.cle.view, d.cle.lastIdx with
  | some v, some k =>
    if d.claimingStopped || !d.odo.known then d
    else
      let old := d.frontIdx
      (d.horizonFrom v (k + 1) (v.route.entries.drop k)).refront old
  | _, _ => d

/-- A HELD entry of a section on the new route takes its first route index and leg needed; LOCKED for another leg it is to be
requested anew (R64, 1). -/
def RouteView.take (v : RouteView) (points : Bool) (c : Claim) : Claim :=
  match v.route.entries.findIdx? (fun e => e.sec == c.sec) with
  | some i =>
    let leg := if points then (v.route.entries[i]?).map (·.leg) else none
    let kept := c.points != .locked || c.legNeeded == leg
    { c with idx := some (i + 1), legNeeded := leg, points := if kept then c.points else .unrequested }
  | none => { c with idx := none, legNeeded := none }

/-- The order's route becomes CLE's route view and the table is rebuilt for it (R64). -/
def Dev.buildView (d : Dev) (v : RouteView) (vOrder : Nat) : Dev :=
  d.event fun d =>
  let d := d.dropUnheld
  let place (c : Claim) : Nat := (placeIn d.footprint.sections c.sec).getD 0
  let d := { d with cle := { d.cle with
    view := some v
    horizon := d.horizonOf vOrder
    table := sortBy Claim.orderKey (sortBy place (d.cle.table.map (fun (c : Claim) => v.take (d.isPoints c.sec) c))) } }
  let d := d.releaseClaims (fun e => e.idx.isNone && !d.underOwn e.sec)
  let d := (d.cle.table.filter (fun e => e.isHeld && d.isPoints e.sec && e.legNeeded.isSome && e.points == .unrequested)).foldl
    (fun d c => d.requestPoints c false) d
  d.footprintCheck.horizonWalk

/-! ### Release behind (R78) -/

/-- The route coordinate of the end of a claim's section nearer the carriage: the exit end in the direction of travel of a route entry,
and of another the end through which the track behind the reference enters it (R78). -/
def Dev.nearEnd (d : Dev) (r : Route) (c : Claim) : Option Int :=
  match c.idx with
  | some k => (r.entries[k - 1]?).map (fun e => if d.withRoute then (e.c1 : Int) else (e.c0 : Int))
  | none =>
    ((reachable d.tmp.sections d.routeEntries d.odo.pos.point.flip).find? (fun x => x.2.sec == c.sec)).map
      (fun x => r.coord d.tmp.sections x.2)

/-- How far in µm behind the rear extent the end of a claim's section nearer the carriage lies: by route coordinates with an order
current, along map neighbours otherwise (R78). -/
def Dev.behindRear (d : Dev) (c : Claim) : Option Int :=
  match d.cle.view with
  | some v => (d.nearEnd v.route c).map (fun x => if d.withRoute then d.rearCoord v.route - x else x - d.rearCoord v.route)
  | none =>
    (enterDistance d.tmp.sections [] c.sec d.odo.pos.point.flip).map
      (fun n => (n : Int) - (halfSpan d.tmp.carriage.length d.odo.pos.unc : Nat))

/-- An entry of the table is HELD, not under the footprint, and behind the rear extent by at least the release clearance (R78). -/
def Dev.clearBehind (d : Dev) (c : Claim) : Bool :=
  c.isHeld && !d.underOwn c.sec
    && (d.behindRear c).any (fun x => decide ((d.tmp.plan.clearance : Int) * 1000 ≤ x))

/-- The release behind, gathered into one RELEASE (R78, R81). -/
def Dev.releaseBehind (d : Dev) : Dev :=
  if !d.odo.standstill && d.odo.known && !d.cle.abortPending && d.stc.state != .safeStop then
    let gone := d.cle.table.takeWhile (fun e => d.clearBehind e)
    let secs := gone.map (·.sec)
    d.releaseClaims (fun e => secs.contains e.sec)
  else d

/-- The section of the front entry when its INTENT has been dropped on arrival (R67). -/
def Dev.retrySection (d : Dev) : Option Nat :=
  d.cle.front.bind (fun c => if c.state = .wanted true then some c.sec else none)

/-- The front entry no longer marked as one to be retried. -/
def Dev.unmarkRetry (d : Dev) : Dev :=
  match d.retrySection with
  | some n => d.updateClaim n (fun e => { e with state := .wanted false })
  | none => d

/-- The front entry whose INTENT had been dropped on arrival before the sample is examined again (R67); one whose INTENT was dropped
within the sample is marked anew and waits for the next one. -/
def Dev.retryWanted (d : Dev) (sec : Option Nat) : Dev :=
  match d.cle.front, sec with
  | some c, some n => if c.sec = n && c.state == .wanted false then d.examineFront else d
  | _, _ => d

/-- CLE at the end of a sample: footprint check, horizon, retry, release behind (R62, R65, R67, R78). `retry` is the section that waited
for the sample when it began. -/
def Dev.claimsSample (retry : Option Nat) : Dev → Dev :=
  Dev.event (fun d => if d.odo.known then ((d.footprintCheck.horizonWalk).retryWanted retry).releaseBehind else d)

/-- CLE when standstill becomes true (R79, R80). -/
def Dev.claimsStandstill : Dev → Dev :=
  Dev.event (fun d => d.settleAbort.claimsAtStandstill)

/-! ### Timers of the table -/

/-- The window of the CONTENDING entry expires: HELD with basis ROUTE, TAKEN, the loss count 0, and the next entry examined
(R70). -/
def Dev.windowExpiry (d : Dev) : Dev :=
  match d.cle.table.find? Claim.isContending with
  | some c =>
    match c.state with
    | .contending t _ w =>
      if !d.due w then d
      else d.event fun d =>
      let d := d.updateClaim c.sec (fun e => { e with state := .held .route t })
      let d := ({ d with cle := { d.cle with lossCount := 0 } }).bump .contentionsWon
      ((d.announceTaken c.sec t).afterHeld c.sec).examineFront
    | .wanted _ | .blocked _ _ _ | .held _ _ => d
  | none => d

/-- The backoff of the front entry expires and it is examined (R66, R71). -/
def Dev.backoffExpiry (d : Dev) : Dev :=
  match d.cle.front with
  | some c =>
    match c.state with
    | .blocked p b t =>
      if d.due t then d.event fun d => (d.updateClaim c.sec (fun e => { e with state := .blocked p b none })).examineFront else d
    | .wanted _ | .contending _ _ _ | .held _ _ => d
  | none => d

/-- The points timer of a REQUESTED entry expires: POINTS-TIMEOUT, and the timer starts again (R82). -/
def Dev.pointsTimeout (d : Dev) (sec : Nat) : Dev :=
  match d.cle.entry sec with
  | some c =>
    if c.points == .requested && d.due c.pointsTimer then
      let d := d.updateClaim sec (fun e => { e with pointsTimer := d.timerMs d.tmp.plan.lockTimeout })
      d.raise .pointsTimeout
    else d
  | none => d

/-- The re-request timer of a REQUESTED entry expires: the request is queued again and the timer starts again (R82). -/
def Dev.rerequest (d : Dev) (sec : Nat) : Dev :=
  match d.cle.entry sec with
  | some c =>
    if c.points == .requested && d.due c.rerequestTimer then
      let d := d.sendPointsRequest c
      d.updateClaim sec (fun e => { e with rerequestTimer := d.timerMs d.tmp.plan.beaconPeriod })
    else d
  | none => d

/-- The INTENT of a tag has been sent: the window of its CONTENDING entry starts (R67). -/
def Dev.intentSent (d : Dev) (tag : Nat) : Dev :=
  { d with cle := { d.cle with table := d.cle.table.map (fun (e : Claim) =>
      match e.state with
      | .contending t g _ => if g = tag then { e with state := .contending t g (d.timerMs d.tmp.plan.claimWindow) } else e
      | .wanted _ | .blocked _ _ _ | .held _ _ => e) } }

/-- The INTENT of a tag was dropped after its fourth collision: WANTED, and examined again at once (R67). -/
def Dev.intentDropped (d : Dev) (tag : Nat) : Dev :=
  d.event fun d =>
  let mine (e : Claim) : Bool := match e.state with
    | .contending _ g _ => g == tag
    | .wanted _ | .blocked _ _ _ | .held _ _ => false
  if d.cle.table.any mine then
    let d := { d with cle := { d.cle with table := d.cle.table.map (fun (e : Claim) =>
      if mine e then { e with state := .wanted false } else e) } }
    (d.bump .intentsDropped).examineFront
  else d

/-- LINE-QUIET has cleared: the front entry is examined while it is WANTED, or BLOCKED with its backoff stopped (R66). -/
def Dev.quietCleared : Dev → Dev :=
  Dev.event (fun d => match d.cle.frontState with
    | some (.wanted _) | some (.blocked _ _ none) => d.examineFront
    | _ => d)

end Sys2Proof.Machine
end

