-- ==== Sys2Proof/Machine/Odometer.lean ====
section
/-! DEFINITION. The Odometer: tachometer decoding (R18, R19), the advance of a sample (R20 to R23), carrying the reference (R26,
R27), markers (R29 to R33), anchors (R31, R35), direction (R28), start-up position and LOCATE (R36, R37). -/

namespace Sys2Proof.Machine

/-! ### Tachometer channels (R18, R19) -/

/-- The place of a pair of levels in the quadrature cycle of the motion in which phase p leads. -/
def quadPlace (p q : Bool) : Nat :=
  match p, q with
  | false, false => 0
  | true, false => 1
  | true, true => 2
  | false, true => 3

/-- What a change of the accepted levels is: 0 nothing, 1 motion with phase p leading, 3 motion with phase q leading, 2 a quadrature
error. -/
def quadStep (p q p' q' : Bool) : Nat :=
  (quadPlace p' q' + 4 - quadPlace p q) % 4

/-- The count of a valid transition: up when the phase that leads in motion along the record's direction leads (R18, log 7). -/
def countOf (step : Nat) (pUp : Bool) : Int :=
  if decide (step = 1) = pUp then 1 else -1

/-- A time appended to the recent error times, at most 8 kept (R19). -/
def appendTime (l : List Nat) (t : Nat) : List Nat :=
  (l ++ [t]).drop (l.length + 1 - 8)

/-- Eight errors within 1,000 ms (R19). -/
def errorsFail (l : List Nat) : Bool :=
  l.length == 8 && decide (l.getLastD 0 - l.headD 0 ≤ 1000)

/-- A channel of ODO. -/
def Odo.channel (o : Odo) : Channel → TachChannel
  | .a => o.chA
  | .b => o.chB

def Odo.withChannel (o : Odo) (ch : Channel) (c : TachChannel) : Odo :=
  match ch with
  | .a => { o with chA := c }
  | .b => { o with chB := c }

/-- The other channel. -/
def otherChannel : Channel → Channel
  | .a => .b
  | .b => .a

/-- The quadrature error total of a channel, which is a read-clear counter (R39). -/
def channelErrors : Channel → Counter
  | .a => .errorsA
  | .b => .errorsB

/-- A change of a channel's accepted levels (R18, R19). -/
def Dev.tach (d : Dev) (ch : Channel) (p q : Bool) : Dev :=
  let c := d.odo.channel ch
  let step := quadStep c.p c.q p q
  let c := { c with p := p, q := q }
  if !d.odo.active then { d with odo := d.odo.withChannel ch c }
  else
    match step with
    | 0 => d
    | 2 =>
      let times := appendTime c.errTimes d.nowMs
      let fails := !c.failed && errorsFail times
      let both := (d.odo.channel (otherChannel ch)).failed
      let c := { c with seen := true, errTimes := times, failed := c.failed || fails }
      let d := ({ d with odo := d.odo.withChannel ch c }).bump (channelErrors ch)
      if fails then
        let d := d.raise .tachChannel
        if both then d.loseWith .tachBoth else d
      else d
    | n =>
      let c := { c with seen := true, net := c.net + countOf n d.odo.pUp }
      { d with odo := d.odo.withChannel ch c }

/-! ### The advance (R20) and carrying (R26, R27) -/

/-- The advance and disagreement of the counts so far, by the health of the channels; none with both FAILED (R20). -/
def Dev.advance (d : Dev) : Option (Int × Nat) :=
  let a := d.odo.chA.net * d.tmp.carriage.pitchA
  let b := d.odo.chB.net * d.tmp.carriage.pitchB
  match d.odo.chA.failed, d.odo.chB.failed with
  | false, false => some ((a + b).tdiv 2, (a - b).natAbs)
  | false, true => some (a, 0)
  | true, false => some (b, 0)
  | true, true => none

/-- A point carried along the track, forward for a positive distance and backward for a negative one, along the route while one
is current and by R27 otherwise. -/
def Dev.carry (d : Dev) (p : Point) (delta : Int) : Walk :=
  let r := delta.natAbs
  let back := decide (delta < 0)
  let w := (walk d.tmp.sections d.routeEntries d.toeLegs (walkFuel r) (if back then p.flip else p) r).headD
    { stretches := [], last := p, stop := .noLeg, short := r }
  if back then { w with last := w.last.flip } else w

/-- The record placed at a point. -/
def PositionRec.placed (r : PositionRec) (p : Point) : PositionRec :=
  { r with sec := p.sec, leg := p.leg, offset := p.offset, idx := p.idx, dir := p.dir }

/-- The record changed, with nothing else of the part. -/
def Dev.withPos (d : Dev) (p : PositionRec) : Dev :=
  { d with odo := { d.odo with pos := p } }

/-- The record changed, with the direction line that follows its direction (R112). -/
def Dev.placeRecord (d : Dev) (p : PositionRec) : Dev :=
  (d.withPos p).setLine p.dir

/-- U recomputed, with `travelled` and `dis` µm of the sample in progress; at the cap POSITION-LOST is raised and the record
becomes UNKNOWN (R25). -/
def Dev.recompute (d : Dev) (travelled dis : Nat) : Dev :=
  if d.odo.known then
    let u := d.uncertainty d.odo.pos.uAnchor (d.odo.pos.travelled + travelled) (d.odo.pos.disagreement + dis)
    let d := d.withPos { d.odo.pos with unc := min Config.uncertaintyCap u }
    if Config.uncertaintyCap ≤ u then d.loseWith .positionLost else d
  else d

/-! ### The next marker due (R33) -/

/-- The first marker ahead of a point (R33), `base` µm ahead of the reference. -/
def Dev.markerAfter (d : Dev) (p : Point) (base : Int) : Option MarkerDue :=
  (firstMarker d.tmp.sections d.routeEntries d.toeLegs false Config.markerEnds p 0).map (fun m => ⟨m.point, base + m.dist⟩)

/-- The next marker due found afresh (R33). -/
def Dev.findDue (d : Dev) : Dev :=
  { d with odo := { d.odo with nextDue := if d.odo.known then d.markerAfter d.odo.pos.point 0 else none } }

/-- The marker lies behind the reference by more than U. -/
def Dev.overdue (d : Dev) (m : MarkerDue) : Bool :=
  decide (m.ahead < -(d.odo.pos.unc : Int))

/-- A missed marker: counted, and MISSED-MARKERS at two in a row (R33). -/
def Dev.missMarker (d : Dev) : Dev :=
  let d := d.bump .missedMarkers
  if 1 ≤ d.odo.missedRun then ({ d with odo := { d.odo with missedRun := 0 } }).raise .missedMarkers
  else { d with odo := { d.odo with missedRun := d.odo.missedRun + 1 } }

/-- The marker due is judged (R33). -/
def Dev.judgeDue (d : Dev) : Dev :=
  match d.odo.nextDue with
  | some m =>
    if d.odo.known && !d.odo.pos.pendingLoss && d.odo.window.isNone && d.overdue m then
      ({ d with odo := { d.odo with nextDue := d.markerAfter m.point m.ahead } }).missMarker
    else d
  | none => d

/-- The same marker of the map. -/
def samePlace (m n : Point) : Bool :=
  m.sec == n.sec && m.leg == n.leg && m.offset == n.offset

/-- The distances from each of the markers from one on up to a matched one to the matched one; none when it is not met. -/
def Dev.gapsTo (d : Dev) (matched : Point) : Nat → MarkerDue → Option (List Nat)
  | 0, _ => none
  | fuel + 1, m =>
    if samePlace m.point matched then some []
    else
      (d.markerAfter m.point 0).bind (fun n =>
        (d.gapsTo matched fuel n).map (fun gaps => (n.ahead.toNat + gaps.headD 0) :: gaps))

/-- The markers due before a matched one, which lies `past` µm behind the reference, are judged at once (R33, log 39). -/
def Dev.judgeBefore (d : Dev) (due : MarkerDue) (matched : Point) (past : Int) : Dev :=
  ((d.gapsTo matched Config.maxMarkers due).getD []).foldl
    (fun d gap => if (d.odo.pos.unc : Int) < past + gap then d.missMarker else d) d

/-! ### Detections (R29 to R32) -/

/-- A closed detection: its point, whether it is paired, the side of a single, the travel and net motion since the point, and
how far the reference of the record lies ahead of the point. -/
structure Detection where
  point : Point
  paired : Bool
  side : ReaderSide
  travel : Nat
  net : Int
  lead : Int
  deriving DecidableEq, Repr

/-- The counter of singles missing a side (R39). -/
def sideCounter : ReaderSide → Counter
  | .left => .missingLeft
  | .right => .missingRight

def otherSide : ReaderSide → ReaderSide
  | .left => .right
  | .right => .left

/-- The unpaired count at a closed detection (R30). -/
def Dev.countDetection (d : Dev) (x : Detection) : Dev :=
  if x.paired then { d with odo := { d.odo with unpaired := 0 } }
  else
    let missing := otherSide x.side
    let d := d.bump (sideCounter missing)
    if d.odo.missingSide = missing || d.odo.unpaired = 0 then
      let n := min 3 (d.odo.unpaired + 1)
      let d := { d with odo := { d.odo with unpaired := n, missingSide := missing } }
      if n = 3 then d.raise .markerReader else d
    else { d with odo := { d.odo with unpaired := 1, missingSide := missing } }

/-- The matched candidate: the nearest, the one ahead before one behind, and a free choice between two on the same side
(R31, log 10). -/
def Dev.matched (d : Dev) (l : List MarkerAt) : Dev × Option MarkerAt :=
  match l with
  | [] => (d, none)
  | [m] => (d, some m)
  | m :: n :: _ =>
    if m.dist = n.dist && m.ahead == n.ahead then (d.drawn, some (if d.freeChoice then n else m))
    else (d, some m)

/-- A re-anchor at a point of the map carried by the travel since, with a U_anchor (R31, R35). -/
def Dev.anchorAt (d : Dev) (at' : Point) (delta : Int) (travel uAnchor : Nat) : Dev :=
  let w := d.carry at' delta
  if w.stop != .reached then d.loseWith .positionLost
  else
    (d.placeRecord { d.odo.pos.placed w.last with
      validity := .known, uAnchor := uAnchor, travelled := travel, disagreement := 0 }).recompute 0 0

/-- The sign with which the marker's point is carried: with or against the direction of travel, a free choice for no net motion
(R31, log 11). -/
def Dev.carrySign (d : Dev) (x : Detection) : Dev × Int :=
  if x.travel = 0 then (d, 0)
  else if 0 < x.net then (d, x.travel)
  else if x.net < 0 then (d, -(x.travel : Int))
  else (d.drawn, if d.freeChoice then x.travel else -(x.travel : Int))

/-- The matched marker is taken as passed: it is not the next one due (R31, 7). -/
def Dev.passMarker (d : Dev) (m : Point) : Dev :=
  match d.odo.nextDue with
  | some n =>
    if samePlace n.point m then { d with odo := { d.odo with nextDue := d.markerAfter n.point n.ahead } } else d
  | none => d

/-- The re-anchor at a matched marker (R31), the markers due before it (R33), and the notice to CLE. DESIGN CHOICE: one whose carry loses
the position is counted as a marker anchor too, and leaves the missed-marker run as it was (log 69). -/
def Dev.anchorMarker (d : Dev) (x : Detection) (m : MarkerAt) : Dev :=
  let c := d.tmp.carriage
  let place : Int := (if m.ahead then (m.dist : Int) else -(m.dist : Int)) - x.lead
  let before := d.odo.nextDue.filter (fun n => decide (n.ahead < place))
  let u := max (if x.paired then c.markerTol * 1000 else 2 * c.markerTol * 1000) (c.padTol * 1000)
  let r := d.carrySign x
  let d := (r.1.anchorAt m.point r.2 x.travel u).bump .markerAnchors
  if d.odo.known then
    let d := { d with odo := { d.odo with missedRun := 0 } }
    let d := match before with
      | some n => d.judgeBefore n m.point r.2
      | none => d
    (d.findDue.passMarker m.point).claimsAnchored
  else d

/-- A detection with no candidate (R32); `travelled` and `dis` are those of the sample in progress. -/
def Dev.unexpectedMarker (d : Dev) (u travelled dis : Nat) : Dev :=
  let d := (d.bump .unexpectedMarkers).raise .unexpectedMarker
  if d.odo.known then
    (d.withPos { d.odo.pos with uAnchor := d.odo.pos.uAnchor + u, pendingLoss := true }).recompute travelled dis
  else d

/-- A closed detection goes to the marker count and to matching (R29 to R32). -/
def Dev.detect (d : Dev) (x : Detection) : Dev :=
  if !d.odo.known then d
  else
    let d := d.countDetection x
    if d.odo.pos.pendingLoss || !d.odo.known then d
    else
      let adv := (d.advance).getD (0, 0)
      let u := min Config.uncertaintyCap
        (d.uncertainty d.odo.pos.uAnchor (d.odo.pos.travelled + adv.1.natAbs) (d.odo.pos.disagreement + adv.2))
      let r := d.matched (markerCandidates d.tmp.sections d.routeEntries x.point u)
      match r.2 with
      | some m => r.1.anchorMarker x m
      | none => r.1.unexpectedMarker u adv.1.natAbs adv.2

/-- The motion since an open window's snapshot that the samples have not taken yet (R29, R31). -/
def Dev.sincePart (d : Dev) (w : PairWindow) : Int :=
  ((d.advance).getD (0, 0)).1 - w.part

/-- The travel and the net motion since an open window's snapshot, with the counts of the sample in progress (R31). -/
def Dev.sinceSnapshot (d : Dev) (w : PairWindow) : Nat × Int :=
  (w.since + (d.sincePart w).natAbs, w.net + d.sincePart w)

/-- How far the reference of the record lies ahead of a point of the track (log 38). -/
def Dev.leadOver (d : Dev) (p : Point) : Int :=
  (trackBetween d.tmp.sections d.routeEntries p d.odo.pos.point).getD 0

/-- The window closes as a single detection of its side (R29). -/
def Dev.closeSingle (d : Dev) (w : PairWindow) : Dev :=
  let s := d.sinceSnapshot w
  ({ d with odo := { d.odo with window := none } }).detect
    { point := w.snap, paired := false, side := w.side, travel := s.1, net := s.2, lead := d.leadOver w.snap }

/-- Halfway along the track between two snapshots; an odd µm goes to either side (R29, log 9). Where neither meets the other, half of
the net motion between them. -/
def Dev.midpoint (d : Dev) (p q : Point) (net : Int) : Dev × Point :=
  let secs := d.tmp.sections
  let route := d.routeEntries
  let way := (trackBetween secs route p q).getD net
  let half := d.halved way.natAbs
  let on := if way < 0 then (partWay secs route p.flip q way.natAbs half.2).map Point.flip
    else partWay secs route p q way.natAbs half.2
  (half.1, on.getD (d.carry p (if way < 0 then -(half.2 : Int) else half.2)).last)

/-- The window closes as a paired detection with a second snapshot; the travel since its point is half of that between the edges
(R29, R31, log 9). -/
def Dev.closePaired (d : Dev) (w : PairWindow) (snap : Point) : Dev :=
  let s := d.sinceSnapshot w
  let m := d.midpoint w.snap snap s.2
  let t := m.1.halved s.1
  ({ t.1 with odo := { t.1.odo with window := none } }).detect
    { point := m.2, paired := true, side := w.side, travel := t.2, net := s.2, lead := d.leadOver m.2 }

/-- The snapshot of the reference at an edge (R29). DESIGN CHOICE: where the counts so far would carry it past a buffer or into a toe
with no leg known, it is the point at the end of the section, and the sample judges the record (log 9). -/
def Dev.snapshot (d : Dev) : Point :=
  (d.carry d.odo.pos.point ((d.advance).getD (0, 0)).1).last

/-- The window opens (R29). -/
def Dev.openWindow (d : Dev) (side : ReaderSide) (snap : Point) (adv : Int) : Dev :=
  if d.odo.known then
    let w : PairWindow := { side := side, snap := snap, travel := 0, part := adv, since := 0, net := 0 }
    { d with odo := { d.odo with window := some w } }
  else d

/-- A marker reader's edge (R29), and the judgement of the marker due when a window closes (R33). DESIGN CHOICE: an edge while the
record is UNKNOWN opens no window, since there is no reference to take a snapshot of (log 9). -/
def Dev.markerEdge (d : Dev) (side : ReaderSide) : Dev :=
  if d.odo.active && d.odo.known then
    let snap := d.snapshot
    let adv := ((d.advance).getD (0, 0)).1
    match d.odo.window with
    | none => d.openWindow side snap adv
    | some w =>
      if w.side = side then ((d.closeSingle w).judgeDue).openWindow side snap adv
      else (d.closePaired w snap).judgeDue
  else d

/-! ### Direction (R28) -/

/-- An open window seen from the other direction of travel, with `part` of the sample in progress taken. -/
def PairWindow.turned (w : PairWindow) (part : Int) : PairWindow :=
  { w with
    snap := w.snap.flip, part := part, since := w.since + (part - w.part).natAbs, net := -(w.net + (part - w.part)) }

/-- The direction of travel changed: the record, the sense of the counts, the open window, and the notice to BDU (R18, R28, R112). DESIGN
CHOICE: counts of the sample in progress made before keep their sign (log 68). -/
def Dev.turn (d : Dev) (dir : Direction) : Dev :=
  if d.odo.pos.dir = dir then d
  else
    ({ d with odo := { d.odo with
      pos := { d.odo.pos with dir := dir }
      pUp := !d.odo.pUp
      window := d.odo.window.map (fun (w : PairWindow) => w.turned ((d.advance).getD (0, 0)).1) } }).reverseLine dir

/-- A direction is taken while standstill holds; a change finds the marker due afresh (R28). None when refused. -/
def Dev.takeDirection (d : Dev) (dir : Direction) : Option Dev :=
  if !d.odo.standstill then none
  else if d.odo.pos.dir = dir then some d
  else some (d.turn dir).findDue

/-- A point under the route index of the entry that it lies on, taken in that entry's sense; none off the route. -/
def Point.onRoute (p : Point) (l : List RouteEntry) : Point :=
  { p with idx := (l.findIdx? (fun e => e.sec == p.sec && e.leg == p.leg && e.dir == p.dir)).map (· + 1) }

/-- ODO at the start of an order: the route index, leg and direction of entry 1 (R28). An open window's snapshot and a marker due that
is kept go on along the route (R31, R33, log 39). -/
def Dev.odoOrderStart (d : Dev) (r : Route) : Dev :=
  match r.entries.head? with
  | some e =>
    let turned := d.odo.pos.dir != e.dir
    let d := d.turn e.dir
    let d := { d with odo := { d.odo with
      pos := { d.odo.pos with idx := some 1, leg := e.leg }
      window := d.odo.window.map (fun (w : PairWindow) => { w with snap := w.snap.onRoute r.entries }) } }
    if turned then d.findDue
    else { d with odo := { d.odo with nextDue := d.odo.nextDue.map (fun (m : MarkerDue) => { m with point := m.point.onRoute r.entries }) } }
  | none => d

/-! ### Pad reader, start-up position, LOCATE (R34 to R37) -/

/-- The number of ones among the seven code lines. -/
def codeOnes (lines : BitVec 7) : Nat :=
  ((List.range 7).filter (fun i => lines.getLsbD i)).length

/-- The pad number of the code lines: their lower six bits. -/
def padNumber (lines : BitVec 7) : Nat :=
  lines.toNat % 64

/-- The re-anchor at the destination pad (R35). None when ODO refuses. -/
def Dev.anchorPad (d : Dev) (o : Order) : Option Dev :=
  match findPad d.tmp.pads o.pad, o.route.entries[o.route.padIdx - 1]? with
  | some p, some e =>
    if d.odo.pos.pendingLoss || !d.odo.known then none
    else
      let dir := if d.withRoute then e.dir else e.dir.flip
      let at' : Point := { sec := p.sec, leg := p.leg, offset := p.offset * 1000, dir := dir, idx := some o.route.padIdx }
      some ((d.anchorAt at' 0 0 (d.tmp.carriage.padTol * 1000)).findDue.claimsAnchored)
  | _, _ => none

/-- The start-up position at the entry into LISTEN (R36), and the pad at which it was set. An odd parity raises PAD-CODE whether or not
presence is active. -/
def Dev.startPosition (d : Dev) : Dev × Option Nat :=
  if codeOnes d.odo.padLines % 2 = 1 then (d.raise .padCode, none)
  else if !d.odo.padPresence then (d, none)
  else
    let d := { d with odo := { d.odo with padCode := padNumber d.odo.padLines } }
    match findPad d.tmp.pads d.odo.padCode with
    | some p =>
      if d.bdu.inClampsDown then
        let d := d.placeRecord { PositionRec.reset with
          validity := .known, sec := p.sec, leg := p.leg, offset := p.offset * 1000
          uAnchor := d.tmp.carriage.padTol * 1000 }
        ((d.recompute 0 0).findDue, some p.number)
      else (d, none)
    | none => (d, none)

/-- ODO's judgement of a LOCATE: the reason of a refusal, or the record taken (R37). -/
def Dev.locate (d : Dev) (sec offset : Nat) (dir : Direction) : Except RefuseReason Dev :=
  if d.odo.known then .error .positionHeld
  else if !d.odo.standstill then .error .notStandstill
  else
    match findSection d.tmp.sections sec with
    | none => .error .locateInvalid
    | some r =>
      if r.kind == .points || offset = 0 || r.length ≤ offset then .error .locateInvalid
      else
        let d := (d.turn dir).withPos { PositionRec.reset with
          validity := .restricted, sec := sec, offset := offset * 1000, dir := dir
          uAnchor := d.tmp.carriage.locateUnc * 1000 }
        .ok ((d.recompute 0 0).findDue.claimsLocated)

/-! ### The sample (R20 to R23, R29, R32, R33) -/

/-- The reference carried and the record's terms grown by a sample (R20, R26, R27), with U (R25). -/
def Dev.carrySample (d : Dev) (delta : Int) (dis : Nat) : Dev :=
  if d.odo.known then
    let w := d.carry d.odo.pos.point delta
    if w.stop != .reached then d.loseWith .positionLost
    else
      let p := d.odo.pos.placed w.last
      let d := { d with odo := { d.odo with
        nextDue := d.odo.nextDue.map (fun (m : MarkerDue) => { m with ahead := m.ahead - delta }) } }
      (d.placeRecord { p with travelled := p.travelled + delta.natAbs, disagreement := p.disagreement + dis }).recompute 0 0
  else d

/-- The sample is a slip sample (R21). -/
def Dev.isSlip (d : Dev) (a b : Nat) (dis : Nat) : Bool :=
  let c := d.tmp.carriage
  let m := max a b
  decide (c.slipThreshold * m < dis * 1000) && decide (4 * min c.pitchA c.pitchB ≤ m)

/-- The slip test with its run (R21). -/
def Dev.slipTest (d : Dev) (slip : Bool) : Dev :=
  if slip then
    let d := d.bump .slipSamples
    if 4 ≤ d.odo.slipRun then ({ d with odo := { d.odo with slipRun := 0 } }).raise .slip
    else { d with odo := { d.odo with slipRun := d.odo.slipRun + 1 } }
  else { d with odo := { d.odo with slipRun := 0 } }

/-- The speed history takes a sample's |Δ| (R22). -/
def Dev.speedTest (d : Dev) (delta : Int) : Dev :=
  { d with odo := { d.odo with history := d.odo.history.drop 1 ++ [delta.natAbs] } }

/-- A sample of the two channels is a zero sample (R23). -/
def zeroSample (a b : TachChannel) : Bool :=
  !(a.failed && b.failed) && (a.failed || !a.seen) && (b.failed || !b.seen)

/-- The standstill test (R23). -/
def Dev.standstillTest (d : Dev) (zero : Bool) : Dev :=
  let run := if zero then min 50 (d.odo.zeroRun + 1) else 0
  { d with odo := { d.odo with zeroRun := run, standstill := zero && (d.odo.standstill || run == 50) } }

/-- The open window at a sample: the travel grows, and past 50,000 µm or at the coming of standstill it closes as a single
detection (R29). -/
def Dev.windowSample (d : Dev) (delta : Int) (stopped : Bool) : Dev :=
  match d.odo.window with
  | some w =>
    let w := { w with
      travel := w.travel + delta.natAbs, part := 0, since := w.since + (delta - w.part).natAbs, net := w.net + (delta - w.part) }
    let d := { d with odo := { d.odo with window := some w } }
    if decide (50000 < w.travel) || stopped then d.closeSingle w else d
  | none => d

/-- ODO's own part of a sample (R20 to R23, R29, R32, R33); the other blocks follow in `Dev.sample`. -/
def Dev.odoSample (d : Dev) : Dev :=
  let o := d.odo
  let adv := d.advance
  let zero := zeroSample o.chA o.chB
  let a := (o.chA.net * d.tmp.carriage.pitchA).natAbs
  let b := (o.chB.net * d.tmp.carriage.pitchB).natAbs
  let d := { d with odo := { o with
    sampleTimer := d.timerMs Config.sampleMs
    chA := { o.chA with net := 0, seen := false }
    chB := { o.chB with net := 0, seen := false } } }
  let d := match adv with
    | some (delta, dis) =>
      ((d.carrySample delta dis).slipTest (o.bothHealthy && d.isSlip a b dis)).speedTest delta
    | none => d.slipTest false
  let d := d.standstillTest zero
  let stopped := d.odo.standstill && !o.standstill
  let d := d.windowSample ((adv.getD (0, 0)).1) stopped
  let d := if stopped && d.odo.pos.pendingLoss then d.losePosition .unexpectedMarker else d
  d.judgeDue

end Sys2Proof.Machine
end

