-- ==== Sys2Proof/Machine/Docking.lean ====
section
/-! DEFINITION. The Dock Controller (R127 to R140) with the reports it makes to the Station Controller (R148, R151). -/

namespace Sys2Proof.Machine

/-- DKC's sub-state written. -/
def Dev.setDock (d : Dev) (s : DockState) : Dev :=
  { d with dkc := { d.dkc with sub := s } }

/-! ### The clamps' consistency (R139) -/

/-- CLAMP-SENSOR raised for one of the conditions of R139, with its counter. -/
def Dev.clampFault (d : Dev) (c : Counter) : Dev :=
  (d.bump c).raise .clampSensor

/-- DKC at the entry into LISTEN (R127, R139). -/
def Dev.dockActivate (d : Dev) : Dev :=
  let d := { d with dkc := { d.dkc with active := true, sub := if d.bdu.clampsHeld then .clamped else .idle } }
  let d := d.watchClamps
  if d.bdu.inClampsDown && d.bdu.inClampsUp then d.clampFault .clampBoth else d

/-! ### Reports to the Station Controller -/

/-- The carriage is reported clamped: the parked pad is the destination, the order ends ARRIVED, or ABORTED with abort taken, and
the station goes to PARKED from DOCKING (R151, R154). -/
def Dev.clampedReport (d : Dev) : Dev :=
  match d.stc.order with
  | none => d
  | some o =>
    let outcome : OrderOutcome := if d.dkc.abortTaken then .aborted else .arrived
    let d := { d with stc := { d.stc with parkedPad := some o.pad } }
    let d := d.endOrder outcome none
    match d.stc.state with
    | .docking => d.enterState .parked
    | .halted => { d with stc := { d.stc with remembered := some .rest } }
    | .safeStop => d.leaveSafeStop
    | .start | .bootFailed | .bootHold | .listen | .noPosition | .standing | .parked | .running | .approach => d

/-- The carriage is reported unclamped: the phase becomes MOVING and the station enters RUNNING, or HALTED with the halt hold
set (R148, R153); in SAFE-STOP the order ends FAILED (R158). -/
def Dev.unclampedReport (d : Dev) : Dev :=
  match d.stc.order with
  | none => d
  | some o =>
    let d := { d with stc := { d.stc with order := some { o with departing := false }, parkedPad := none } }
    if d.stc.state == .safeStop then (d.endOrder .failed d.stc.stopKind).leaveSafeStop
    else if d.stc.haltHold then d.enterHalted .running
    else d.enterState .running

/-! ### Clamping and departure (R137, R138) -/

/-- Entry into CLAMPING from the stop check (R137). -/
def Dev.startClamping (d : Dev) : Dev :=
  let d := ((d.setDock .clamping).zeroDemand).requestClampDown
  { d with dkc := { d.dkc with clampTimer := d.timerMs d.tmp.carriage.clampTimeout } }

/-- The clamps are down (R137). -/
def Dev.clampingDone (d : Dev) : Dev :=
  let d := { d with dkc := { d.dkc with clampTimer := none } }
  let d := (d.dropClampCommands).bump .docksCompleted
  ({ d with dkc := { d.dkc with sub := .clamped, last := .clamped } }).clampedReport

/-- Entry into UNCLAMPING (R138). -/
def Dev.startDeparture (d : Dev) : Dev :=
  let d := { d with dkc := { d.dkc with sub := .unclamping, downLeft := false } }
  let d := d.requestClampUp
  { d with dkc := { d.dkc with clampTimer := d.timerMs d.tmp.carriage.clampTimeout } }

/-- The clamps are up (R138). -/
def Dev.departureDone (d : Dev) : Dev :=
  let d := { d with dkc := { d.dkc with clampTimer := none } }
  let d := (d.dropClampCommands).bump .departures
  ({ d with dkc := { d.dkc with sub := .idle, last := .unclamped } }).unclampedReport

/-- DKC at the start of an order: a departure begins unless the clamps are confirmed up (R128). -/
def Dev.dockOrderStart (d : Dev) (pad : Nat) : Dev :=
  let d := { d with dkc := { d.dkc with
    dest := some pad, anchored := false, motionSeen := false, abortTaken := false, corrections := 0, last := .none } }
  if d.bdu.inClampsDown || !d.bdu.inClampsUp then d.startDeparture else d.setDock .idle

/-- The clamp timer expires in CLAMPING or UNCLAMPING (R137, R138). -/
def Dev.clampTimeout (d : Dev) : Dev :=
  let d := { d with dkc := { d.dkc with clampTimer := none } }
  match d.dkc.sub with
  | .clamping | .unclamping => (d.raise .clampTimeout).failDocking .clampTimeout .clampTimeout
  | .idle | .creep | .stopping | .check | .correct | .clamped | .failed => d

/-! ### Stop check and correction (R134, R135) -/

/-- The footprint of the correction's end, the reference standing on the pad point (R135). -/
def Dev.correctedFootprint (d : Dev) (o : Order) (error : Int) : Footprint :=
  let u := d.odo.pos.unc + ceilDiv (error.natAbs * d.growth) 1000
  let ref : Point :=
    match findPad d.tmp.pads o.pad, o.route.entries[o.route.padIdx - 1]? with
    | some p, some e =>
      { sec := p.sec, leg := p.leg, offset := p.offset * 1000, dir := e.dir, idx := some o.route.padIdx }
    | _, _ => d.odo.pos.point
  footprintOf d.tmp.sections o.route.entries ref (halfSpan d.tmp.carriage.length u)

/-- A correction is permitted: the corrected footprint lies on HELD sections and reaches no buffer (R135). -/
def Dev.correctionPermitted (d : Dev) (o : Order) (error : Int) : Bool :=
  let f := d.correctedFootprint o error
  f.sections.all (fun s => d.cle.holds s) && !reachesBuffer f.front && !reachesBuffer f.rear

/-- The direction toward the pad point: the route's sense at the reference for a negative error, against it for a positive one
(R135). -/
def Dev.correctionDirection (d : Dev) (o : Order) (error : Int) : Direction :=
  let sense := (o.route.place d.tmp.sections d.odo.pos.point).2
  if error < 0 then sense else sense.flip

/-- The correction is judged (R135). DOCK-FAILED is raised before the failure steps (DESIGN CHOICE, log 12). -/
def Dev.judgeCorrection (d : Dev) (o : Order) (error : Int) : Dev :=
  if d.correctionPermitted o error then
    match d.takeDirection (d.correctionDirection o error) with
    | some d =>
      ({ d with dkc := { d.dkc with
          corrections := d.dkc.corrections + 1
          motionSeen := false
          sub := .correct
          corrTimer := d.timerMs d.tmp.carriage.clampTimeout } }).bump .correctionsStarted
    | none => d
  else (d.raise .dockFailed).failDocking .outsideHeld .dockFailed

/-- The stop check (R134). DOCK-FAILED is raised before the failure steps (DESIGN CHOICE, log 12). -/
def Dev.stopCheck (d : Dev) : Dev :=
  match d.stc.order with
  | none => d
  | some o =>
    let error : Int := d.refCoord o.route - (o.route.padCoord : Int)
    let d := ({ d with dkc := { d.dkc with stopError := error } }).bump .stopChecks
    if error.natAbs ≤ d.tmp.carriage.dockTol * 1000 then d.startClamping
    else if 2 ≤ d.dkc.corrections then (d.raise .dockFailed).failDocking .checksExhausted .dockFailed
    else d.judgeCorrection o error

/-- Entry into CHECK: STC enters DOCKING from APPROACH, and the stop check is taken (R134, R151). -/
def Dev.enterCheck (d : Dev) : Dev :=
  let d := d.setDock .check
  (if d.stc.state == .approach then d.enterState .docking else d).stopCheck

/-! ### Approach (R129, R133) -/

/-- The end of the approach (R133). DOCK-FAILED is raised before the failure steps (DESIGN CHOICE, log 12). -/
def Dev.endOfApproach (d : Dev) : Dev :=
  if d.stc.state == .approach && !d.dkc.abortTaken && d.odo.standstill then
    match d.dkc.sub with
    | .stopping => d.enterCheck
    | .creep =>
      if d.dkc.dStop.any (fun x => decide (x ≤ (d.tmp.carriage.dockTol : Int))) then
        (d.raise .dockFailed).failDocking .padNotSeen .dockFailed
      else d
    | .idle | .check | .correct | .clamping | .clamped | .unclamping | .failed => d
  else d

/-- STC reports the entry into APPROACH, or that it is the remembered state (R129, R150). -/
def Dev.dockApproach (d : Dev) : Dev :=
  (d.setDock (if d.dkc.anchored then .stopping else .creep)).bump .approaches

/-- A check that waits after a refused direction is taken anew (R135). -/
def Dev.recheck (d : Dev) : Dev :=
  if d.dkc.sub == .check && d.stc.state == .docking && !d.dkc.abortTaken && d.odo.standstill then d.stopCheck else d

/-- A correction at rest goes to its check (R136). -/
def Dev.endOfCorrection (d : Dev) : Dev :=
  if d.dkc.sub == .correct && d.dkc.motionSeen && d.stc.state == .docking && !d.dkc.abortTaken && d.odo.standstill then
    ({ d with dkc := { d.dkc with corrTimer := none } }).enterCheck
  else d

/-- Standstill becomes true: the sub-state at the event decides (R133, R135, R136). -/
def Dev.dockStandstill (d : Dev) : Dev :=
  match d.dkc.sub with
  | .creep | .stopping => d.endOfApproach
  | .check => d.recheck
  | .correct => d.endOfCorrection
  | .idle | .clamping | .clamped | .unclamping | .failed => d

/-- Standstill becomes false: motion is seen in CORRECT (R136). -/
def Dev.dockMotion (d : Dev) : Dev :=
  if d.dkc.sub == .correct then { d with dkc := { d.dkc with motionSeen := true } } else d

/-- STC reports the return from HALTED (R133, R135, R136, R140). -/
def Dev.dockResume (d : Dev) : Dev :=
  match d.dkc.sub with
  | .creep | .stopping => d.endOfApproach
  | .check => d.recheck
  | .correct =>
    if d.stc.state == .docking && !d.dkc.abortTaken then
      ({ d with dkc := { d.dkc with corrTimer := d.timerMs d.tmp.carriage.clampTimeout } }).endOfCorrection
    else d
  | .idle | .clamping | .clamped | .unclamping | .failed => d

/-- STC reports an ABORT taken (R140). A departure that stops is answered by the caller. -/
def Dev.dockAbort (d : Dev) : Dev :=
  match d.dkc.sub with
  | .idle | .failed | .creep | .stopping | .check | .clamping => { d with dkc := { d.dkc with abortTaken := true } }
  | .correct => { d with dkc := { d.dkc with abortTaken := true, corrTimer := none } }
  | .clamped => d
  | .unclamping =>
    let d := ({ d with dkc := { d.dkc with clampTimer := none } }).dropClampCommands
    d.setDock (if d.bdu.clampsHeld then .clamped else .idle)

/-- The correction watch timer expires (R136). DOCK-FAILED is raised before the failure steps (DESIGN CHOICE, log 12). -/
def Dev.correctionTimeout (d : Dev) : Dev :=
  let d := { d with dkc := { d.dkc with corrTimer := none } }
  if d.dkc.sub == .correct then (d.raise .dockFailed).failDocking .correctionTimeout .dockFailed else d

/-- The clamp watch timer expires: CLAMP-SENSOR, and the timer starts again (R139). -/
def Dev.clampWatchTimeout (d : Dev) : Dev :=
  (({ d with dkc := { d.dkc with watchTimer := d.timerMs d.tmp.carriage.clampTimeout } }).clampFault .clampNeither)

/-! ### Pad edges (R130 to R132) -/

/-- U of the record at a snapshot: with the counts of the sample in progress (R29). -/
def Dev.uncNow (d : Dev) : Nat :=
  let adv := (d.advance).getD (0, 0)
  min Config.uncertaintyCap
    (d.uncertainty d.odo.pos.uAnchor (d.odo.pos.travelled + adv.1.natAbs) (d.odo.pos.disagreement + adv.2))

/-- A destination-code edge is accepted by asking ODO for the anchor (R131). -/
def Dev.acceptEdge (d : Dev) (o : Order) (snap : Point) : Dev :=
  let far := (o.route.coord d.tmp.sections snap - (o.route.padCoord : Int)).natAbs
  let outside := decide (d.uncNow < far)
  let taken := { d with dkc := { d.dkc with
    anchored := true, sub := if d.dkc.sub == DockState.creep then DockState.stopping else d.dkc.sub } }
  match taken.anchorPad o with
  | some d' =>
    let d' := d'.bump .anchorsAccepted
    if outside then d'.bump .anchorsOutside else d'
  | none => d.bump .anchorsRefused

/-- The code is that of a passing pad: on the route, within the snapshot's U and the pad anchor tolerance (R132). -/
def Dev.passingPad (d : Dev) (o : Order) (code : Nat) (snap : Point) : Bool :=
  let at' := o.route.coord d.tmp.sections snap
  let reach := d.uncNow + d.tmp.carriage.padTol * 1000
  (findPad d.tmp.pads code).any (fun p =>
    o.route.entries.any (fun e =>
      e.sec == p.sec && e.leg == p.leg &&
        decide ((e.coord d.tmp.sections (p.offset * 1000) - at').natAbs ≤ reach)))

/-- An edge of another code in CREEP, STOPPING or CORRECT (R132). -/
def Dev.otherEdge (d : Dev) (o : Order) (code : Nat) (snap : Point) : Dev :=
  if d.passingPad o code snap then d.bump .passingPads
  else ((d.bump .wrongPads).raise .wrongPad).failDocking .wrongPad .wrongPad

/-- A pad edge with a valid code (R130). -/
def Dev.dockEdge (d : Dev) (code : Nat) (snap : Option Point) : Dev :=
  match d.stc.order, snap with
  | some o, some p =>
    if d.dkc.abortTaken then d.bump .edgesPassed
    else
      let dest := d.dkc.dest == some code
      match d.dkc.sub with
      | .idle => if dest && d.stc.state == .running then d.acceptEdge o p else d.bump .edgesPassed
      | .creep | .correct => if dest then d.acceptEdge o p else d.otherEdge o code p
      | .stopping => if dest then d.bump .edgesPassed else d.otherEdge o code p
      | .check | .clamping | .clamped | .unclamping | .failed => d.bump .edgesPassed
  | _, _ => d.bump .edgesPassed

/-- A pad edge at ODO: the snapshot, the parity and the code (R34). -/
def Dev.padEdge (d : Dev) (lines : BitVec 7) : Dev :=
  if !d.odo.active then d
  else if codeOnes lines % 2 = 1 then d.raise .padCode
  else
    let code := padNumber lines
    let snap := if d.odo.known then some d.snapshot else none
    ({ d with odo := { d.odo with padCode := code } }).dockEdge code snap

/-! ### The clamp sensors (R119, R137 to R139) -/

/-- The clamps-not-up condition: a duty that would be driven above 0 with the clamps-up sensor inactive sets the latch, and at
its setting CLAMP-SENSOR is raised; while the latch is set it is raised as a repeat of the active kind alone (R119). -/
def Dev.judgeClampsUp (d : Dev) (duty : Nat) : Dev :=
  if 0 < duty && !d.bdu.inClampsUp then
    let d' := d.setLatch .clampsNotUp
    if !d.bdu.latchClampsNotUp || d.faultActive .clampSensor then d'.raise .clampSensor else d'
  else d

/-- DKC's part of a change of the clamps-down sensor (R137, R138, R139). -/
def Dev.clampsDownChanged (d : Dev) (active : Bool) : Dev :=
  if active then
    let dropped := match d.dkc.sub with
      | .clamping | .clamped => false
      | .unclamping => d.dkc.downLeft
      | .idle | .creep | .stopping | .check | .correct | .failed => true
    let d := if d.bdu.inClampsUp then d.clampFault .clampBoth else d
    let d := if dropped then d.clampFault .clampDropped else d
    if d.dkc.sub == .clamping && !d.bdu.inClampsUp then d.clampingDone else d
  else if d.dkc.sub == .unclamping then
    let d := { d with dkc := { d.dkc with downLeft := true } }
    if d.bdu.inClampsUp then d.departureDone else d
  else d

/-- DKC's part of a change of the clamps-up sensor (R137, R138, R139). -/
def Dev.clampsUpChanged (d : Dev) (active : Bool) : Dev :=
  if active then
    let d := if d.bdu.inClampsDown then d.clampFault .clampBoth else d
    if d.dkc.sub == .unclamping && !d.bdu.inClampsDown then d.departureDone else d
  else if d.dkc.sub == .clamping && d.bdu.inClampsDown then d.clampingDone
  else d

/-- A change of a filtered clamp sensor: BDU's outputs and the demand first (R104, R111, R113), then the clamps-not-up condition
(R119), then DKC (R137 to R139). While BDU is inactive the level is kept (R115). -/
def Dev.clampSensor (d : Dev) (s : ClampSensor) (active : Bool) : Dev :=
  match s with
  | .down =>
    if d.bdu.inClampsDown == active then d
    else
      let d := { d with bdu := { d.bdu with inClampsDown := active } }
      if !d.bdu.active then d
      else
        let d := d.settle
        let d := if active then d.zeroDemand else d
        d.watchClamps.clampsDownChanged active
  | .up =>
    if d.bdu.inClampsUp == active then d
    else
      let d := { d with bdu := { d.bdu with inClampsUp := active } }
      if !d.bdu.active then d
      else
        let d := if active then d else d.judgeClampsUp d.bdu.duty
        d.watchClamps.clampsUpChanged active

end Sys2Proof.Machine
end

