-- ==== Sys2Proof/Machine/Supervision.lean ====
section
/-! DEFINITION. The Supervision Unit's evaluation (R89 to R108) and what BDU, DKC and STC do at its hand-over (R111, R119, R124,
R129, R150). -/

namespace Sys2Proof.Machine

/-! ### Distances and authority (R91 to R96) -/

/-- A distance along the track in mm, rounded toward minus infinity, positive in the direction of travel (R91). -/
def Dev.distanceMm (d : Dev) (p q : Int) : Int :=
  (if d.withRoute then q - p else p - q) / 1000

/-- The index of the route entry that holds the front extent (R92, 1); none at or beyond the end of the route. -/
def holderIdx (r : Route) (front : Int) : Option Nat :=
  if (r.total : Int) ≤ front then none
  else (r.entries.findIdx? (fun e => decide ((e.c0 : Int) < front) && decide (front ≤ (e.c1 : Int)))).map (· + 1)

/-- The usable entries of the table in route order from an index on, each under its route index (R92, 3). -/
def Dev.chainFrom (d : Dev) : Nat → List RouteEntry → List (Nat × RouteEntry)
  | _, [] => []
  | k, e :: rest => if d.usableIdx k then (k, e) :: d.chainFrom (k + 1) rest else []

/-- The chain (R92): pairs of a route index and its entry. -/
def Dev.chain (d : Dev) (r : Route) (front : Int) : List (Nat × RouteEntry) :=
  match holderIdx r front with
  | some k => d.chainFrom k (r.entries.drop (k - 1))
  | none => []

/-- The coordinate of the authority limit with an order current (R93). -/
def Dev.limitCoord (d : Dev) (r : Route) (front : Int) (chain : List (Nat × RouteEntry)) : Int :=
  if (r.total : Int) ≤ front then r.total
  else
    match chain.getLast? with
    | none => front
    | some (k, e) =>
      if k = r.entries.length then r.total else (e.c1 : Int) - (d.tmp.carriage.margin : Int) * 1000

/-- The front extent as an authority limit (R93). -/
def Dev.extentLimit (d : Dev) : AuthLimit :=
  let p := d.frontPoint
  { idx := p.idx, sec := p.sec, offset := (p.offset / 1000 : Nat) }

/-- A coordinate of the route as an authority limit (R88, R109). DESIGN CHOICE: one below 0, less than M on from the route's start, stands
under route index 1 with an offset outside the section (log 64). -/
def Dev.limitPoint (d : Dev) (r : Route) (x : Int) : Option AuthLimit :=
  let k := ((r.entries.findIdx? (fun e => decide (x ≤ (e.c1 : Int)))).map (· + 1)).getD r.entries.length
  (r.entries[k - 1]?).map (fun e =>
    { idx := some k
      sec := e.sec
      offset := (match e.dir with
        | .towardB => x - (e.c0 : Int)
        | .towardA => (e.c0 : Int) + (legLength d.tmp.sections e.sec e.leg : Int) - x) / 1000 })

/-- The authority limit with an order current (R93). -/
def Dev.limitOf (d : Dev) (r : Route) (front : Int) (chain : List (Nat × RouteEntry)) : Option AuthLimit :=
  if front < (r.total : Int) && chain.isEmpty then some d.extentLimit
  else d.limitPoint r (d.limitCoord r front chain)

/-- The pad's entry is in the chain, or holds the front extent, or lies behind it in route order (R95). -/
def padReached (r : Route) (front : Int) (chain : List (Nat × RouteEntry)) : Bool :=
  chain.any (fun c => c.1 == r.padIdx) ||
    match holderIdx r front with
    | some k => decide (r.padIdx ≤ k)
    | none => decide ((r.total : Int) ≤ front)

/-- The distances of an evaluation. -/
structure Distances where
  chain : List (Nat × RouteEntry)
  limit : Option AuthLimit
  dAuth : Int
  dStop : Option Int
  dist : Int
  deriving DecidableEq, Repr

/-- Distances and authority (R92 to R96): with no order the limit is the front extent, and with an empty chain D_auth is 0. -/
def Dev.distances (d : Dev) : Distances :=
  match d.stc.order with
  | none => { chain := [], limit := some d.extentLimit, dAuth := 0, dStop := none, dist := 0 }
  | some o =>
    let r := o.route
    let front := d.frontCoord r
    let stop := d.distanceMm (d.refCoord r) r.padCoord
    let cap (x : Int) : Int := min x Config.distanceCap
    if d.dkc.sub == .correct then { chain := [], limit := none, dAuth := 0, dStop := some stop, dist := cap stop }
    else
      let chain := d.chain r front
      let dAuth := if chain.isEmpty then 0 else d.distanceMm front (d.limitCoord r front chain)
      let dStop := if padReached r front chain then some stop else none
      { chain := chain, limit := d.limitOf r front chain, dAuth := dAuth, dStop := dStop
        dist := cap (match dStop with
          | some x => min dAuth x
          | none => dAuth) }

/-! ### Deceleration and curves (R97 to R100) -/

/-- The grade of a section toward a direction (R4). -/
def Dev.gradeOf (d : Dev) (sec : Nat) (dir : Direction) : Int :=
  match findSection d.tmp.sections sec with
  | some s => match dir with
    | .towardB => s.grade
    | .towardA => -s.grade
  | none => 0

/-- The direction of travel through a stretch of the footprint: the derived direction of its route entry, reversed in a
correction against the route's sense; off the route that of the walk (R97). DESIGN CHOICE: a stretch off the route is walked in the
direction of travel, also in such a correction, and is not reversed again (log 70). -/
def Dev.stretchDirection (d : Dev) (s : Stretch) : Direction :=
  match s.idx.bind (fun k => d.routeEntries[k - 1]?) with
  | some e => if d.dkc.sub == .correct && !d.withRoute then e.dir.flip else e.dir
  | none => s.dir

/-- The effective deceleration of the lowest grade (R97). -/
def effectiveDecel (asv : Nat) (g : Int) : Nat :=
  let a :=
    if g < 0 then asv - ceilDiv (9807 * g.natAbs) 1000
    else asv + 9807 * g.toNat / 1000
  max 50 a

/-- The lowest of a list of grades, 0 for none. -/
def lowestGrade : List Int → Int
  | [] => 0
  | g :: rest => rest.foldl min g

/-- a_eff of an evaluation (R97). -/
def Dev.effective (d : Dev) (f : Footprint) (chain : List (Nat × RouteEntry)) : Nat :=
  effectiveDecel d.tmp.carriage.serviceDecel (lowestGrade
    (f.stretches.map (fun s => d.gradeOf s.sec (d.stretchDirection s)) ++
      chain.map (fun c => d.gradeOf c.2.sec c.2.dir)))

/-- The speed limit of a section. -/
def Dev.speedLimit (d : Dev) (sec : Nat) : Nat :=
  match findSection d.tmp.sections sec with
  | some s => s.speedLimit
  | none => d.tmp.plan.lineMax

/-- The section limit: the lowest under the footprint (R99). -/
def Dev.sectionLimit (d : Dev) (f : Footprint) : Nat :=
  (leastOf (f.sections.map d.speedLimit)).getD d.tmp.plan.lineMax

/-- A braking curve: down to `v` within a distance (R98, R99, R100). -/
def brakingCurve (v a : Nat) (dist : Int) : Nat :=
  isqrt (v * v + 2 * a * dist.toNat)

/-- The limit curves of the chain's sections ahead of the front extent (R99). -/
def Dev.limitCurves (d : Dev) (front : Int) (limit a rd : Nat) (chain : List (Nat × RouteEntry)) : List (Nat × Binding) :=
  chain.filterMap (fun c =>
    let v := d.speedLimit c.2.sec
    if front ≤ (c.2.c0 : Int) && decide (v < limit) then
      let x := min (Config.distanceCap : Int) (d.distanceMm front c.2.c0)
      some (brakingCurve v a (x - rd), .limitCurve c.2.sec)
    else none)

/-- The creep cap applies (R100). -/
def Dev.creepCapped (d : Dev) (dStop : Option Int) : Bool :=
  d.odo.pos.validity == .restricted ||
    (d.stc.order.isSome &&
      (d.stc.state == .approach || d.stc.state == .docking ||
        dStop.any (fun x => decide (x ≤ (d.tmp.carriage.approach : Int)))))

/-- The approach curve (R100). -/
def Dev.approachCurve (d : Dev) (dStop : Option Int) (a rd : Nat) : List (Nat × Binding) :=
  let c := d.tmp.carriage
  match dStop with
  | some x =>
    if (c.approach : Int) < x then
      [(brakingCurve c.creep a (min (Config.distanceCap : Int) (x - c.approach) - rd), .approachCurve)]
    else []
  | none => []

/-- The lowest term, the first of equal ones (R101). DESIGN CHOICE: of two equal limit curves, which stand in one row of R101's table,
the one of the section earlier in the chain (log 14). -/
def lowestTerm : List (Nat × Binding) → Nat × Binding
  | [] => (0, .stopped)
  | t :: rest => rest.foldl (fun m x => if x.1 < m.1 then x else m) t

/-! ### Target and demand (R102 to R104) -/

/-- The target (R102). -/
def Dev.targetSpeed (d : Dev) (vPerm : Nat) : Nat :=
  let go := match d.stc.state with
    | .running | .approach => true
    | .docking => d.dkc.sub == .correct
    | .start | .bootFailed | .bootHold | .listen | .noPosition | .standing | .parked | .halted | .safeStop => false
  if go && !d.stc.abortPending then min (d.sup.vOrder.getD 0) vPerm else 0

/-- The demand brought one step toward the target, no higher than v_perm (R103). -/
def rampDemand (accel asv demand target vPerm : Nat) : Nat :=
  let x :=
    if demand < target then min target (demand + ceilDiv (accel * Config.evaluationMs) 1000)
    else max target (demand - ceilDiv (asv * Config.evaluationMs) 1000)
  min x vPerm

/-- The conditions that hold the demand at 0 (R104). -/
def Dev.demandZeroed (d : Dev) : Bool :=
  d.bdu.latched || d.bdu.inClampsDown || !d.stc.state.demanding || d.dkc.sub == .clamping || d.dkc.sub == .clamped

/-! ### The evaluation (R105 to R108) -/

/-- The band of a measured speed (R106). -/
def bandOf (v vPerm vm : Nat) : Band :=
  if v ≤ vPerm then .nominal
  else if v ≤ vPerm + vm then .warn
  else if v ≤ vPerm + 2 * vm then .service
  else .overspeed

/-- The service-band source with its hysteresis (R106). -/
def serviceSource (b : Band) (active : Bool) : Bool :=
  match b with
  | .nominal => false
  | .warn => active
  | .service | .overspeed => true

/-- SUP's items after one evaluation (R92 to R106, R108). -/
def Dev.evaluated (d : Dev) : Sup :=
  let c := d.tmp.carriage
  let x := d.distances
  let f := d.footprint
  let v := d.odo.vMeas
  let front := match d.stc.order with
    | some o => d.frontCoord o.route
    | none => 0
  let a := d.effective f x.chain
  let rd := ceilDiv (v * c.reaction) 1000
  let vCurve := brakingCurve 0 a (x.dist - rd)
  let limit := d.sectionLimit f
  let best := lowestTerm
    ([(d.tmp.plan.lineMax, Binding.line), (limit, .sectionLimit)] ++ d.limitCurves front limit a rd x.chain
      ++ [(vCurve, .curve)] ++ d.approachCurve x.dStop a rd
      ++ (if d.creepCapped x.dStop then [(c.creep, Binding.creep)] else []))
  let target := d.targetSpeed best.1
  let demand := if d.demandZeroed then 0 else rampDemand c.accel c.serviceDecel d.sup.demand target best.1
  let band := bandOf v best.1 c.overspeed
  { d.sup with
    evalTimer := d.timerMs Config.evaluationMs
    authLimit := x.limit
    dAuth := x.dAuth
    dStop := x.dStop
    dist := x.dist
    aEff := a
    rd := rd
    vCurve := vCurve
    vPerm := best.1
    binding := best.2
    target := target
    demand := demand
    band := band
    warnFlag := band != .nominal
    serviceBand := serviceSource band d.sup.serviceBand
    sd := ceilDiv (v * v) (2 * a) + rd
    exhausted := best.1 == 0 && demand == 0
    skipped := false
    chainLen := x.chain.length }

/-! ### The hand-over -/

/-- BDU takes a demand (R111, R119). -/
def Dev.handOver (d : Dev) (demand : Nat) : Dev :=
  let duty := if d.outputsHeld || d.bdu.forced then 0 else demand * 1000 / d.tmp.plan.lineMax
  let d := { d with bdu := { d.bdu with demandHanded := demand } }
  if 0 < duty && !d.bdu.inClampsUp then d.judgeClampsUp duty
  else { d with bdu := { d.bdu with duty := duty } }

/-- An evaluation notice at the release train (R124). -/
def Dev.trainNotice (d : Dev) : Dev :=
  if d.bdu.latched || d.outputsHeld then d
  else
    { d with bdu := { d.bdu with
        trainLevel := !d.bdu.trainLevel
        trainRunning := true
        trainTimer := d.timerMs Config.trainWatchMs } }

/-- STC takes D_stop and whether authority is exhausted (R150); an entry into APPROACH may be the event that ends the approach
(R133). -/
def Dev.stationHandOver (d : Dev) (dStop : Option Int) (exhausted : Bool) : Dev :=
  let near := dStop.any (fun x => decide (x ≤ (d.tmp.carriage.approach : Int)))
  match d.stc.state with
  | .running =>
    let d := { d with stc := { d.stc with waiting := exhausted } }
    if near then ((d.enterState .approach).dockApproach).endOfApproach else d
  | .halted =>
    if near && d.stc.remembered == some .running then
      ({ d with stc := { d.stc with remembered := some .approach } }).dockApproach
    else d
  | .start | .bootFailed | .bootHold | .listen | .noPosition | .standing | .parked | .approach | .docking | .safeStop => d

/-- The counters of an evaluation (R109). -/
def Dev.countEvaluation (d : Dev) (before : Sup) : Dev :=
  let s := d.sup
  let d := d.bump .evaluationsTaken
  let d := if before.band == .nominal && s.band == .warn then d.bump .warnEntries else d
  let d := if !before.serviceBand && s.serviceBand then d.bump .bandActivations else d
  let d := if s.band == .overspeed then d.bump .overspeedEvaluations else d
  if decide (s.dAuth < 0) && !d.odo.standstill then d.bump .negativeAuthority else d

/-- One expiry of the evaluation timer: an evaluation with its faults (R94, R107), handed on last (R89, R108), or a skipped one (R89).
The demand handed on is the one after the faults: 0 when one has set the latch (R104). DESIGN CHOICE: BDU takes the hand-over first,
then DKC, then STC, so that an entry into APPROACH at standstill judges the end of the approach (R133) on this evaluation's D_stop
(log 75). -/
def Dev.supervise (d : Dev) : Dev :=
  if !d.odo.known then
    ({ d with sup := { d.sup with evalTimer := d.timerMs Config.evaluationMs, skipped := true } }).bump .evaluationsSkipped
  else
    let s := d.evaluated
    let moving := !d.odo.standstill
    let before := d.sup
    let d := ({ d with sup := s }).countEvaluation before
    let d := if decide (s.dAuth < 0) && moving then d.raise .authorityOverrun else d
    let d := if s.band == .overspeed then d.raise .overspeed else d
    let d := { d with bdu := { d.bdu with srcServiceBand := s.serviceBand } }
    let d := ((d.settle).handOver d.sup.demand).trainNotice
    let d := { d with dkc := { d.dkc with dStop := s.dStop } }
    d.stationHandOver s.dStop s.exhausted

end Sys2Proof.Machine
end

