-- ==== Sys2Proof/Machine/Peers.lean ====
section
/-! DEFINITION. The Peer Table: the source check (R41), intake (R42), the frames of peers (R43 to R48), plan match (R49), ageing
(R50, R51) and FREE-STATION (R52). -/

namespace Sys2Proof.Machine

/-- A record at its creation (R40). DESIGN CHOICE: the position with section 0 has offset 0 and direction TOWARD_B (log 61). -/
def PeerRec.fresh (station : Nat) (kind : PeerKind) (now : Nat) : PeerRec :=
  { station := station, kind := kind, freshness := .fresh, heardAt := now, framesHeard := 1, foreign := false
    signature := none, beaconSeen := false, sec := 0, offset := 0, dir := .towardB, speed := 0, length := 0, unc := 0
    restricted := false, overspeedWarn := false, stateByte := none, faultByte := none
    ticket := ⟨false, 0, 0, station⟩, held := [], intent := none, waiting := none, frozen := false, points := [] }

/-- A record changed in its place; the table keeps ascending station number (R40). -/
def Dev.setPeer (d : Dev) (r : PeerRec) : Dev :=
  { d with peers := d.peers.map (fun (x : PeerRec) => if x.station = r.station then r else x) }

/-- A record made; one for each station number (R40). -/
def Dev.addPeer (d : Dev) (r : PeerRec) : Dev :=
  if (d.peer r.station).isSome then d
  else ({ d with peers := insertSorted (fun (x : PeerRec) => x.station) r d.peers }).bump .recordsMade

/-- The count of FRESH FOREIGN carriages has changed from `old`: PLAN-MISMATCH is raised or its cause ends (R49). -/
def Dev.foreignChanged (d : Dev) (old : Nat) : Dev :=
  if old = 0 && 0 < d.foreignCount then d.raise .planMismatch
  else if 0 < old && d.foreignCount = 0 then d.causeEnded .planMismatch
  else d

/-- A record changed, with the count of R49. -/
def Dev.setPeerCounted (d : Dev) (r : PeerRec) : Dev :=
  (d.setPeer r).foreignChanged d.foreignCount

/-- What the source check and intake give: the part after them, the record when the frame's content is taken, and whether the
peer was heard again after silence. -/
structure Intake where
  dev : Dev
  record : Option PeerRec
  again : Bool
  deriving DecidableEq, Repr

/-- The record of a sender after a frame of any kind (R42). -/
def PeerRec.heard (r : PeerRec) (now : Nat) : PeerRec :=
  { r with heardAt := now, framesHeard := satInc r.framesHeard, freshness := .fresh
           frozen := if r.kind == .carriage then false else r.frozen }

/-- The source check and intake of a dispatched frame (R41, R42, R167). -/
def Dev.intake (d : Dev) (f : Frame) : Intake :=
  if f.src = 0 || 32 < f.src then ⟨d.bump .badSource, none, false⟩
  else if f.src = d.station then ⟨(d.bump .echoFrames).raise .echoId, none, false⟩
  else
    match d.peer f.src with
    | none =>
      let r := PeerRec.fresh f.src f.kind.sender d.now
      ⟨d.addPeer r, some r, false⟩
    | some r =>
      let r' := r.heard d.now
      let d := d.setPeerCounted r'
      let again := r.freshness != .fresh
      if r.kind = f.kind.sender then ⟨d, some r', again⟩
      else
        let d := d.bump .kindConflict
        ⟨if f.kind.sender = .console then d.bump .notConsole else d, none, again⟩

/-- The freshness event of a peer heard again (R42, R55). -/
def Intake.news (i : Intake) (d : Dev) (src : Nat) : Dev :=
  if i.again then
    match d.peer src with
    | some r => d.onFreshness r
    | none => d
  else d

/-- A frame of the record's kind taken with nothing but its intake (R42, R47). -/
def Intake.only (i : Intake) (src : Nat) : Dev :=
  i.news i.dev src

/-- An intent with its timer started at 2 × Tw (R46). -/
def Dev.newIntent (d : Dev) (sec : Nat) (t : Ticket) : PeerIntent :=
  { sec := sec, ticket := t, timer := d.now + 2 * d.tmp.plan.claimWindow * 1000 }

/-- The record with a beacon's fields (R43, R49). -/
def Dev.beaconRecord (d : Dev) (r : PeerRec) (b : BeaconFields) : PeerRec :=
  let t := Ticket.ofByte b.ticketByte r.station
  { r with
    signature := some b.signature
    foreign := b.signature != d.tmp.signature
    beaconSeen := true
    sec := b.sec
    offset := b.offset
    dir := b.dir
    speed := b.speed
    length := b.length
    unc := b.unc
    restricted := b.restricted
    overspeedWarn := b.overspeedWarn
    stateByte := some b.stateByte
    faultByte := some b.faultByte
    ticket := t
    held := b.held
    intent := if b.intentSec = 0 then none else some (d.newIntent b.intentSec t)
    waiting := if b.waitSec = 0 then none else some (b.waitSec, b.waitPeer) }

/-- A BEACON (R43). -/
def Dev.takeBeacon (d : Dev) (f : Frame) : Dev :=
  let i := d.intake f
  match i.record with
  | none => i.dev
  | some r =>
    let b := readBeacon f.payload
    if Config.maxHeld < b.heldCount then i.dev.bump .beaconMalformed
    else
      let r' := i.dev.beaconRecord r b
      (i.news (i.dev.setPeerCounted r') f.src).onBeacon r'

/-- A held list with a section taken (R44), and whether it overran. -/
def takeHeld (held : List Nat) (sec : Nat) : List Nat × Bool :=
  if held.contains sec then (held, false)
  else if held.length < Config.maxHeld then (held ++ [sec], false)
  else (held.drop 1 ++ [sec], true)

/-- A TAKEN (R44). -/
def Dev.takeTaken (d : Dev) (f : Frame) : Dev :=
  let i := d.intake f
  match i.record with
  | none => i.dev
  | some r =>
    let sec := byteAt f.payload 0
    let h := takeHeld r.held sec
    let r' : PeerRec := { r with
      held := h.1
      ticket := Ticket.ofByte (f.payload.getD 1 0) r.station
      intent := if r.intent.any (fun x => x.sec == sec) then none else r.intent }
    let d := i.dev.setPeer r'
    let d := if h.2 then d.bump .listOverrun else d
    (i.news d f.src).onTaking r.station sec

/-- A RELEASE (R45). -/
def Dev.takeRelease (d : Dev) (f : Frame) : Dev :=
  let i := d.intake f
  match i.record with
  | none => i.dev
  | some r =>
    let secs := readRelease f.payload
    let r' : PeerRec := { r with held := r.held.filter (fun s => !secs.contains s) }
    let d := i.news (i.dev.setPeer r') f.src
    if r'.held.length = r.held.length then d else d.onViewChanged

/-- An INTENT (R46). -/
def Dev.takeIntent (d : Dev) (f : Frame) : Dev :=
  let i := d.intake f
  match i.record with
  | none => i.dev
  | some r =>
    let sec := byteAt f.payload 0
    let t := Ticket.ofByte (f.payload.getD 1 0) r.station
    let d := i.dev.setPeer { r with intent := some (i.dev.newIntent sec t) }
    (i.news d f.src).onIntent r.station sec t

/-- An OBJECT (R47); one that is not addressed to this station carries no objection (R68, log 44). -/
def Dev.takeObject (d : Dev) (f : Frame) : Dev :=
  let i := d.intake f
  match i.record with
  | none => i.dev
  | some r =>
    let d := i.only f.src
    if f.dest = d.station then d.onObjection r.station (byteAt f.payload 0) (byteAt f.payload 1 == 1) else d

/-- One entry of a POINTS-STATE (R48). DESIGN CHOICE: the list is kept in ascending section number (log 61). -/
def Dev.takePoints (d : Dev) (n : Nat) (e : PointsEntry) : Dev :=
  let mine := (findSection d.tmp.sections e.sec).any (fun s => s.kind == .points && s.junction == n)
  match d.peer n with
  | some r =>
    if mine then
      let rest := r.points.filter (fun x => x.sec != e.sec)
      (d.setPeer { r with points := insertSorted (fun (x : PointsEntry) => x.sec) e rest }).onPoints
        e.sec e.leg e.locked e.holder
    else d.bump .pointsForeign
  | none => d

/-- A POINTS-STATE (R48). -/
def Dev.takePointsState (d : Dev) (f : Frame) : Dev :=
  let i := d.intake f
  match i.record with
  | none => i.dev
  | some r => (readPointsState f.payload).foldl (fun d e => d.takePoints r.station e) (i.only f.src)

/-- POINTS-REQUEST, ORDER-REPORT, FAULT-REPORT and LINK-REPORT of a peer (R47). -/
def Dev.takePeerReport (d : Dev) (f : Frame) : Dev :=
  let i := d.intake f
  match i.record with
  | none => i.dev
  | some _ => i.only f.src

/-! ### Ageing (R50, R51) and the intent timer (R46) -/

/-- A record that leaves FRESH (R50). -/
def PeerRec.silent (r : PeerRec) : PeerRec :=
  { r with intent := none, points := if r.kind == .junction then [] else r.points }

/-- The STALE threshold of a record: 3 × Tb after its last frame, while it is FRESH (R50). -/
def Dev.staleTimer (d : Dev) (r : PeerRec) : Timer :=
  if r.freshness == .fresh then some (r.heardAt + 3 * d.tmp.plan.beaconPeriod * 1000) else none

/-- The LOST threshold of a record: Tl after its last frame (R51). -/
def Dev.lostTimer (d : Dev) (r : PeerRec) : Timer :=
  if r.freshness == .lost then none else some (r.heardAt + d.tmp.plan.lostTime * 1000)

/-- The intent timer of a record (R46). -/
def PeerRec.intentTimer (r : PeerRec) : Timer :=
  r.intent.map (·.timer)

/-- The STALE threshold of a record is reached (R50). -/
def Dev.peerStale (d : Dev) (n : Nat) : Dev :=
  match d.peer n with
  | some r =>
    d.whileDue (d.staleTimer r) (fun d =>
      let r' := { r.silent with freshness := .stale }
      (d.setPeerCounted r').onFreshness r')
  | none => d

/-- The LOST threshold of a record is reached (R51). -/
def Dev.peerLost (d : Dev) (n : Nat) : Dev :=
  match d.peer n with
  | some r =>
    d.whileDue (d.lostTimer r) (fun d =>
      let r' := { r.silent with freshness := .lost, frozen := r.kind == .carriage }
      (d.setPeerCounted r').onFreshness r')
  | none => d

/-- The intent timer of a record expires: the view has changed (R46). -/
def Dev.peerIntentExpiry (d : Dev) (n : Nat) : Dev :=
  match d.peer n with
  | some r => d.whileDue r.intentTimer (fun d => (d.setPeer { r with intent := none }).onViewChanged)
  | none => d

/-- FREE-STATION for a station (R52). -/
def Dev.freeStation (d : Dev) (n : Nat) : Dev :=
  match d.peer n with
  | none => d.bump .freeIgnored
  | some r =>
    if r.kind != .carriage then d.bump .freeIgnored
    else if r.freshness != .lost then d.bump .freeRefused
    else if !r.frozen then d.bump .freeIgnored
    else (d.setPeer { r with frozen := false, held := [], sec := 0, waiting := none }).onViewChanged

end Sys2Proof.Machine
end

