-- ==== Sys2Proof/Machine/Commands.lean ====
section
/-! DEFINITION. The consoles' frames at the Station Controller: MOVE-ORDER (R147, R148), HALT (R153), RESUME (R155), ABORT (R156),
LOCATE (R157), CLEAR-FAULTS (R122, R123, R159), the link test (R176), and the listen timer (R143). -/

namespace Sys2Proof.Machine

/-- The id of the current order, or 0. -/
def Dev.orderId (d : Dev) : Nat :=
  (d.stc.order.map (·.id)).getD 0

/-- A refusal reported to a console, unless the request was addressed to all (R145). -/
def Dev.answer (d : Dev) (toAll : Bool) (console : Nat) (req : ReportRequest) (id : Nat) (o : ReportOutcome) : Dev :=
  if toAll then d else d.orderReport console req id o

/-! ### MOVE-ORDER -/

/-- The first seven checks of R147, in order: the reason of the first that fails. -/
def Dev.orderChecks (d : Dev) (m : MoveFields) : Option RefuseReason :=
  match d.stc.state with
  | .running | .approach | .docking => some .busy
  | .noPosition => some .noPosition
  | .halted | .safeStop => some .stopped
  | .listen => some .listening
  | .standing | .parked | .start | .bootFailed | .bootHold =>
    if d.stc.state == .parked && d.stc.order.isSome then some .busy
    else if d.faultActive .planMismatch then some .planMismatch
    else if d.stc.haltHold then some .stopped
    else if !m.valid then some .orderInvalid
    else none

/-- A refused order (R147). -/
def Dev.refuseOrder (d : Dev) (console id : Nat) (r : RefuseReason) : Dev :=
  let d := d.orderReport console .moveOrder id (.refused r)
  match r.counter with
  | some c => d.bump c
  | none => d

/-- The start of an accepted order, step by step (R148). When a step takes the station to SAFE-STOP the order has ended, and the
steps that follow find none. -/
def Dev.startOrder (d : Dev) (o : Order) (onAuthority : Bool) : Dev :=
  let d := d.bump .ordersAccepted
  let d := { d with
    stc := { d.stc with order := some o, heldReport := onAuthority }
    lif := { d.lif with test := none } }
  let d := if onAuthority then d else d.orderReport o.console .moveOrder o.id .accepted
  let d := d.odoOrderStart o.route
  let d := { d with sup := { d.sup with vOrder := some o.vOrder } }
  let d := d.buildView { route := o.route, pad := o.pad, priority := o.priority } o.vOrder
  if d.stc.order.isNone then d
  else
    let d := d.dockOrderStart o.pad
    let d :=
      if d.dkc.sub == .unclamping then
        let d := { d with stc := { d.stc with order := some { o with departing := true } } }
        if d.stc.state == .parked then d else d.enterState .parked
      else ({ d with stc := { d.stc with parkedPad := none } }).enterState .running
    d.judgeHeldReport true

/-- A MOVE-ORDER addressed to this station (R147). -/
def Dev.judgeOrder (d : Dev) (console : Nat) (m : MoveFields) : Dev :=
  match d.orderChecks m with
  | some r => d.refuseOrder console m.id r
  | none =>
    if d.stc.state == .parked && d.stc.parkedPad == some m.pad then
      (d.orderReport console .moveOrder m.id .arrived).bump .ordersAtOnce
    else if !d.odo.standstill then d.refuseOrder console m.id .notStandstill
    else
      match validateRoute d.tmp.sections d.tmp.pads d.tmp.carriage.length d.tmp.carriage.dockTol d.odo.pos.point m.route m.pad with
      | .error r => d.refuseOrder console m.id r
      | .ok route =>
        d.startOrder { id := m.id, console := console, route := route, pad := m.pad, speedClass := m.speedClass
                       vOrder := d.tmp.plan.classSpeed m.speedClass, priority := m.priority
                       onAuthority := m.mode == 1, departing := false } (m.mode == 1)

/-- A frame that a console may not send to all (R145). -/
def Dev.orderToAll (d : Dev) : Dev :=
  d.bump .orderToAll

/-- The frame is addressed to all. -/
def Frame.toAll (f : Frame) : Bool :=
  f.dest == 0

/-- A console frame after its intake: what `act` does with it, when it comes from a CONSOLE record (R41, R145, R167). -/
def Dev.fromConsole (d : Dev) (f : Frame) (act : Dev → Dev) : Dev :=
  let i := d.intake f
  match i.record with
  | none => i.dev
  | some _ => act (i.only f.src)

/-- MOVE-ORDER (R145, R147). -/
def Dev.takeMoveOrder (d : Dev) (f : Frame) : Dev :=
  d.fromConsole f (fun d => if f.toAll then d.orderToAll else d.judgeOrder f.src (readMoveOrder f.payload))

/-! ### HALT and RESUME -/

/-- A console's HALT (R153). -/
def Dev.consoleHalt (d : Dev) : Dev :=
  match d.stc.state with
  | .halted => d.bump .secondHalts
  | .safeStop => ({ d with stc := { d.stc with haltHold := true } }).bump .haltsTaken
  | .running | .approach | .docking | .listen | .noPosition | .standing | .parked => (d.takeHalt).bump .haltsTaken
  | .start | .bootFailed | .bootHold => d

/-- A RESUME refused (R155). -/
def Dev.refuseResume (d : Dev) (toAll : Bool) (console : Nat) (r : RefuseReason) : Dev :=
  (d.answer toAll console .resume d.orderId (.refused r)).bump .resumesRefused

/-- The return from HALTED (R155). -/
def Dev.returnFromHalted (d : Dev) : Dev :=
  let r := d.stc.remembered
  let d := { d with stc := { d.stc with remembered := none } }
  match r with
  | some .running => d.enterState .running
  | some .approach => (d.enterState .approach).dockResume
  | some .docking => (d.enterState .docking).dockResume
  | some .rest | none => d.enterState d.restState

/-- A console's RESUME (R155). DESIGN CHOICE: the ORDER-REPORT ACCEPTED is queued before the reports that the return brings about
(log 65). -/
def Dev.resume (d : Dev) (toAll : Bool) (console : Nat) : Dev :=
  if d.stc.state == .safeStop then d.refuseResume toAll console .stopped
  else if !d.stc.haltHold then d.refuseResume toAll console .notHalted
  else if d.classActive .halt then d.refuseResume toAll console .faultActive
  else
    let d := (d.orderReport console .resume d.orderId .accepted).bump .resumesAccepted
    let d := { d with stc := { d.stc with haltHold := false } }
    if d.stc.state == .halted then d.returnFromHalted.completeAbort else d

/-! ### ABORT -/

/-- An ABORT refused (R156). -/
def Dev.refuseAbort (d : Dev) (toAll : Bool) (console : Nat) (r : RefuseReason) : Dev :=
  (d.answer toAll console .abort d.orderId (.refused r)).bump .abortsRefused

/-- A departure that an ABORT ends (R156). -/
def Dev.abortDeparture (d : Dev) : Dev :=
  let d := d.dockAbort
  let d := d.endOrder .aborted none
  d.enterState (if d.dkc.sub == .clamped then .parked else .standing)

/-- A console's ABORT (R156). -/
def Dev.abort (d : Dev) (toAll : Bool) (console : Nat) : Dev :=
  if d.stc.abortPending then d.bump .abortsRefused
  else if d.stc.order.isNone then d.refuseAbort toAll console .noOrder
  else
    match d.stc.state with
    | .running | .approach | .docking | .halted =>
      let d := { d with stc := { d.stc with abortPending := true } }
      ((d.claimsAbort).dockAbort).completeAbort
    | .parked => d.abortDeparture
    | .safeStop => d.refuseAbort toAll console .stopped
    | .start | .bootFailed | .bootHold | .listen | .noPosition | .standing => d.refuseAbort toAll console .noOrder

/-! ### LOCATE -/

/-- A LOCATE addressed to this station (R157). DESIGN CHOICE: the ORDER-REPORT ACCEPTED of a LOCATE that is taken is queued after the
frames that the placing brings about (log 65). -/
def Dev.takeLocateFields (d : Dev) (console sec offset : Nat) (dir : Direction) : Dev :=
  match d.stc.state with
  | .running | .approach | .docking => d.orderReport console .locate 0 (.refused .busy)
  | .listen | .noPosition | .standing | .parked | .halted | .safeStop | .start | .bootFailed | .bootHold =>
    let d := d.bump .locatesHanded
    match d.locate sec offset dir with
    | .error r => d.orderReport console .locate 0 (.refused r)
    | .ok d =>
      let d := if d.stc.state == .noPosition && d.odo.known then d.enterState .standing else d
      d.orderReport console .locate 0 .accepted

/-- LOCATE (R145, R157). -/
def Dev.takeLocate (d : Dev) (f : Frame) : Dev :=
  d.fromConsole f (fun d =>
    if f.toAll then d.orderToAll
    else d.takeLocateFields f.src (byteAt f.payload 0) (beAt f.payload 1 3) (Direction.ofCode (byteAt f.payload 4)))

/-! ### CLEAR-FAULTS -/

/-- A latch's condition is gone (R123). -/
def Dev.latchGone (d : Dev) : Latch → Bool
  | .safeStop => !d.classActive .safeStop
  | .clampsNotUp => d.bdu.duty == 0 || d.bdu.inClampsUp
  | .supplyLow => !d.bdu.inSupplyLow

/-- A set latch whose condition is gone is released, counted (R123). -/
def Dev.releaseLatch (d : Dev) (l : Latch) : Dev :=
  if d.bdu.latch l && d.latchGone l then ({ d with bdu := d.bdu.withLatch l false }).bump .latchReleases else d

/-- A CLEAR-FAULTS at BDU (R122, R123), and STC's exit from SAFE-STOP (R159). -/
def Dev.clearFaults (d : Dev) : Dev :=
  if d.odo.standstill then
    let d := d.clearFaultSet true
    let d := ((d.releaseLatch .safeStop).releaseLatch .clampsNotUp).releaseLatch .supplyLow
    d.settle.leaveSafeStop
  else
    let d := d.clearFaultSet false
    if d.bdu.latched then (d.reportRefused).bump .clearsRefused else d

/-! ### The link test (R176) -/

/-- A LINK-TEST frame ignored. -/
def Dev.ignoreTest (d : Dev) : Dev :=
  d.bump .testIgnored

/-- The link test set. -/
def Dev.setTest (d : Dev) (t : Option LinkTest) : Dev :=
  { d with lif := { d.lif with test := t } }

/-- LINK-TEST START. -/
def Dev.testStart (d : Dev) (f : Frame) : Dev :=
  if (d.stc.state == .standing || d.stc.state == .parked) && d.stc.order.isNone then
    d.setTest (some { console := f.src, reg := testSeed (beAt f.payload 1 2), bitErrors := 0, compared := 0 })
  else d.ignoreTest

/-- LINK-TEST DATA. -/
def Dev.testData (d : Dev) (f : Frame) : Dev :=
  match d.lif.test with
  | some t =>
    if t.console = f.src then
      let r := testCompare ((f.payload.drop 1).take 32) t.reg
      d.setTest (some { t with reg := r.2, bitErrors := satAdd t.bitErrors r.1, compared := satInc t.compared })
    else d.ignoreTest
  | none => d.ignoreTest

/-- LINK-TEST STOP. -/
def Dev.testStop (d : Dev) (f : Frame) : Dev :=
  match d.lif.test with
  | some t =>
    if t.console = f.src then (d.send .linkReport t.console (linkReportPayload t)).setTest none else d.ignoreTest
  | none => d.ignoreTest

/-! ### The listen timer (R143) -/

/-- The listen timer expires in LISTEN. -/
def Dev.listenExpiry (d : Dev) : Dev :=
  if d.stc.state == .listen && d.due d.stc.listenTimer then
    let d := { d with stc := { d.stc with listenTimer := none } }
    d.enterState d.restState
  else d

end Sys2Proof.Machine
end

