-- ==== Sys2Proof/Machine/LineEvents.lean ====
section
/-! DEFINITION. The Line Interface's events: sending (R163, R164), receiving (R166, R167), the beacon timer (R174), line quiet
(R175). -/

namespace Sys2Proof.Machine

def Dev.setLif (d : Dev) (l : Lif) : Dev :=
  { d with lif := l }

/-! ### Sending (R163) -/

/-- The payload with which an entry is sent: a BEACON's is built now (R169). -/
def Dev.sendingPayload (d : Dev) (e : TxEntry) : List Byte :=
  if e.kind = .beacon then d.beaconPayload else e.payload

/-- The line has been idle for 10 bit times while the transmitter waits: the oldest frame of the lowest class is driven. -/
def Dev.transmitStart (d : Dev) : Dev :=
  match d.lif.tx, d.lif.queue with
  | .waiting, e :: rest =>
    d.setLif { d.lif with
      tx := .sending
      rx := .receiving
      awaitIdle := false
      queue := { e with sending := true } :: rest
      sending := frameBytes e.dest d.station e.kind (d.sendingPayload e) }
  | .waiting, [] => d.setLif { d.lif with tx := .idle }
  | .idle, _ | .sending, _ | .backoff, _ => d

/-- The queue without the frame being sent. -/
def withoutSending (q : List TxEntry) : List TxEntry :=
  q.filter (fun e => !e.sending)

/-- The frame being sent after a collision: its attempt count raised, in its place. -/
def collided (q : List TxEntry) : List TxEntry :=
  q.map (fun e => if e.sending then { e with attempts := e.attempts + 1, sending := false } else e)

/-- A report of dropped or sent goes to CLE for an INTENT (R67, R173). -/
def TxEntry.intentTag (e : TxEntry) : Option Nat :=
  if e.kind = .intent then e.tag else none

/-- A collision while SENDING (R163, R164). -/
def Dev.collision (d : Dev) : Dev :=
  match d.lif.tx, d.lif.queue.find? (·.sending) with
  | .sending, some e =>
    let d := d.bump .collisions
    let r := lfsrStep d.lif.lfsr
    let last := decide (3 ≤ e.attempts)
    let d := d.setLif { d.lif with
      tx := .backoff
      lfsr := r
      backoffTimer := d.timerUs (lfsrSlots r * Config.slotUs)
      sending := []
      queue := if last then withoutSending d.lif.queue else collided d.lif.queue }
    if last then
      let d := d.bump .txDrops
      match e.intentTag with
      | some tag => d.intentDropped tag
      | none => d
    else d
  | _, _ => d

/-- The last byte of the frame has gone out with no collision (R163). -/
def Dev.frameSent (d : Dev) : Dev :=
  match d.lif.tx, d.lif.queue.find? (·.sending) with
  | .sending, some e =>
    let d := d.bump .framesSent
    let l : Lif := { d.lif with tx := .idle, rx := .idle, sending := [], queue := withoutSending d.lif.queue }
    let d := d.setLif l.follow
    match e.intentTag with
    | some tag => d.intentSent tag
    | none => d
  | _, _ => d

/-- The backoff timer expires (R163). -/
def Dev.txBackoffExpiry (d : Dev) : Dev :=
  d.whileDue d.lif.backoffTimer (fun d =>
    match d.lif.tx with
    | .backoff =>
      let l : Lif := { d.lif with tx := .idle, backoffTimer := none }
      d.setLif l.follow
    | .idle | .waiting | .sending => d)

/-! ### Timers (R174, R175) -/

/-- The beacon timer expires (R174). -/
def Dev.beaconTimerExpiry (d : Dev) : Dev :=
  d.whileDue d.lif.beaconTimer (fun d =>
    (d.setLif { d.lif with beaconTimer := d.timerMs d.tmp.plan.beaconPeriod }).send .beacon 0 [])

/-- The line quiet timer expires (R175). -/
def Dev.lineQuietExpiry (d : Dev) : Dev :=
  d.whileDue d.lif.quietTimer (fun d =>
    (d.setLif { d.lif with quietTimer := none, quiet := true }).raise .lineQuiet)

/-- A valid frame is heard: the line quiet timer restarts, and LINE-QUIET's cause ends (R175). -/
def Dev.validHeard (d : Dev) : Dev :=
  let quiet := d.lif.quiet
  let d := d.setLif { d.lif with quietTimer := d.timerMs d.tmp.plan.quietTime, quiet := false }
  if quiet then (d.causeEnded .lineQuiet).quietCleared else d

/-! ### Receiving (R166) -/

/-- A frame is abandoned (R166). -/
def Dev.abandonFrame (d : Dev) : Dev :=
  (d.setLif { d.lif with rx := .discarding }).bump .formatErrors

/-- The last two checks of R166 on a valid frame. -/
def Dev.placeFrame (d : Dev) (f : Frame) : Dev :=
  if f.dest != 0 && f.dest != d.station then d
  else if d.lif.mailbox.length < Config.maxMailbox then d.setLif { d.lif with mailbox := d.lif.mailbox ++ [f] }
  else d.bump .rxOverflow

/-- A complete frame is checked (R166). -/
def Dev.checkFrame (d : Dev) (bytes : List Byte) : Dev :=
  let p := framePayload bytes
  if !frameCrcOk bytes then d.bump .crcErrors
  else
    match FrameKind.ofCode (byteAt bytes 2) with
    | none => d.bump .formatErrors
    | some k =>
      if !layoutOk k p then d.bump .formatErrors
      else
        let f : Frame :=
          { dest := byteAt bytes 0, src := byteAt bytes 1, kind := k, payload := p, check := frameCheck bytes }
        ((d.bump .goodFrames).validHeard).placeFrame f

/-- The receiver takes no frame: it is inactive, has had no idle line since its activation (R161), or is DISCARDING (R166). -/
def Lif.deaf (l : Lif) : Bool :=
  !l.active || l.awaitIdle || l.rx == .discarding

/-- A frame comes in from the line (R166): the own frame is passed over while the transmitter is SENDING, and bytes that are no
whole frame are an abandoned one (log 20). -/
def Dev.frameReceive (d : Dev) (bytes : List Byte) : Dev :=
  if d.lif.deaf || d.lif.tx == .sending then d
  else if !frameWhole bytes then d.abandonFrame
  else (d.setLif { d.lif with rx := .idle }).checkFrame bytes

/-- One of the three events that abandon a frame (R166). -/
def Dev.frameAbandoned (d : Dev) : Dev :=
  if d.lif.deaf then d else d.abandonFrame

/-- The line has been idle for 10 bit times: DISCARDING ends (R166), and the receiver that waits for it since its activation begins to
receive (R161). -/
def Dev.lineIdle (d : Dev) : Dev :=
  let d := d.setLif { d.lif with awaitIdle := false }
  if d.lif.rx == .discarding then d.setLif { d.lif with rx := .idle } else d

/-! ### Dispatch (R167) -/

/-- The head of the mailbox is dispatched when it is of the kind the command names: it leaves the mailbox and its recipient takes
it (R167, log 4). -/
def Dev.dispatch (d : Dev) (is : Frame → Bool) (take : Dev → Frame → Dev) : Dev :=
  match d.lif.mailbox with
  | [] => d
  | f :: rest => if is f then take (d.setLif { d.lif with mailbox := rest }) f else d

/-- A frame of a kind. -/
def Frame.isKind (k : FrameKind) (f : Frame) : Bool :=
  f.kind == k

/-- A LINK-TEST frame of a mode (R171). -/
def Frame.isTest (mode : Nat) (f : Frame) : Bool :=
  f.kind == .linkTest && byteAt f.payload 0 == mode

/-- A peer's frame that is taken for ageing alone (R47). -/
def Frame.isPeerReport (f : Frame) : Bool :=
  f.kind == .pointsRequest || f.kind == .orderReport || f.kind == .faultReport || f.kind == .linkReport

end Sys2Proof.Machine
end

