-- ==== Sys2Proof/Machine/Boot.lean ====
section
/-! DEFINITION. Reset (R193), the boot read (R194), the entry into LISTEN (R195), the inputs of BDU (R115, R117, R120, R187), and
the whole sample (R20, R62, R65, R78 to R80, R133 to R136, R156). -/

namespace Sys2Proof.Machine

/-! ### Inputs of the Brake and Drive Unit -/

/-- An activation of the local stop input (R117). -/
def Dev.localStopOn (d : Dev) : Dev :=
  (((({ d with bdu := { d.bdu with srcLocalStop := true } }).settle).bump .localStops)).raise .localStop

/-- A change of the filtered local stop input (R117); before BDU is active the level is kept (R115). -/
def Dev.localStopChange (d : Dev) (active : Bool) : Dev :=
  if d.bdu.inLocalStop == active then d
  else
    let d := { d with bdu := { d.bdu with inLocalStop := active } }
    if !d.bdu.active then d
    else if active then d.localStopOn
    else (({ d with bdu := { d.bdu with srcLocalStop := false } }).settle).causeEnded .localStop

/-- The drive-not-ready source follows the drive-ready input; an activation is counted (R117). -/
def Dev.driveSource (d : Dev) : Dev :=
  let source := !d.bdu.inDriveReady
  let d' := ({ d with bdu := { d.bdu with srcDriveNotReady := source } }).settle
  if source && !d.bdu.srcDriveNotReady then d'.bump .driveNotReady else d'

/-- A change of the filtered drive-ready input (R117). -/
def Dev.driveReadyChange (d : Dev) (active : Bool) : Dev :=
  if d.bdu.inDriveReady == active then d
  else
    let d := { d with bdu := { d.bdu with inDriveReady := active } }
    if d.bdu.active then d.driveSource else d

/-- An activation of the supply monitor input: the latch, then SUPPLY-LOW (R120, R187). -/
def Dev.supplyLowOn (d : Dev) : Dev :=
  (d.setLatch .supplyLow).raise .supplyLow

/-- A change of the filtered supply monitor input (R120, R187). -/
def Dev.supplyChange (d : Dev) (active : Bool) : Dev :=
  if d.bdu.inSupplyLow == active then d
  else
    let d := { d with bdu := { d.bdu with inSupplyLow := active } }
    if d.bdu.active && active then d.supplyLowOn else d

/-- BDU at the entry into LISTEN: each level that is active is taken as an activation, and every output is set (R110). DESIGN CHOICE: the
levels are taken in the order drive not ready, local stop, supply low (log 15). -/
def Dev.bduActivate (d : Dev) : Dev :=
  let d := ({ d with bdu := { d.bdu with active := true } }).settle
  let d := d.driveSource
  let d := if d.bdu.inLocalStop then d.localStopOn else d
  if d.bdu.inSupplyLow then d.supplyLowOn else d

/-- An expiry of the train watch timer (R124). -/
def Dev.trainWatchExpiry (d : Dev) : Dev :=
  d.whileDue d.bdu.trainTimer Dev.stopTrain

/-! ### The entry into LISTEN (R195; the order of the blocks is log 15) -/

/-- LIF at its activation (R161, R174, R175). -/
def Dev.lifActivate (d : Dev) : Dev :=
  d.setLif { d.lif with
    active := true
    awaitIdle := true
    lfsr := BitVec.ofNat 16 d.station
    beaconTimer := d.timerMs d.tmp.plan.beaconPeriod
    quietTimer := d.timerMs d.tmp.plan.quietTime }

/-- ODO at its activation: the sample timer and the start-up position, which gives the parked pad (R20, R36, R143). -/
def Dev.odoActivate (d : Dev) : Dev :=
  let d := { d with odo := { d.odo with
    active := true, sampleTimer := d.timerMs Config.sampleMs, history := List.replicate 10 0 } }
  let r := d.startPosition
  { r.1 with stc := { r.1.stc with parkedPad := if r.1.odo.known then r.2 else none } }

/-- SUP at its activation: the evaluation timer, and a_eff at Asv (R88). -/
def Dev.supActivate (d : Dev) : Dev :=
  { d with sup := { d.sup with
    evalTimer := d.timerMs Config.evaluationMs, aEff := d.tmp.carriage.serviceDecel } }

/-- CLE at its activation: the first occupancy claims (R62). -/
def Dev.cleActivate (d : Dev) : Dev :=
  ({ d with cle := { d.cle with active := true } }).claimsAnchored

/-- The station enters LISTEN (R143, R195). -/
def Dev.enterListen (d : Dev) : Dev :=
  let d := { d with btl := { d.btl with phase := .done, blockTimer := none } }
  let d := d.enterState .listen
  let d := { d with stc := { d.stc with listenTimer := d.timerMs d.tmp.plan.lostTime } }
  d.lifActivate.reportHeld.bduActivate.odoActivate.supActivate.dockActivate.cleActivate

/-! ### The boot read (R194) -/

/-- A boot failure (R194). -/
def Dev.failBoot (d : Dev) (r : BootReason) (x : Option BootDetail) : Dev :=
  ({ d with
    tmp := d.tmp.unload
    btl := { d.btl with phase := .failed, reason := r, detail := x, blockTimer := none } }).enterState .bootFailed

/-- The lock, with one CONFIG-CLAMPED for each replacement (R8, R195). -/
def Dev.lockMap (d : Dev) : Dev :=
  let r := d.tmp.lock
  ({ d with tmp := r.1 }).raiseTimes .configClamped r.2

/-- The last block has been taken: the checks of R10, then the lock and LISTEN, or the failure (R10, R194, R195). -/
def Dev.finishBoot (d : Dev) : Dev :=
  match (readImage d.tmp.planData d.tmp.recordData).check (byteAt d.tmp.carriageData 0) with
  | some (c, n) => d.failBoot .mapInvalid (some (.check c n))
  | none => (d.lockMap).enterListen

/-- The check of a boot block agrees with its data (R194). -/
def blockOk (b : List Byte) : Bool :=
  crc16 (b.take 30) == BitVec.ofNat 16 (beAt b 30 2)

/-- The data of a good block goes on by its address, with what fails the boot at once (R194). The blocks to read follow from the
counts also where one exceeds its limit. -/
def Dev.takeBlock (d : Dev) (b : List Byte) : Dev × Option (BootReason × Option BootDetail) :=
  let data := b.take 30
  match d.btl.next with
  | 0 =>
    let station := byteAt data 0
    if station = 0 || 32 < station then (d, some (.carriageId, none))
    else ({ d with tmp := { d.tmp with carriageData := data } }, none)
  | 1 =>
    let c := planCounts data
    ({ d with tmp := { d.tmp with planData := data }, btl := { d.btl with total := blocksToRead c } },
      if countsOver c then some (.mapInvalid, some (.check .counts 0)) else none)
  | _ => ({ d with tmp := { d.tmp with recordData := d.tmp.recordData ++ data } }, none)

/-- A good block's data taken: the next block is asked for, or the map is judged after the last (R194). -/
def Dev.blockTaken (d : Dev) : Dev :=
  let d := { d with btl := { d.btl with next := d.btl.next + 1, blockTimer := d.timerMs Config.blockMs } }
  if d.btl.next = d.btl.total then d.finishBoot else d

/-- A block read completes (R194). DESIGN CHOICE: where a block with a good check fails the boot at once, as CARRIAGE-ID or at
the counts check, the next block stays at that block's address (log 73). -/
def Dev.bootBlock (d : Dev) (b : List Byte) : Dev :=
  if d.btl.phase != .reading then d
  else if !blockOk b then d.failBoot .blockCheck (some (.block d.btl.next))
  else
    let t := d.takeBlock b
    match t.2 with
    | some (r, x) => t.1.failBoot r x
    | none => t.1.blockTaken

/-- The block timer expires (R194). -/
def Dev.blockTimeout (d : Dev) : Dev :=
  if d.btl.phase == .reading && d.due d.btl.blockTimer then
    d.failBoot .noResponse (some (.block d.btl.next))
  else d

/-- The end of reset, at which the boot-hold input is sampled: BOOT-HOLD, or START with the read begun (R193, R194). -/
def Dev.afterReset (bootHold : Bool) : Dev :=
  let d := Dev.reset
  if bootHold then { d with stc := { d.stc with state := .bootHold } }
  else
    { d with
      tmp := { d.tmp with phase := .loading }
      btl := { d.btl with phase := .reading, blockTimer := d.timerMs Config.blockMs } }

/-! ### The whole sample -/

/-- What a change of standstill brings about (R79, R80, R133, R135, R136, R156). -/
def Dev.standstillChanged (d : Dev) (before : Bool) : Dev :=
  if d.odo.standstill && !before then ((d.claimsStandstill).dockStandstill).completeAbort
  else if before && !d.odo.standstill then d.dockMotion
  else d

/-- One expiry of the sample timer in every block (R20; the order is log 13). -/
def Dev.sample (d : Dev) : Dev :=
  if d.odo.active && d.due d.odo.sampleTimer then
    ((d.unmarkRetry.odoSample).claimsSample d.retrySection).standstillChanged d.odo.standstill
  else d

end Sys2Proof.Machine
end

