-- ==== Sys2Proof/Machine/Maintenance.lean ====
section
/-! DEFINITION. The Maintenance Port: the status record (R190 with R39, R87, R109, R126, R141, R160, R177, R188), the counters
(R190), the table window (R191 with R17, R56, R87), the boot memory writes (R192). Layouts: R191 (log 26, 27). -/

namespace Sys2Proof.Machine

/-! ### Fields (R191) -/

/-- A number in one, two, three and four bytes. -/
def u8 (n : Nat) : List Byte := beBytes 1 n
def u16 (n : Nat) : List Byte := beBytes 2 n
def u24 (n : Nat) : List Byte := beBytes 3 n
def u32 (n : Nat) : List Byte := beBytes 4 n

/-- An item of two values: 1 for the first of its pair, 0 for the second. -/
def flag (b : Bool) : List Byte := u8 b.toNat

/-- A field of `w` bytes that may be absent: 1 and the field, or 0 and zeros. -/
def optField (w : Nat) (x : Option (List Byte)) : List Byte :=
  match x with
  | some b => 1 :: b
  | none => 0 :: List.replicate w 0

/-- A timer: milliseconds held at 0xFFFE, 0xFFFF when stopped. -/
def timerField (t : Option Nat) : List Byte :=
  match t with
  | some ms => u16 (min 0xFFFE ms)
  | none => u16 0xFFFF

/-- A timer of the part. -/
def Dev.timerBytes (d : Dev) (t : Timer) : List Byte :=
  timerField (d.remaining t)

/-- A list: one count byte and the entries. -/
def listField {α : Type} (f : α → List Byte) (l : List α) : List Byte :=
  u8 l.length ++ l.flatMap f

/-- A ticket: its byte of R168 and the station number. -/
def ticketField (t : Ticket) : List Byte :=
  t.toByte :: u8 t.station

/-! ### Summaries for READ-STATUS -/

/-- A remembered state: the station state's code of R168; REST, which has none, its place in R142's list. -/
def Remembered.code : Remembered → Nat
  | .running => 5
  | .approach => 6
  | .docking => 7
  | .rest => 3

/-- An outcome's place in R145's list. -/
def OrderOutcome.code : OrderOutcome → Nat
  | .arrived => 2
  | .aborted => 3
  | .failed => 4

/-- A route entry (R16). -/
def routeEntryField (e : RouteEntry) : List Byte :=
  u8 e.sec ++ u8 e.dir.code ++ u8 e.leg.code ++ u8 e.entryEnd.code ++ u8 e.exitEnd.code ++ u32 e.c0 ++ u32 e.c1

/-- The order record (R146). -/
def orderField (o : Order) : List Byte :=
  u16 o.id ++ u8 o.console ++ listField routeEntryField o.route.entries ++ u32 o.route.padCoord ++ u32 o.route.total
    ++ u8 o.pad ++ u8 o.speedClass ++ u16 o.vOrder ++ u8 o.priority ++ u8 o.onAuthority.toNat ++ u8 (!o.departing).toNat

/-- STC's summary, which begins with the station state (R160). DESIGN CHOICE: an absent order record is 19 bytes of 0 after its presence
byte: every field of a set length, and the count byte of an empty list of route entries (log 76). -/
def Dev.stationSummary (d : Dev) : List Byte :=
  let s := d.stc
  u8 s.state.code ++ u8 s.waiting.toNat ++ optField 1 (s.remembered.map (fun r => u8 r.code))
    ++ flag s.haltHold ++ flag s.abortPending ++ optField 1 (s.parkedPad.map u8) ++ d.timerBytes s.listenTimer
    ++ optField 19 (s.order.map orderField) ++ flag s.heldReport
    ++ u16 s.lastOrder.id ++ optField 1 (s.lastOrder.outcome.map (fun o => u8 o.code))
    ++ optField 1 (s.lastOrder.kind.map (fun k => u8 k.code))

/-- BTL's progress and failure record (R194). DESIGN CHOICE: the two forms of the failure detail share the same two bytes behind one
presence byte, and the failure reason alone tells them apart (log 77). -/
def Dev.bootSummary (d : Dev) : List Byte :=
  let b := d.btl
  u8 b.phase.ctorIdx ++ u16 b.next ++ u16 b.total ++ u8 b.reason.ctorIdx
    ++ optField 2 (b.detail.map (fun x => match x with
      | .block a => u16 a
      | .check k n => u8 k.ctorIdx ++ u8 n))

/-- The last WRITE-BOOT (R192). DESIGN CHOICE: the block address and the end, which are cleared together, have one presence byte
(log 77). -/
def Dev.writeSummary (d : Dev) : List Byte :=
  optField 3 (d.mnp.write.map (fun w => u16 w.block ++ u8 w.ending.ctorIdx))

/-- ODO's position summary (R39), the reset values before it is active (R190); U only while a position is held, and then short of
10,000,000 µm (R25). DESIGN CHOICE: standstill is 1 for true and 0 for false (log 67). -/
def Dev.odoSummary (d : Dev) : List Byte :=
  let o := if d.odo.active then d.odo else Odo.reset
  let p := o.pos
  u8 p.validity.ctorIdx ++ u8 p.sec ++ u8 p.leg.code ++ u32 p.offset ++ optField 1 (p.idx.map u8) ++ u8 p.dir.code
    ++ optField 3 (if o.known then some (u24 p.unc) else none) ++ u32 o.vMeas ++ flag o.standstill ++ u8 o.chA.failed.toNat ++ u8 o.chB.failed.toNat
    ++ flag p.pendingLoss ++ flag o.padPresence ++ u8 o.padCode

/-- CLE's summary record (R87). -/
def Dev.claimSummary (d : Dev) : List Byte :=
  let t := d.cle.table
  u8 d.cle.lossCount ++ ticketField d.currentTicket ++ u32 d.cle.horizon ++ flag d.cle.abortPending
    ++ optField 1 (d.cle.deadlock.map u8)
    ++ u8 (t.countP Claim.isWanted) ++ u8 (t.countP Claim.isBlocked) ++ u8 (t.countP Claim.isContending)
    ++ u8 (t.countP Claim.isHeld)

/-- A binding term's place in R88's list, with the section for LIMIT-CURVE. -/
def Binding.code : Binding → Nat × Option Nat
  | .line => (0, none)
  | .sectionLimit => (1, none)
  | .limitCurve s => (2, some s)
  | .curve => (3, none)
  | .approachCurve => (4, none)
  | .creep => (5, none)
  | .stopped => (6, none)

/-- The authority limit as a route index and an offset, none where it has no route index (R109). -/
def limitField (a : Option AuthLimit) : List Byte :=
  optField 5 (a.bind (fun x => x.idx.map (fun k => u8 k ++ i32Bytes x.offset)))

/-- SUP's summary (R109). -/
def Dev.supSummary (d : Dev) : List Byte :=
  let s := d.sup
  u16 s.vPerm ++ u8 s.binding.code.1 ++ optField 1 (s.binding.code.2.map u8) ++ u32 s.target ++ u32 s.demand
    ++ optField 2 (s.vOrder.map u16) ++ i32Bytes s.dAuth ++ optField 4 (s.dStop.map i32Bytes) ++ i32Bytes s.dist
    ++ limitField s.authLimit ++ u8 s.chainLen
    ++ u16 s.aEff ++ u32 s.rd ++ u32 s.vCurve ++ u32 s.sd ++ u8 s.band.ctorIdx ++ flag s.warnFlag ++ flag s.serviceBand
    ++ flag s.skipped

/-- A latch with its condition, held 0 or gone 1. -/
def Dev.latchField (d : Dev) (l : Latch) : List Byte :=
  flag (d.bdu.latch l) ++ u8 (d.latchGone l).toNat

/-- BDU's summary (R126), the reset values before it is active (R190). DESIGN CHOICE: the release train's output level is 0 for low and 1
for high (log 67). -/
def Dev.bduSummary (d : Dev) : List Byte :=
  let d := if d.bdu.active then d else { d with bdu := Bdu.reset }
  let b := d.bdu
  u16 b.demandHanded ++ u16 b.duty ++ u8 b.dirLine.code ++ flag b.traction ++ flag b.serviceBrake
    ++ flag b.trainRunning ++ flag b.trainLevel ++ flag b.clampDown ++ flag b.clampUp
    ++ flag b.inLocalStop ++ flag b.inDriveReady ++ flag b.inSupplyLow ++ flag b.inClampsDown ++ flag b.inClampsUp
    ++ flag b.srcServiceBand ++ flag b.srcHalted ++ flag b.srcLocalStop ++ flag b.srcDriveNotReady
    ++ d.latchField .safeStop ++ d.latchField .clampsNotUp ++ d.latchField .supplyLow

/-- The last result: NONE, CLAMPED, UNCLAMPED, then the causes of R136 in their order. -/
def DockResult.code : DockResult → Nat
  | .none => 0
  | .clamped => 1
  | .unclamped => 2
  | .failed c => 3 + c.ctorIdx

/-- DKC's summary (R141). -/
def Dev.dockSummary (d : Dev) : List Byte :=
  let k := d.dkc
  u8 k.sub.ctorIdx ++ optField 1 (k.dest.map u8) ++ flag k.anchored ++ u8 k.corrections ++ flag k.motionSeen
    ++ flag k.abortTaken ++ i32Bytes k.stopError ++ optField 4 (k.dStop.map i32Bytes)
    ++ d.timerBytes k.clampTimer ++ d.timerBytes k.corrTimer ++ d.timerBytes k.watchTimer ++ u8 k.last.code

/-- The queued frames of a class. -/
def Lif.inClass (l : Lif) (c : Nat) : Nat :=
  l.queue.countP (fun e => e.kind.txClass == c)

/-- The mailbox full and empty flags (R167). -/
def Dev.mailboxFlags (d : Dev) : List Byte :=
  flag (d.lif.mailbox.length == Config.maxMailbox) ++ flag d.lif.mailbox.isEmpty

/-- LIF's summary (R177). DESIGN CHOICE: while the link test is OFF the testing console and both counts are 0, with no presence byte
(log 67). -/
def Dev.lifSummary (d : Dev) : List Byte :=
  let l := d.lif
  let t := l.test.getD ⟨0, 0, 0, 0⟩
  flag l.active ++ u8 l.tx.ctorIdx ++ u8 l.rx.ctorIdx
    ++ u8 (l.inClass 0) ++ u8 (l.inClass 1) ++ u8 (l.inClass 2) ++ u8 (l.inClass 3)
    ++ flag (l.queue.any (fun e => e.kind == .beacon)) ++ u8 l.mailbox.length ++ d.mailboxFlags
    ++ d.timerBytes l.quietTimer ++ flag l.quiet
    ++ flag l.test.isSome ++ u8 t.console ++ u32 t.bitErrors.toNat ++ u16 t.compared.toNat

/-- An entry of the active-fault set: its class, its mode and the fields of R179 (R188). DESIGN CHOICE: the mode is 0 for latched and 1 for
free-running (log 67). -/
def faultField (e : FaultEntry) : List Byte :=
  u8 e.kind.cls.code ++ u8 e.kind.freeRunning.toNat ++ u8 e.kind.code ++ u8 e.repeats.toNat ++ u8 e.sec ++ u32 e.offset
    ++ flag e.clearBlocked ++ flag e.reported

/-- FCL's summary (R188). -/
def Dev.faultSummaryRecord (d : Dev) : List Byte :=
  flag (d.classActive .warn) ++ flag (d.classActive .halt) ++ flag (d.classActive .safeStop) ++ u8 d.faults.length
    ++ listField faultField d.faults

/-- The status record (R190). -/
def Dev.statusRecord (d : Dev) : List Byte :=
  d.stationSummary ++ d.bootSummary ++ d.writeSummary ++ u8 d.tmp.phase.ctorIdx ++ u32 d.tmp.signature.toNat
    ++ d.odoSummary ++ d.claimSummary ++ d.supSummary ++ d.bduSummary ++ d.dockSummary ++ d.lifSummary
    ++ d.faultSummaryRecord ++ d.mailboxFlags ++ u16 d.mnp.badCommands.toNat

/-! ### Window records (R17, R56, R87) -/

/-- The peer table's summary record (R56). -/
def Dev.peerSummary (d : Dev) : List Byte :=
  let n (p : PeerRec → Bool) : List Byte := u8 (d.peers.countP p)
  n (fun r => r.kind == .carriage) ++ n (fun r => r.kind == .junction) ++ n (fun r => r.kind == .console)
    ++ n (fun r => r.freshness == .fresh) ++ n (fun r => r.freshness == .stale) ++ n (fun r => r.freshness == .lost)
    ++ u8 d.foreignCount ++ n (fun r => r.frozen)

/-- A peer record (R40, R56). DESIGN CHOICE: the age timer is the whole milliseconds since the last frame, rounded down, and the station
state and the fault summary have a presence byte each (log 63). -/
def Dev.peerField (d : Dev) (r : PeerRec) : List Byte :=
  u8 r.station ++ u8 r.kind.ctorIdx ++ u8 r.freshness.ctorIdx ++ timerField (some ((d.now - r.heardAt) / 1000))
    ++ u16 r.framesHeard.toNat ++ u8 r.foreign.toNat ++ optField 4 (r.signature.map (fun s => u32 s.toNat))
    ++ flag r.beaconSeen ++ u8 r.sec ++ u32 r.offset ++ u8 r.dir.code ++ u32 r.speed ++ u32 r.length ++ u32 r.unc
    ++ flag r.restricted ++ flag r.overspeedWarn ++ optField 1 (r.stateByte.map (fun b => [b]))
    ++ optField 1 (r.faultByte.map (fun b => [b])) ++ [r.ticket.toByte] ++ listField u8 r.held
    ++ optField 4 (r.intent.map (fun i => u8 i.sec ++ [i.ticket.toByte] ++ d.timerBytes (some i.timer)))
    ++ optField 2 (r.waiting.map (fun w => u8 w.1 ++ u8 w.2)) ++ flag r.frozen
    ++ listField (fun e => u8 e.sec ++ u8 e.leg.code ++ flag e.locked ++ u8 e.holder) r.points

/-- An entry of the claim table (R57): the conditional fields each with their presence byte. DESIGN CHOICE: the points timer and the
re-request timer, which share a row of R57, have one each (log 63). -/
def Dev.claimField (d : Dev) (c : Claim) : List Byte :=
  let points := d.isPoints c.sec
  let requested := points && c.points == .requested
  let ticket := match c.state with
    | .held _ t | .contending t _ _ => some t
    | .wanted _ | .blocked _ _ _ => none
  u8 c.sec ++ optField 1 (c.idx.map u8) ++ u8 c.state.ctorIdx
    ++ optField 1 (match c.state with
      | .held b _ => some (u8 b.ctorIdx)
      | .wanted _ | .blocked _ _ _ | .contending _ _ _ => none)
    ++ optField 2 (ticket.map ticketField)
    ++ optField 2 (match c.state with
      | .blocked p b _ => some (u8 p ++ u8 b.ctorIdx)
      | .wanted _ | .contending _ _ _ | .held _ _ => none)
    ++ optField 2 (match c.state with
      | .blocked _ _ t => some (d.timerBytes t)
      | .wanted _ | .contending _ _ _ | .held _ _ => none)
    ++ optField 2 (match c.state with
      | .contending _ _ t => some (d.timerBytes t)
      | .wanted _ | .blocked _ _ _ | .held _ _ => none)
    ++ optField 1 (c.legNeeded.map (fun l => u8 l.code))
    ++ optField 1 (if points then some (u8 c.points.ctorIdx) else none)
    ++ optField 2 (if requested then some (d.timerBytes c.pointsTimer) else none)
    ++ optField 2 (if requested then some (d.timerBytes c.rerequestTimer) else none)

/-- The route table's index 0: the route count, 0 with no order current, and the pad and priority, absent then (R87). -/
def Dev.routeSummary (d : Dev) : List Byte :=
  u8 ((d.cle.view.map (fun v => v.route.entries.length)).getD 0)
    ++ optField 1 (d.cle.view.map (fun v => u8 v.pad)) ++ optField 1 (d.cle.view.map (fun v => u8 v.priority))

/-- The plan record (R17). DESIGN CHOICE: while TMP is LOADING the signature and the parameters, which the lock sets, show as 0
(log 61). -/
def Dev.planRecord (d : Dev) : List Byte :=
  let p := d.tmp.plan
  let c := d.tmp.carriage
  u32 d.tmp.signature.toNat ++ u8 d.tmp.sections.length ++ u8 d.tmp.pads.length
    ++ u16 ((d.tmp.sections.map (fun s => s.markers.length)).foldl (· + ·) 0)
    ++ [p.beaconPeriod, p.claimWindow, p.lostTime, p.quietTime, p.clearance, p.horizonExtra, p.lineMax, p.class0, p.class1,
      p.class2, p.class3, p.lockTimeout].flatMap u16
    ++ u8 c.station ++ u16 c.length ++ u16 c.pitchA ++ u16 c.pitchB ++ u8 c.growth ++ u8 c.markerTol ++ u8 c.padTol
    ++ u8 c.dockTol ++ u16 c.serviceDecel ++ u16 c.reaction ++ u16 c.margin ++ u16 c.accel ++ u8 c.creep ++ u16 c.approach
    ++ u8 c.overspeed ++ u16 c.slipThreshold ++ u16 c.clampTimeout ++ u16 c.locateUnc ++ u8 d.tmp.phase.ctorIdx

/-- A neighbour: section and end code. DESIGN CHOICE: BUFFER is section 0 and end 0, with no presence byte (log 67). -/
def neighbourField (n : Option (Nat × TrackEnd)) : List Byte :=
  match n with
  | some (s, e) => u8 s ++ u8 e.code
  | none => u8 0 ++ u8 0

/-- A marker of a section record: the leg is absent on a plain section (R3, R10). -/
def markerField (m : Marker) : List Byte :=
  u24 m.offset ++ optField 1 (if m.leg == .plain then none else some (u8 m.leg.code))

/-- A section record (R3). DESIGN CHOICE: the straight length and the diverge length, which share a row of R3, have a presence byte
each (log 63). -/
def sectionField (s : SectionRec) : List Byte :=
  let points := s.kind == .points
  let forPoints (b : List Byte) : Option (List Byte) := if points then some b else none
  u8 s.number ++ u8 s.kind.ctorIdx ++ optField 3 (if points then none else some (u24 s.length))
    ++ optField 3 (forPoints (u24 s.length)) ++ optField 3 (forPoints (u24 s.diverge))
    ++ neighbourField s.nbrA ++ neighbourField s.nbrB ++ optField 2 (forPoints (neighbourField s.nbrC))
    ++ u16 s.speedLimit ++ [BitVec.ofInt 8 s.grade] ++ optField 1 (forPoints (u8 s.junction))
    ++ listField markerField s.markers

/-- A pad record (R5). -/
def padField (p : PadRec) : List Byte :=
  u8 p.number ++ u8 p.sec ++ u8 p.leg.code ++ u24 p.offset

/-- The records of a table, index 0 first (R17, R56, R87). -/
def Dev.windowRecords (d : Dev) : WindowTable → List (List Byte)
  | .peer => d.peerSummary :: d.peers.map d.peerField
  | .claim => d.claimSummary :: d.cle.table.map d.claimField
  | .route => d.routeSummary :: ((d.cle.view.map (fun v => v.route.entries.map routeEntryField)).getD [])
  | .map => d.planRecord :: (d.tmp.sections.map sectionField ++ d.tmp.pads.map padField)

/-! ### Commands of the port (R189 to R192) -/

/-- The result bytes (R189). -/
inductive PortResult where
  | ok
  | locked
  | busy
  | badCommand
  | range
  deriving DecidableEq, Repr

/-- What the port shifts out: the result byte, then the response. A READ-COUNTERS whose transaction was not completed is
forgotten, since its transaction has ended (R190). -/
def Dev.respond (d : Dev) (r : PortResult) (response : List Byte) : Dev :=
  { d with mnp := { d.mnp with output := u8 r.ctorIdx ++ response, reported := none } }

/-- A BAD-COMMAND result, counted (R189). -/
def Dev.badCommand (d : Dev) : Dev :=
  ({ d with mnp := { d.mnp with badCommands := satInc d.mnp.badCommands } }).respond .badCommand []

/-- READ-STATUS (R190). -/
def Dev.readStatus (d : Dev) : Dev :=
  d.respond .ok d.statusRecord

/-- READ-IDENT (R189). -/
def Dev.readIdent (d : Dev) : Dev :=
  d.respond .ok [0x41, 0x1A, 0x03]

/-- READ-COUNTERS: the values reported are kept until the transaction ends (R190). -/
def Dev.readCounters (d : Dev) : Dev :=
  let d' := d.respond .ok (d.counters.flatMap (fun c => u16 c.toNat))
  { d' with mnp := { d'.mnp with reported := some d.counters } }

/-- A counter reduced by what was reported for it, not below 0 (R190). -/
def reduced (now reported : BitVec 16) : BitVec 16 :=
  BitVec.ofNat 16 (now.toNat - reported.toNat)

/-- The transaction of a READ-COUNTERS ends with the whole response shifted out (R190). -/
def Dev.readCountersComplete (d : Dev) : Dev :=
  match d.mnp.reported with
  | some vs =>
    { d with
      counters := d.counters.zipWith reduced vs
      mnp := { d.mnp with reported := none } }
  | none => d

/-- A table of a code (R191). -/
def WindowTable.ofCode : Nat → Option WindowTable
  | 0 => some .peer
  | 1 => some .claim
  | 2 => some .route
  | 3 => some .map
  | _ => none

/-- SET-WINDOW (R191). -/
def Dev.setWindow (d : Dev) (table : Byte) (index : BitVec 16) (auto : Byte) : Dev :=
  match WindowTable.ofCode table.toNat, decide (auto.toNat ≤ 1) with
  | some t, true =>
    ({ d with mnp := { d.mnp with table := t, index := index.toNat, auto := auto == 1 } }).respond .ok []
  | _, _ => d.badCommand

/-- READ-WINDOW (R191). -/
def Dev.readWindow (d : Dev) : Dev :=
  let t := d.mnp.table
  let head := u8 t.ctorIdx ++ u16 d.mnp.index
  match (d.windowRecords t)[d.mnp.index]? with
  | some r =>
    let d := d.respond .ok (head ++ u8 r.length ++ r)
    if d.mnp.auto then { d with mnp := { d.mnp with index := d.mnp.index + 1 } } else d
  | none => d.respond .ok (head ++ u8 0)

/-- A write is in progress. -/
def Mnp.writing (m : Mnp) : Bool :=
  m.write.any (fun w => w.ending == .inProgress)

/-- WRITE-BOOT (R192). -/
def Dev.writeBoot (d : Dev) (block : BitVec 16) (data : List Byte) : Dev :=
  if d.stc.state != .bootHold then d.respond .locked []
  else if d.mnp.writing then d.respond .busy []
  else if 511 < block.toNat then d.respond .range []
  else
    ({ d with mnp := { d.mnp with
        write := some { block := block.toNat, ending := .inProgress, data := data }
        writeTimer := d.timerMs Config.bootWriteMs } }).respond .ok []

/-- A write in progress ends (R192). -/
def Dev.endWrite (d : Dev) (x : WriteEnd) : Dev :=
  if d.mnp.writing then
    { d with mnp := { d.mnp with
        write := d.mnp.write.map (fun (w : BootWrite) => { w with ending := x, data := [] }), writeTimer := none } }
  else d

/-- The block written is read back (R192). -/
def Dev.writeReadback (d : Dev) (data : List Byte) : Dev :=
  d.endWrite (if d.mnp.write.any (fun w => w.data == data) then .done else .mismatch)

end Sys2Proof.Machine
end

