-- ==== Sys2Proof/Machine/Startup.lean ====
section
/-! DEFINITION. The meanings of the commands that reset and start the part, of the sensors' and inputs' events, and of the
timers' expiries. A command whose timer has not run out, or whose block is not active yet, has no effect (log 3). -/

namespace Sys2Proof.Machine

/-- The outcome of every meaning: the part changed, the queue of commands as it stands. -/
def State.becomes (s : State) (d : Dev) : Host.Outcome State Fault Refusal :=
  .next { s with dev := d }

/-! ### Reset and start-up (R193, R194) -/

/-- RESET (R193). The index of the next free value is no state of the part and goes on, so that a choice after a reset is tied to
none before it (log 40). -/
def execReset (bootHold : Bool) (s : State) : Host.Outcome State Fault Refusal :=
  s.becomes { Dev.afterReset bootHold with freeCount := s.dev.freeCount }

/-- BOOT_BLOCK_READ (R194). -/
def execBootBlockRead (data : List Byte) (s : State) : Host.Outcome State Fault Refusal :=
  s.becomes (s.dev.bootBlock data)

/-- BLOCK_TIMER_EXPIRY (R194). -/
def execBlockTimerExpiry (s : State) : Host.Outcome State Fault Refusal :=
  s.becomes s.dev.blockTimeout

/-- LISTEN_TIMER_EXPIRY (R143). -/
def execListenTimerExpiry (s : State) : Host.Outcome State Fault Refusal :=
  s.becomes s.dev.listenExpiry

/-! ### Sensors (R18, R20, R29, R34) -/

/-- TACH_TRANSITION (R18, R19). -/
def execTachTransition (ch : Channel) (p q : Bool) (s : State) : Host.Outcome State Fault Refusal :=
  s.becomes (s.dev.tach ch p q)

/-- ODOMETRY_SAMPLE (R20). -/
def execOdometrySample (s : State) : Host.Outcome State Fault Refusal :=
  s.becomes s.dev.sample

/-- MARKER_EDGE (R29). -/
def execMarkerEdge (side : ReaderSide) (s : State) : Host.Outcome State Fault Refusal :=
  s.becomes (s.dev.markerEdge side)

/-- The pad reader's lines change: the levels are kept, and the edge at which presence becomes active is a pad edge
(R34, log 6). -/
def Dev.padLinesChange (d : Dev) (presence : Bool) (lines : BitVec 7) : Dev :=
  let edge := presence && !d.odo.padPresence
  let d := { d with odo := { d.odo with padPresence := presence, padLines := lines } }
  if edge then d.padEdge lines else d

/-- PAD_EDGE (R34). -/
def execPadEdge (presence : Bool) (lines : BitVec 7) (s : State) : Host.Outcome State Fault Refusal :=
  s.becomes (s.dev.padLinesChange presence lines)

/-! ### Inputs of the Brake and Drive Unit (R115, R117, R139, R187) -/

/-- LOCAL_STOP_CHANGE (R117). -/
def execLocalStopChange (active : Bool) (s : State) : Host.Outcome State Fault Refusal :=
  s.becomes (s.dev.localStopChange active)

/-- DRIVE_READY_CHANGE (R117). -/
def execDriveReadyChange (active : Bool) (s : State) : Host.Outcome State Fault Refusal :=
  s.becomes (s.dev.driveReadyChange active)

/-- SUPPLY_MONITOR_CHANGE (R120, R187). -/
def execSupplyMonitorChange (active : Bool) (s : State) : Host.Outcome State Fault Refusal :=
  s.becomes (s.dev.supplyChange active)

/-- CLAMP_SENSOR_CHANGE (R119, R137 to R139). -/
def execClampSensorChange (sensor : ClampSensor) (active : Bool) (s : State) : Host.Outcome State Fault Refusal :=
  s.becomes (s.dev.clampSensor sensor active)

/-! ### Timers of the claim table, the supervision and the docking -/

/-- WINDOW_EXPIRY (R70). -/
def execWindowExpiry (s : State) : Host.Outcome State Fault Refusal :=
  s.becomes s.dev.windowExpiry

/-- CLAIM_BACKOFF_EXPIRY (R71). -/
def execClaimBackoffExpiry (s : State) : Host.Outcome State Fault Refusal :=
  s.becomes s.dev.backoffExpiry

/-- POINTS_TIMER_EXPIRY (R82). -/
def execPointsTimerExpiry (sec : Nat) (s : State) : Host.Outcome State Fault Refusal :=
  s.becomes (s.dev.pointsTimeout sec)

/-- REREQUEST_TIMER_EXPIRY (R82). -/
def execRerequestTimerExpiry (sec : Nat) (s : State) : Host.Outcome State Fault Refusal :=
  s.becomes (s.dev.rerequest sec)

/-- SUPERVISION_EVALUATION (R89). -/
def execSupervisionEvaluation (s : State) : Host.Outcome State Fault Refusal :=
  s.becomes (s.dev.whileDue s.dev.sup.evalTimer Dev.supervise)

/-- TRAIN_WATCH_EXPIRY (R124). -/
def execTrainWatchExpiry (s : State) : Host.Outcome State Fault Refusal :=
  s.becomes s.dev.trainWatchExpiry

/-- CLAMP_TIMER_EXPIRY (R137, R138). -/
def execClampTimerExpiry (s : State) : Host.Outcome State Fault Refusal :=
  s.becomes (s.dev.whileDue s.dev.dkc.clampTimer Dev.clampTimeout)

/-- CORRECTION_WATCH_EXPIRY (R136). -/
def execCorrectionWatchExpiry (s : State) : Host.Outcome State Fault Refusal :=
  s.becomes (s.dev.whileDue s.dev.dkc.corrTimer Dev.correctionTimeout)

/-- CLAMP_WATCH_EXPIRY (R139). -/
def execClampWatchExpiry (s : State) : Host.Outcome State Fault Refusal :=
  s.becomes (s.dev.whileDue s.dev.dkc.watchTimer Dev.clampWatchTimeout)

end Sys2Proof.Machine
end

