-- ==== Sys2Proof/Machine/Port.lean ====
section
/-! DEFINITION. The meanings of the maintenance port's commands (R189 to R192). -/

namespace Sys2Proof.Machine

/-- The command that a transaction's bytes from the part's select to its rise spell: by its code, once its arguments are complete, and
BAD-COMMAND for an unknown code or a select that rises before (R189). DESIGN CHOICE: a transaction with no byte clocked in is BAD-COMMAND
too (log 72). -/
def portCommand : List Byte → Instr
  | [] => .badCommand
  | code :: args =>
    match code.toNat, args with
    | 1, _ => .readStatus
    | 2, _ => .readIdent
    | 3, _ => .readCounters
    | 4, t :: i :: j :: a :: _ => .setWindow t (BitVec.ofNat 16 (beValue [i, j])) a
    | 5, _ => .readWindow
    | 6, i :: j :: data =>
      if 32 ≤ data.length then .writeBoot (BitVec.ofNat 16 (beValue [i, j])) (data.take 32) else .badCommand
    | _, _ => .badCommand

/-- The commands of one transaction, in which `out` bytes are shifted out: a READ-COUNTERS whose whole response has gone out is
completed (R190). -/
def portTransaction (bytes : List Byte) (out : Nat) : List Instr :=
  let c := portCommand bytes
  if c = .readCounters && decide (1 + 2 * Counter.count ≤ out) then [c, .readCountersComplete] else [c]

/-- The first `n` bytes that the port shifts out: the result byte, the response, and zeros after it (R189). -/
def Dev.shiftedOut (d : Dev) (n : Nat) : List Byte :=
  (d.mnp.output ++ List.replicate n 0).take n

/-- READ_STATUS (R190). -/
def execReadStatus (s : State) : Host.Outcome State Fault Refusal :=
  s.becomes s.dev.readStatus

/-- READ_IDENT (R190). -/
def execReadIdent (s : State) : Host.Outcome State Fault Refusal :=
  s.becomes s.dev.readIdent

/-- READ_COUNTERS (R190). -/
def execReadCounters (s : State) : Host.Outcome State Fault Refusal :=
  s.becomes s.dev.readCounters

/-- READ_COUNTERS_COMPLETE (R190). -/
def execReadCountersComplete (s : State) : Host.Outcome State Fault Refusal :=
  s.becomes s.dev.readCountersComplete

/-- SET_WINDOW (R191). -/
def execSetWindow (table : Byte) (index : BitVec 16) (auto : Byte) (s : State) : Host.Outcome State Fault Refusal :=
  s.becomes (s.dev.setWindow table index auto)

/-- READ_WINDOW (R191). -/
def execReadWindow (s : State) : Host.Outcome State Fault Refusal :=
  s.becomes s.dev.readWindow

/-- WRITE_BOOT (R192). -/
def execWriteBoot (block : BitVec 16) (data : List Byte) (s : State) : Host.Outcome State Fault Refusal :=
  s.becomes (s.dev.writeBoot block data)

/-- BOOT_WRITE_READBACK (R192). -/
def execBootWriteReadback (data : List Byte) (s : State) : Host.Outcome State Fault Refusal :=
  s.becomes (s.dev.writeReadback data)

/-- BOOT_WRITE_TIMEOUT (R192). -/
def execBootWriteTimeout (s : State) : Host.Outcome State Fault Refusal :=
  s.becomes (s.dev.whileDue s.dev.mnp.writeTimer (fun d => d.endWrite .noResponse))

/-- BAD_COMMAND (R189). -/
def execBadCommand (s : State) : Host.Outcome State Fault Refusal :=
  s.becomes s.dev.badCommand

end Sys2Proof.Machine
end

