-- ==== Sys2Proof/Machine/Trackside.lean ====
section
/-! DEFINITION. The meanings of the trackside line's commands: receiving and sending, the frames dispatched from the mailbox, and
the timers of the line and of the peer records. A dispatch command whose kind is not that of the mailbox's head has no effect
(log 4). -/

namespace Sys2Proof.Machine

/-! ### Receiving (R166) -/

/-- FRAME_RECEIVE (R166). -/
def execFrameReceive (bytes : List Byte) (s : State) : Host.Outcome State Fault Refusal :=
  s.becomes (s.dev.frameReceive bytes)

/-- FRAME_ABANDONED (R166): the three causes act alike. -/
def execFrameAbandoned (_cause : AbandonCause) (s : State) : Host.Outcome State Fault Refusal :=
  s.becomes s.dev.frameAbandoned

/-- LINE_IDLE (R166). -/
def execLineIdle (s : State) : Host.Outcome State Fault Refusal :=
  s.becomes s.dev.lineIdle

/-! ### Frames of the peers (R43 to R48) -/

/-- BEACON (R43). -/
def execBeacon (s : State) : Host.Outcome State Fault Refusal :=
  s.becomes (s.dev.dispatch (Frame.isKind .beacon) Dev.takeBeacon)

/-- TAKEN (R44). -/
def execTaken (s : State) : Host.Outcome State Fault Refusal :=
  s.becomes (s.dev.dispatch (Frame.isKind .taken) Dev.takeTaken)

/-- RELEASE (R45). -/
def execRelease (s : State) : Host.Outcome State Fault Refusal :=
  s.becomes (s.dev.dispatch (Frame.isKind .release) Dev.takeRelease)

/-- INTENT (R46). -/
def execIntent (s : State) : Host.Outcome State Fault Refusal :=
  s.becomes (s.dev.dispatch (Frame.isKind .intent) Dev.takeIntent)

/-- OBJECT (R47). -/
def execObject (s : State) : Host.Outcome State Fault Refusal :=
  s.becomes (s.dev.dispatch (Frame.isKind .object) Dev.takeObject)

/-- POINTS_STATE (R48). -/
def execPointsState (s : State) : Host.Outcome State Fault Refusal :=
  s.becomes (s.dev.dispatch (Frame.isKind .pointsState) Dev.takePointsState)

/-- PEER_REPORT_FRAME (R47). -/
def execPeerReportFrame (s : State) : Host.Outcome State Fault Refusal :=
  s.becomes (s.dev.dispatch Frame.isPeerReport Dev.takePeerReport)

/-- PEER_STALE (R50). -/
def execPeerStale (station : Nat) (s : State) : Host.Outcome State Fault Refusal :=
  s.becomes (s.dev.peerStale station)

/-- PEER_LOST (R51). -/
def execPeerLost (station : Nat) (s : State) : Host.Outcome State Fault Refusal :=
  s.becomes (s.dev.peerLost station)

/-- PEER_INTENT_EXPIRY (R46). -/
def execPeerIntentExpiry (station : Nat) (s : State) : Host.Outcome State Fault Refusal :=
  s.becomes (s.dev.peerIntentExpiry station)

/-! ### Frames of the consoles (R52, R122, R147 to R157, R176) -/

/-- MOVE_ORDER (R147, R148). -/
def execMoveOrder (s : State) : Host.Outcome State Fault Refusal :=
  s.becomes (s.dev.dispatch (Frame.isKind .moveOrder) Dev.takeMoveOrder)

/-- HALT (R153). -/
def execHalt (s : State) : Host.Outcome State Fault Refusal :=
  s.becomes (s.dev.dispatch (Frame.isKind .halt) (fun d f => d.fromConsole f Dev.consoleHalt))

/-- RESUME (R155). -/
def execResume (s : State) : Host.Outcome State Fault Refusal :=
  s.becomes (s.dev.dispatch (Frame.isKind .resume) (fun d f => d.fromConsole f (fun d => d.resume f.toAll f.src)))

/-- ABORT (R156). -/
def execAbort (s : State) : Host.Outcome State Fault Refusal :=
  s.becomes (s.dev.dispatch (Frame.isKind .abort) (fun d f => d.fromConsole f (fun d => d.abort f.toAll f.src)))

/-- LOCATE (R37, R157). -/
def execLocate (s : State) : Host.Outcome State Fault Refusal :=
  s.becomes (s.dev.dispatch (Frame.isKind .locate) Dev.takeLocate)

/-- FREE_STATION (R52). -/
def execFreeStation (s : State) : Host.Outcome State Fault Refusal :=
  s.becomes (s.dev.dispatch (Frame.isKind .freeStation)
    (fun d f => d.fromConsole f (fun d => d.freeStation (byteAt f.payload 0))))

/-- CLEAR_FAULTS (R122, R123, R159, R182). -/
def execClearFaults (s : State) : Host.Outcome State Fault Refusal :=
  s.becomes (s.dev.dispatch (Frame.isKind .clearFaults) (fun d f => d.fromConsole f Dev.clearFaults))

/-- LINK_TEST_START (R176). -/
def execLinkTestStart (s : State) : Host.Outcome State Fault Refusal :=
  s.becomes (s.dev.dispatch (Frame.isTest 1) (fun d f => d.fromConsole f (fun d => d.testStart f)))

/-- LINK_TEST_DATA (R176). -/
def execLinkTestData (s : State) : Host.Outcome State Fault Refusal :=
  s.becomes (s.dev.dispatch (Frame.isTest 2) (fun d f => d.fromConsole f (fun d => d.testData f)))

/-- LINK_TEST_STOP (R176). -/
def execLinkTestStop (s : State) : Host.Outcome State Fault Refusal :=
  s.becomes (s.dev.dispatch (Frame.isTest 3) (fun d f => d.fromConsole f (fun d => d.testStop f)))

/-! ### Sending (R163, R164, R174, R175) -/

/-- TRANSMIT_START (R163). -/
def execTransmitStart (s : State) : Host.Outcome State Fault Refusal :=
  s.becomes s.dev.transmitStart

/-- COLLISION (R163). -/
def execCollision (s : State) : Host.Outcome State Fault Refusal :=
  s.becomes s.dev.collision

/-- FRAME_SENT (R163). -/
def execFrameSent (s : State) : Host.Outcome State Fault Refusal :=
  s.becomes s.dev.frameSent

/-- BACKOFF_EXPIRY (R163). -/
def execBackoffExpiry (s : State) : Host.Outcome State Fault Refusal :=
  s.becomes s.dev.txBackoffExpiry

/-- BEACON_TIMER_EXPIRY (R174). -/
def execBeaconTimerExpiry (s : State) : Host.Outcome State Fault Refusal :=
  s.becomes s.dev.beaconTimerExpiry

/-- LINE_QUIET_EXPIRY (R175). -/
def execLineQuietExpiry (s : State) : Host.Outcome State Fault Refusal :=
  s.becomes s.dev.lineQuietExpiry

end Sys2Proof.Machine
end

