-- ==== Sys2Proof/Machine/Dispatch.lean ====
section
/-! DEFINITION. The dispatch: one arm for each command of spec/opcode_table.json, in the table's order. -/

namespace Sys2Proof.Machine

/-- What a command does to everything but the queue of commands. -/
def exec (i : Instr) (s : State) : Host.Outcome State Fault Refusal :=
  match i with
  | .reset bootHold => Sys2Proof.Machine.execReset bootHold s
  | .bootBlockRead data => Sys2Proof.Machine.execBootBlockRead data s
  | .blockTimerExpiry => Sys2Proof.Machine.execBlockTimerExpiry s
  | .tachTransition ch p q => Sys2Proof.Machine.execTachTransition ch p q s
  | .odometrySample => Sys2Proof.Machine.execOdometrySample s
  | .markerEdge side => Sys2Proof.Machine.execMarkerEdge side s
  | .padEdge presence lines => Sys2Proof.Machine.execPadEdge presence lines s
  | .frameReceive bytes => Sys2Proof.Machine.execFrameReceive bytes s
  | .frameAbandoned cause => Sys2Proof.Machine.execFrameAbandoned cause s
  | .beacon => Sys2Proof.Machine.execBeacon s
  | .taken => Sys2Proof.Machine.execTaken s
  | .release => Sys2Proof.Machine.execRelease s
  | .intent => Sys2Proof.Machine.execIntent s
  | .object => Sys2Proof.Machine.execObject s
  | .pointsState => Sys2Proof.Machine.execPointsState s
  | .peerReportFrame => Sys2Proof.Machine.execPeerReportFrame s
  | .peerStale station => Sys2Proof.Machine.execPeerStale station s
  | .peerLost station => Sys2Proof.Machine.execPeerLost station s
  | .peerIntentExpiry station => Sys2Proof.Machine.execPeerIntentExpiry station s
  | .moveOrder => Sys2Proof.Machine.execMoveOrder s
  | .halt => Sys2Proof.Machine.execHalt s
  | .resume => Sys2Proof.Machine.execResume s
  | .abort => Sys2Proof.Machine.execAbort s
  | .locate => Sys2Proof.Machine.execLocate s
  | .freeStation => Sys2Proof.Machine.execFreeStation s
  | .clearFaults => Sys2Proof.Machine.execClearFaults s
  | .linkTestStart => Sys2Proof.Machine.execLinkTestStart s
  | .linkTestData => Sys2Proof.Machine.execLinkTestData s
  | .linkTestStop => Sys2Proof.Machine.execLinkTestStop s
  | .transmitStart => Sys2Proof.Machine.execTransmitStart s
  | .collision => Sys2Proof.Machine.execCollision s
  | .frameSent => Sys2Proof.Machine.execFrameSent s
  | .backoffExpiry => Sys2Proof.Machine.execBackoffExpiry s
  | .beaconTimerExpiry => Sys2Proof.Machine.execBeaconTimerExpiry s
  | .lineQuietExpiry => Sys2Proof.Machine.execLineQuietExpiry s
  | .windowExpiry => Sys2Proof.Machine.execWindowExpiry s
  | .claimBackoffExpiry => Sys2Proof.Machine.execClaimBackoffExpiry s
  | .pointsTimerExpiry sec => Sys2Proof.Machine.execPointsTimerExpiry sec s
  | .rerequestTimerExpiry sec => Sys2Proof.Machine.execRerequestTimerExpiry sec s
  | .supervisionEvaluation => Sys2Proof.Machine.execSupervisionEvaluation s
  | .trainWatchExpiry => Sys2Proof.Machine.execTrainWatchExpiry s
  | .localStopChange active => Sys2Proof.Machine.execLocalStopChange active s
  | .driveReadyChange active => Sys2Proof.Machine.execDriveReadyChange active s
  | .supplyMonitorChange active => Sys2Proof.Machine.execSupplyMonitorChange active s
  | .clampSensorChange sensor active => Sys2Proof.Machine.execClampSensorChange sensor active s
  | .clampTimerExpiry => Sys2Proof.Machine.execClampTimerExpiry s
  | .correctionWatchExpiry => Sys2Proof.Machine.execCorrectionWatchExpiry s
  | .clampWatchExpiry => Sys2Proof.Machine.execClampWatchExpiry s
  | .listenTimerExpiry => Sys2Proof.Machine.execListenTimerExpiry s
  | .readStatus => Sys2Proof.Machine.execReadStatus s
  | .readIdent => Sys2Proof.Machine.execReadIdent s
  | .readCounters => Sys2Proof.Machine.execReadCounters s
  | .readCountersComplete => Sys2Proof.Machine.execReadCountersComplete s
  | .setWindow table index auto => Sys2Proof.Machine.execSetWindow table index auto s
  | .readWindow => Sys2Proof.Machine.execReadWindow s
  | .writeBoot block data => Sys2Proof.Machine.execWriteBoot block data s
  | .bootWriteReadback data => Sys2Proof.Machine.execBootWriteReadback data s
  | .bootWriteTimeout => Sys2Proof.Machine.execBootWriteTimeout s
  | .badCommand => Sys2Proof.Machine.execBadCommand s
  | .lineIdle => Sys2Proof.Machine.execLineIdle s

end Sys2Proof.Machine
end

