-- ==== Sys2Proof/Machine/Clock.lean ====
section
/-! DEFINITION. The passage of time (R1, log 2): one microsecond, and the commands of the timers that have expired by then. -/

namespace Sys2Proof.Machine

/-- The command of a timer that has expired. -/
def Dev.dueCommand (d : Dev) (t : Timer) (i : Instr) : List Instr :=
  if d.due t then [i] else []

/-- The timers of the peer records (R46, R50, R51). -/
def Dev.dueOfPeer (d : Dev) (r : PeerRec) : List Instr :=
  d.dueCommand r.intentTimer (.peerIntentExpiry r.station)
    ++ d.dueCommand (d.staleTimer r) (.peerStale r.station)
    ++ d.dueCommand (d.lostTimer r) (.peerLost r.station)

/-- The window of the CONTENDING entry (R67, R70). -/
def Cle.windowTimer (c : Cle) : Timer :=
  match (c.table.find? Claim.isContending).map Claim.state with
  | some (.contending _ _ t) => t
  | some (.wanted _) | some (.blocked _ _ _) | some (.held _ _) | none => none

/-- The backoff of the front entry (R68, R71). -/
def Cle.backoffTimer (c : Cle) : Timer :=
  match c.frontState with
  | some (.blocked _ _ t) => t
  | some (.wanted _) | some (.contending _ _ _) | some (.held _ _) | none => none

/-- The timers of a claim table's entry (R82). -/
def Dev.dueOfClaim (d : Dev) (c : Claim) : List Instr :=
  d.dueCommand c.pointsTimer (.pointsTimerExpiry c.sec) ++ d.dueCommand c.rerequestTimer (.rerequestTimerExpiry c.sec)

/-- The commands of every timer that has expired, in the order of the model (log 2). -/
def Dev.dueCommands (d : Dev) : List Instr :=
  d.dueCommand d.btl.blockTimer .blockTimerExpiry
    ++ d.dueCommand d.odo.sampleTimer .odometrySample
    ++ d.dueCommand d.sup.evalTimer .supervisionEvaluation
    ++ d.dueCommand d.bdu.trainTimer .trainWatchExpiry
    ++ d.dueCommand d.dkc.clampTimer .clampTimerExpiry
    ++ d.dueCommand d.dkc.corrTimer .correctionWatchExpiry
    ++ d.dueCommand d.dkc.watchTimer .clampWatchExpiry
    ++ d.dueCommand d.stc.listenTimer .listenTimerExpiry
    ++ d.dueCommand d.lif.backoffTimer .backoffExpiry
    ++ d.dueCommand d.lif.beaconTimer .beaconTimerExpiry
    ++ d.dueCommand d.lif.quietTimer .lineQuietExpiry
    ++ d.dueCommand d.cle.windowTimer .windowExpiry
    ++ d.dueCommand d.cle.backoffTimer .claimBackoffExpiry
    ++ d.cle.table.flatMap d.dueOfClaim
    ++ d.peers.flatMap d.dueOfPeer
    ++ d.dueCommand d.mnp.writeTimer .bootWriteTimeout

/-- One microsecond passes with no command waiting. -/
def State.tick (s : State) : State :=
  let d := { s.dev with now := s.dev.now + 1 }
  { dev := d, pending := d.dueCommands }

end Sys2Proof.Machine
end

