-- ==== Sys2Proof/Safety.lean ====
section
/-! DEFINITION. What a safe part keeps at every step: the limits and orders of its lists (R57, R58, R61, R167, R173, R179, R40), the
outputs that follow the brake sources (R111, R113, R114, R121, R125), the direction line (R112), and a demand within the permitted
speed (R103); and the words of the statements. -/

namespace Sys2Proof.Machine

/-- The transmit queue holds at most 8 frames in the order of their classes, of which at most one is a BEACON (R173). -/
abbrev queueOk (q : List TxEntry) : Prop :=
  q.length ≤ Config.maxQueue ∧ q.countP (fun e => e.kind == .beacon) ≤ 1 ∧ (q.map (·.kind.txClass)).Pairwise (· ≤ ·)

/-- The transmit queue and the receive mailbox keep their limits (R167, R173). -/
abbrev Dev.lineOk (d : Dev) : Prop :=
  queueOk d.lif.queue ∧ d.lif.mailbox.length ≤ Config.maxMailbox

/-- An entry is CONTENDING or BLOCKED. -/
def Claim.tried (c : Claim) : Bool :=
  c.isContending || c.isBlocked

/-- The claim table holds at most 8 entries and no section twice, the loss count lies in 0..15 (R57, R61), the entries with no route
index stand first and the route entries follow in ascending route index, an entry that is not HELD is a route entry, and an entry
that is CONTENDING or BLOCKED is the front entry (R58). -/
abbrev Cle.ok (c : Cle) : Prop :=
  c.table.length ≤ Config.maxClaims ∧ (c.table.map (·.sec)).Nodup ∧ c.lossCount ≤ 15
    ∧ (c.table.map Claim.orderKey).Pairwise (· ≤ ·)
    ∧ (∀ e ∈ c.table, e.isHeld = false → e.idx.isSome = true)
    ∧ (∀ e ∈ c.table, e.tried = true → c.front = some e)

/-- The claim table of the part keeps its limits and its order (R57, R58, R61). -/
abbrev Dev.claimsOk (d : Dev) : Prop :=
  d.cle.ok

/-- The active-fault set has at most one entry for each kind, in ascending kind code (R179). -/
abbrev faultsAscend (l : List FaultEntry) : Prop :=
  (l.map (·.kind.code)).Pairwise (· < ·)

/-- The active-fault set of the part is in order (R179). -/
abbrev Dev.faultsOk (d : Dev) : Prop :=
  faultsAscend d.faults

/-- The peer records stand in ascending station number, one for each station (R40). -/
abbrev Dev.peersOk (d : Dev) : Prop :=
  (d.peers.map (·.station)).Pairwise (· < ·)

/-- The outputs follow the sources: traction is on exactly while nothing holds or forces it off (R113), the service brake is on
exactly while something holds it on (R114), the duty is 0 while something forces it (R111), the two clamp commands are never both
active (R125), and while a latch is set the release train is STOPPED with its output low and its timer stopped (R121, R124). -/
abbrev Dev.outputsOk (d : Dev) : Prop :=
  d.bdu.traction = !(d.outputsHeld || d.bdu.forced)
    ∧ d.bdu.serviceBrake = (d.outputsHeld || d.bdu.sourced || d.bdu.latched)
    ∧ ((d.outputsHeld || d.bdu.forced) = true → d.bdu.duty = 0)
    ∧ (d.bdu.clampDown && d.bdu.clampUp) = false
    ∧ (d.bdu.latched = true → d.bdu.trainRunning = false ∧ d.bdu.trainLevel = false ∧ d.bdu.trainTimer = none)

/-- The direction line stands at the direction of travel of the record (R112, log 7). -/
abbrev Dev.lineFollows (d : Dev) : Prop :=
  d.bdu.dirLine = d.odo.pos.dir

/-- The speed demand does not exceed the permitted speed (R103). -/
abbrev Sup.demandOk (s : Sup) : Prop :=
  s.demand ≤ s.vPerm

/-- The demand of the part is within its permitted speed (R103). -/
abbrev Dev.demandOk (d : Dev) : Prop :=
  d.sup.demandOk

/-! ### The words of the statements about dispatched frames -/

/-- The part after the mailbox's head has been dispatched and has passed the source check and intake: its sender's record updated,
or made, and the Claim Engine told of a peer heard again (R41, R42, R167). -/
def Dev.takenIn (d : Dev) (f : Frame) (rest : List Frame) : Dev :=
  ((d.setLif { d.lif with mailbox := rest }).intake f).only f.src

/-- A frame stands at the mailbox's head and its content is taken: its source is a station number of another station, whose record
is absent or of the kind that sends such frames (R41). -/
abbrev Dev.passes (d : Dev) (f : Frame) (rest : List Frame) : Prop :=
  d.lif.mailbox = f :: rest ∧ 1 ≤ f.src ∧ f.src ≤ 32 ∧ f.src ≠ d.station ∧ (d.peer f.src).all (fun r => r.kind == f.kind.sender) = true

/-- One parameter of the boot data: the value in use, the value stored or, in an erased field, its default, and the bounds of its
range. -/
structure Param where
  used : Nat
  stored : Nat
  lo : Nat
  hi : Nat
  deriving DecidableEq, Repr

/-- The parameters of the plan and carriage blocks with the defaults and ranges of R6 and R7, in the order stored. -/
def params (plan carriage : List Byte) (t : Tmp) : List Param :=
  let row (data : List Byte) (used pos w dflt lo hi : Nat) : Param :=
    { used := used, stored := if beAt data pos w = 256 ^ w - 1 then dflt else beAt data pos w, lo := lo, hi := hi }
  let p := t.plan
  let c := t.carriage
  [ row plan p.beaconPeriod 4 2 250 100 1000, row plan p.claimWindow 6 2 150 50 1000, row plan p.lostTime 8 2 2000 500 10000,
    row plan p.quietTime 10 2 1500 500 10000, row plan p.clearance 12 2 500 0 5000, row plan p.horizonExtra 14 2 10000 0 50000,
    row plan p.lineMax 16 2 1000 100 1500, row plan p.class0 18 2 200 10 p.lineMax, row plan p.class1 20 2 400 10 p.lineMax,
    row plan p.class2 22 2 700 10 p.lineMax, row plan p.class3 24 2 1000 10 p.lineMax,
    row plan p.lockTimeout 26 2 5000 1000 30000, row carriage c.length 1 2 8000 2000 20000,
    row carriage c.pitchA 3 2 500 100 5000, row carriage c.pitchB 5 2 500 100 5000, row carriage c.growth 7 1 10 2 50,
    row carriage c.markerTol 8 1 5 1 50, row carriage c.padTol 9 1 1 1 10, row carriage c.dockTol 10 1 3 1 20,
    row carriage c.serviceDecel 11 2 200 100 800, row carriage c.reaction 13 2 300 50 1000, row carriage c.margin 15 2 3000 500 10000,
    row carriage c.accel 17 2 100 20 500, row carriage c.creep 19 1 25 10 100, row carriage c.approach 20 2 2500 500 10000,
    row carriage c.overspeed 22 1 30 10 200, row carriage c.slipThreshold 23 2 100 20 500,
    row carriage c.clampTimeout 25 2 20000 5000 60000, row carriage c.locateUnc 27 2 2000 100 10000 ]

/-- A parameter is replaced by a bound of its range (R8). -/
def Param.replaced (p : Param) : Bool :=
  decide (p.stored < p.lo) || decide (p.hi < p.stored)

/-- The transmit queue takes another frame, whatever its class (R173). -/
abbrev Lif.hasRoom (l : Lif) : Prop :=
  l.active = true ∧ l.queue.length < Config.maxQueue

end Sys2Proof.Machine
end

