-- ==== Sys2Proof/Certificates/Slice0/Obligations.lean ====
section
/-! DEFINITION. The statements for the provers, one `Obligations.<Name>` each, with the rule or the sections of spec/ that it rests
on in OBLIGATIONS.json. A statement that rests on a choice of the model says so and names the log entry. -/

open Sys2Proof Sys2Proof.Machine

/-! ### The queue of commands -/

/-- A step with a command at the front of the queue is that command run on the part with the rest of the queue. A step with none
waiting lets one microsecond pass, and then the queue holds the expiry command of each timer that has run out by now, and no other
command; nothing else changes, so that no timer passes its end with its command unqueued. The passing of time in a step, by one
microsecond while no command waits, is the model's (DESIGN CHOICE, log 2). -/
def Obligations.StepRunsFrontCommand : Prop :=
  (∀ (c : Instr) (s : State) (rest : List Instr), s.pending = c :: rest → step s = exec c { s with pending := rest })
  ∧ (∀ s : State, s.pending = [] → let d : Dev := { s.dev with now := s.dev.now + 1 }
      let window : Timer := (d.cle.table.find? Claim.isContending).bind (fun c => match c.state with
        | .contending _ _ w => w
        | .wanted _ | .blocked _ _ _ | .held _ _ => none)
      let backoff : Timer := d.cle.front.bind (fun c => match c.state with
        | .blocked _ _ w => w
        | .wanted _ | .contending _ _ _ | .held _ _ => none)
      let ofClaim (c : Claim) : List (Timer × Instr) :=
        [(c.pointsTimer, .pointsTimerExpiry c.sec), (c.rerequestTimer, .rerequestTimerExpiry c.sec)]
      let ofPeer (r : PeerRec) : List (Timer × Instr) :=
        [(r.intent.map (·.timer), .peerIntentExpiry r.station),
          (if r.freshness = .fresh then some (r.heardAt + 3 * d.tmp.plan.beaconPeriod * 1000) else none, .peerStale r.station),
          (if r.freshness = .lost then none else some (r.heardAt + d.tmp.plan.lostTime * 1000), .peerLost r.station)]
      let timers : List (Timer × Instr) :=
        [(d.btl.blockTimer, .blockTimerExpiry), (d.odo.sampleTimer, .odometrySample), (d.sup.evalTimer, .supervisionEvaluation),
          (d.bdu.trainTimer, .trainWatchExpiry), (d.dkc.clampTimer, .clampTimerExpiry), (d.dkc.corrTimer, .correctionWatchExpiry),
          (d.dkc.watchTimer, .clampWatchExpiry), (d.stc.listenTimer, .listenTimerExpiry), (d.lif.backoffTimer, .backoffExpiry),
          (d.lif.beaconTimer, .beaconTimerExpiry), (d.lif.quietTimer, .lineQuietExpiry), (window, .windowExpiry),
          (backoff, .claimBackoffExpiry), (d.mnp.writeTimer, .bootWriteTimeout)]
          ++ d.cle.table.flatMap ofClaim ++ d.peers.flatMap ofPeer
      ∃ queue : List Instr, step s = .next { dev := d, pending := queue }
        ∧ ∀ i, i ∈ queue ↔ ∃ (t : Timer) (n : Nat), (t, i) ∈ timers ∧ t = some n ∧ n ≤ d.now)

/-! ### Reset and start-up -/

/-- The reset values that the spec states for the blocks: the map UNLOADED and empty, the position UNKNOWN with standstill false and
a history of ten zeros, no peer record, an empty claim table with loss count 0, SUP stopped with demand 0, BDU with duty 0, traction
off, the service brake on, the train STOPPED and no latch set, DKC IDLE, the station in START with no order, LIF idle with empty
queues, no fault active, BTL IDLE with two blocks to read, the window on MAP at index 0, and every counter 0. RESET takes every item of
the part to its reset value; with the boot-hold input inactive the station stays in START, the map is LOADING and the boot loader READING
with its block timer at 10 ms, and with the input active the station is in BOOT-HOLD and nothing is read. The model's own index of free
values goes on (notes/assumptions/40.md). -/
def Obligations.ResetLeavesTheStatedValues : Prop :=
  (let d := State.reset.dev
  d.tmp.phase = .unloaded ∧ d.tmp.sections = [] ∧ d.tmp.pads = [] ∧ d.tmp.signature = 0
      ∧ d.odo.pos.validity = .unknown ∧ d.odo.pos.dir = .towardB ∧ d.odo.standstill = false ∧ d.odo.history = List.replicate 10 0
      ∧ d.odo.zeroRun = 0 ∧ d.odo.window = none ∧ d.peers = [] ∧ d.cle.table = [] ∧ d.cle.lossCount = 0
      ∧ d.sup.binding = .stopped ∧ d.sup.band = .nominal ∧ d.sup.demand = 0 ∧ d.sup.evalTimer = none
      ∧ d.bdu.duty = 0 ∧ d.bdu.traction = false ∧ d.bdu.serviceBrake = true ∧ d.bdu.trainRunning = false ∧ d.bdu.latched = false
      ∧ d.dkc.sub = .idle ∧ d.dkc.last = .none ∧ d.stc.state = .start ∧ d.stc.order = none ∧ d.stc.waiting = true
      ∧ d.lif.tx = .idle ∧ d.lif.rx = .idle ∧ d.lif.queue = [] ∧ d.lif.mailbox = [] ∧ d.lif.test = none ∧ d.faults = []
      ∧ d.btl.phase = .idle ∧ d.btl.total = 2 ∧ d.mnp.table = .map ∧ d.mnp.index = 0 ∧ d.mnp.auto = false
      ∧ (∀ c : Counter, d.counter c = 0))
    ∧ (∀ s : State,
        exec (.reset false) s = .next { s with dev := { Dev.reset with
          tmp := { Tmp.reset with phase := .loading }
          btl := { Btl.reset with phase := .reading, blockTimer := some 10000 }
          freeCount := s.dev.freeCount } }
        ∧ exec (.reset true) s = .next { s with dev := { Dev.reset with
          stc := { Stc.reset with state := .bootHold }
          freeCount := s.dev.freeCount } })

/-- A boot block whose check agrees is taken: block 0 as the carriage block when its station number lies in 1..32, block 1 as the plan
block when its counts are within their limits, which gives the number of blocks to read, and a later block's data after the records taken
before. The next block is due and the block timer starts again at 10 ms; nothing else changes before the last block. A read fails with
BLOCK-CHECK at a block whose check disagrees, with CARRIAGE-ID at a carriage block whose station number is outside 1..32, and with
MAP-INVALID at a plan block with a count over its limit, which gives the number of blocks to read all the same; at the block timer's
expiry it fails with NO-RESPONSE. Each failure leaves the loader FAILED with its reason and detail and the timer stopped, the map UNLOADED
and empty, and the station in BOOT-FAILED. That the counts check names the number 0 and that CARRIAGE-ID has no detail are the model's
(logs 29 and 53), and so is that the number of blocks to read follows from the counts also where one is over its limit and past the range
that R194 gives it (DEDUCED, log 41), and that a failure at a block with a good check leaves the next block at that block (DESIGN CHOICE,
log 73). -/
def Obligations.BootBlocksAreJudged : Prop :=
  ∀ s : State, let d := s.dev
    let failed (o : Host.Outcome State Fault Refusal) (r : BootReason) (x : Option BootDetail) (total : Nat) : Prop :=
      ∃ e : Dev, o = .next { s with dev := e } ∧ e.stc.state = .bootFailed ∧ e.tmp = Tmp.reset
        ∧ e.btl = { d.btl with phase := .failed, reason := r, detail := x, blockTimer := none, total := total }
    let agrees (b : List Byte) : Prop := crc16 (b.take 30) = BitVec.ofNat 16 (beAt b 30 2)
    let timer : Timer := some (d.now + 10000)
    d.btl.phase = .reading →
    (∀ b : List Byte, agrees b → let data := b.take 30
      (d.btl.next = 0 → 1 ≤ byteAt data 0 → byteAt data 0 ≤ 32 → d.btl.total ≠ 1 →
        exec (.bootBlockRead b) s = .next { s with dev := { d with
          tmp := { d.tmp with carriageData := data }, btl := { d.btl with next := 1, blockTimer := timer } } })
      ∧ (d.btl.next = 1 → byteAt data 0 ≤ 240 → byteAt data 1 ≤ 63 → beAt data 2 2 ≤ 1024 →
        let total := 2 + (19 * byteAt data 0 + 4 * beAt data 2 2 + 6 * byteAt data 1 + 29) / 30
        total ≠ 2 →
        exec (.bootBlockRead b) s = .next { s with dev := { d with
          tmp := { d.tmp with planData := data }, btl := { d.btl with next := 2, total := total, blockTimer := timer } } })
      ∧ (2 ≤ d.btl.next → d.btl.next + 1 ≠ d.btl.total →
        exec (.bootBlockRead b) s = .next { s with dev := { d with
          tmp := { d.tmp with recordData := d.tmp.recordData ++ data }
          btl := { d.btl with next := d.btl.next + 1, blockTimer := timer } } }))
    ∧ (∀ b : List Byte, ¬agrees b → failed (exec (.bootBlockRead b) s) .blockCheck (some (.block d.btl.next)) d.btl.total)
    ∧ (∀ b : List Byte, agrees b → d.btl.next = 0 →
      (byteAt (b.take 30) 0 = 0 ∨ 32 < byteAt (b.take 30) 0) → failed (exec (.bootBlockRead b) s) .carriageId none d.btl.total)
    ∧ (∀ b : List Byte, agrees b → d.btl.next = 1 → let p := b.take 30
      (240 < byteAt p 0 ∨ 63 < byteAt p 1 ∨ 1024 < beAt p 2 2) →
      failed (exec (.bootBlockRead b) s) .mapInvalid (some (.check .counts 0))
        (2 + (19 * byteAt p 0 + 4 * beAt p 2 2 + 6 * byteAt p 1 + 29) / 30))
    ∧ (d.due d.btl.blockTimer = true → failed (exec .blockTimerExpiry s) .noResponse (some (.block d.btl.next)) d.btl.total)

/-- The last boot block's data completes the image: the last of the record blocks, or the plan block itself with all counts 0. When the
load checks pass, the map is LOCKED with the image's records and signature, every parameter other than the station number is the value
stored, or for an erased field its default, brought into its range, and CONFIG-CLAMPED is active when one was replaced, each further
replacement a repeat; from there the part enters LISTEN and the boot loader is DONE. When a check fails the boot fails with MAP-INVALID,
naming the check and the number. -/
def Obligations.LastBootBlockLocksTheMap : Prop :=
  ∀ (s : State) (b : List Byte), let d := s.dev; let p := b.take 30
    d.btl.phase = .reading → crc16 p = BitVec.ofNat 16 (beAt b 30 2) →
    let completes (t : Tmp) : Prop :=
      match (readImage t.planData t.recordData).check (byteAt t.carriageData 0) with
      | none => ∃ x : Dev, exec (.bootBlockRead b) s = .next { s with dev := x.enterListen }
          ∧ x.tmp = t.lock.1 ∧ x.tmp.phase = .locked ∧ x.tmp.signature = crc32 (t.planData ++ t.recordData)
          ∧ x.tmp.carriage.station = byteAt t.carriageData 0
          ∧ (let ps := params t.planData t.carriageData x.tmp; let n := ps.countP Param.replaced
            (∀ q ∈ ps, q.used = max q.lo (min q.hi q.stored))
            ∧ (d.faultActive .configClamped = false →
              (n = 0 → x.faultActive .configClamped = false)
              ∧ (0 < n → ∃ y ∈ x.faults, y.kind = .configClamped ∧ y.repeats.toNat = n - 1)))
          ∧ (let e := x.enterListen
            e.tmp = x.tmp ∧ e.btl.phase = .done ∧ e.btl.blockTimer = none ∧ e.lif.active = true ∧ e.odo.active = true
              ∧ e.bdu.active = true)
      | some (c, n) => ∃ e : Dev, exec (.bootBlockRead b) s = .next { s with dev := e } ∧ e.tmp = Tmp.reset
          ∧ e.btl.phase = .failed ∧ e.btl.reason = .mapInvalid ∧ e.btl.detail = some (.check c n) ∧ e.stc.state = .bootFailed
    (2 ≤ d.btl.next → d.btl.next + 1 = d.btl.total → completes { d.tmp with recordData := d.tmp.recordData ++ p })
    ∧ (d.btl.next = 1 → byteAt p 0 = 0 → byteAt p 1 = 0 → beAt p 2 2 = 0 → completes { d.tmp with planData := p })

/-- The entry into LISTEN from the start: the station is in LISTEN with its listen timer at Tl; LIF is active, awaits an idle line, has
the station number in its backoff generator, and its beacon and quiet timers run at Tb and Tq; a CONFIG-CLAMPED entered before has its
reported flag set, and its report is queued, where no claims follow it into the queue; ODO is active with its sample timer at 10 ms, and
with the clamps down, the pad reader's presence active and an even number of ones that name a pad the record is KNOWN at that pad
TOWARD_B, and the pad is the parked one; else it stays UNKNOWN, with PAD-CODE active at an odd number of ones. SUP has its evaluation
timer at 20 ms and a_eff at Asv, DKC is CLAMPED with the clamps-down sensor active alone and IDLE else. BDU takes an active local stop, a
drive not ready and a low supply as activations, and its service brake is on for each of them alone. CLE holds the sections under the
footprint, which are to be at most 8. The loader is DONE. (The order of the blocks is the model's, DESIGN CHOICE, log 15.) -/
def Obligations.EntryIntoListenActivatesTheBlocks : Prop :=
  ∀ d : Dev, let t := d.tmp; let b := d.bdu; let e := d.enterListen
    d.stc = Stc.reset → d.cle = Cle.reset → d.dkc = Dkc.reset → d.sup = Sup.reset → d.lif = Lif.reset → d.peers = [] →
    d.odo.pos = PositionRec.reset → d.odo.window = none → d.bdu = { Bdu.reset with
      inLocalStop := b.inLocalStop, inDriveReady := b.inDriveReady, inSupplyLow := b.inSupplyLow, inClampsDown := b.inClampsDown
      inClampsUp := b.inClampsUp } →
    (∀ y ∈ d.faults, y.kind = .configClamped) → d.faults.length ≤ 1 → t.carriage.padTol ≤ 10 →
    let ones : Nat := ((List.finRange 7).map (fun i => (d.odo.padLines.getLsb i).toNat)).sum
    let there (p : PadRec) : Prop := ones % 2 = 0 ∧ d.odo.padPresence = true ∧ b.inClampsDown = true
      ∧ findPad t.pads (d.odo.padLines.toNat % 64) = some p
    (∀ p, there p → (footprintOf t.sections [] { sec := p.sec, leg := p.leg, offset := p.offset * 1000, dir := .towardB, idx := none }
      (t.carriage.length * 500 + t.carriage.padTol * 1000)).sections.length ≤ 8) →
    e.stc.state = .listen ∧ e.stc.listenTimer = some (d.now + t.plan.lostTime * 1000)
      ∧ e.btl = { d.btl with phase := .done, blockTimer := none }
      ∧ e.lif.active = true ∧ e.lif.awaitIdle = true ∧ e.lif.lfsr = BitVec.ofNat 16 t.carriage.station
      ∧ e.lif.beaconTimer = some (d.now + t.plan.beaconPeriod * 1000) ∧ e.lif.quietTimer = some (d.now + t.plan.quietTime * 1000)
      ∧ (∀ y ∈ d.faults, y.reported = false → { y with reported := true } ∈ e.faults)
      ∧ e.odo.active = true ∧ e.odo.sampleTimer = some (d.now + 10000)
      ∧ (∀ p, there p → e.stc.parkedPad = some p.number
          ∧ e.odo.pos = { PositionRec.reset with
              validity := .known, sec := p.sec, leg := p.leg, offset := p.offset * 1000
              uAnchor := t.carriage.padTol * 1000, unc := t.carriage.padTol * 1000 }
          ∧ ∀ n, n ∈ e.cle.heldSections ↔ n ∈ e.footprint.sections)
      ∧ ((∀ p, ¬there p) → e.stc.parkedPad = none ∧ e.odo.pos = PositionRec.reset ∧ e.cle.table = []
          ∧ ∀ y ∈ d.faults, y.reported = false → ∃ x ∈ e.lif.queue, x.kind = .faultReport ∧ x.dest = 0
            ∧ x.payload.take 4 = [1, BitVec.ofNat 8 y.kind.code, 1, y.repeats])
      ∧ (ones % 2 = 1 → e.faultActive .padCode = true)
      ∧ e.sup.evalTimer = some (d.now + 20000) ∧ e.sup.aEff = t.carriage.serviceDecel
      ∧ e.dkc.active = true ∧ e.dkc.sub = (if b.inClampsDown = true ∧ b.inClampsUp = false then .clamped else .idle)
      ∧ e.bdu.active = true ∧ e.bdu.srcDriveNotReady = !b.inDriveReady ∧ e.bdu.srcLocalStop = b.inLocalStop
      ∧ e.bdu.latchSupplyLow = b.inSupplyLow ∧ (b.inLocalStop = true → e.faultActive .localStop = true ∧ e.stc.haltHold = true)
      ∧ (b.inSupplyLow = true → e.faultActive .supplyLow = true ∧ e.stc.haltHold = true)
      ∧ (e.bdu.serviceBrake = true ↔ b.inLocalStop = true ∨ b.inDriveReady = false ∨ b.inSupplyLow = true)

/-- At the listen timer's expiry in LISTEN the station takes its rest state: NO-POSITION with the position UNKNOWN, PARKED when DKC
is clamped and a parked pad is held, STANDING otherwise. The demand and the duty are 0, no HALTED source stands, and the traction and
service-brake outputs are as the sources have them; a link test goes on in STANDING and PARKED alone. Nothing of the position, the
peers, the claims, the docking, the faults, the counters, the map, the boot loader or the port changes, and nothing else of BDU, the
line or the station. -/
def Obligations.ListenTimerExpiryTakesRestState : Prop :=
  ∀ s : State, let d := s.dev
    d.stc.state = .listen → d.due d.stc.listenTimer = true →
    let st : StationState := if d.odo.pos.validity = .unknown then .noPosition
      else if d.dkc.sub = .clamped ∧ d.stc.parkedPad.isSome = true then .parked else .standing
    let b : Bdu := { d.bdu with srcHalted := false, demandHanded := 0, duty := 0 }
    exec .listenTimerExpiry s = .next { s with dev := { d with
      stc := { d.stc with listenTimer := none, state := st, remembered := none }
      sup := { d.sup with demand := 0 }
      bdu := { b with
        traction := d.bdu.active && !b.forced
        serviceBrake := !d.bdu.active || b.sourced || b.latched }
      lif := if st = .noPosition then { d.lif with test := none } else d.lif } }

/-! ### Sensors -/

/-- The model's choices of the sense of a count (log 7) and of an error's time, its millisecond rounded down, the 1,000 ms being a
difference of two such times (DEDUCED, log 32), with R18's decoding: a change of exactly one phase of a channel sets its
transition flag and moves its net count by one, up when the phase leads that leads in motion along the record's direction of travel,
which is phase p at reset and the other one after each change of direction; while ODO is inactive the accepted levels alone are kept.
A change of both phases is a quadrature error: the net count stays, the transition flag is set, the error total counts one and the time
joins the last eight. A HEALTHY channel with eight errors within 1,000 ms becomes FAILED and TACH-CHANNEL is active; the position stays
as it is while the other channel is HEALTHY. With the other one FAILED, TACH-BOTH is active too and the position UNKNOWN: the record is
at its reset values but for its direction, with no window open and no marker due, no order is current, no pad is the parked one and the
demand is 0. -/
def Obligations.TachTransitionsAreCounted : Prop :=
  (∀ (s : State) (ch : Channel) (p q : Bool), let d := s.dev; let c := d.odo.channel ch
      ((p = c.p) ≠ (q = c.q)) →
      let up : Bool := (p != c.q) == d.odo.pUp
      let counted : TachChannel := { c with p := p, q := q, seen := true, net := c.net + if up then 1 else -1 }
      (d.odo.active = true →
        exec (.tachTransition ch p q) s = .next { s with dev := { d with odo := d.odo.withChannel ch counted } })
      ∧ (d.odo.active = false →
        exec (.tachTransition ch p q) s = .next { s with dev := { d with odo := d.odo.withChannel ch { c with p := p, q := q } } }))
  ∧ (∀ (s : State) (ch : Channel), let d := s.dev; let c := d.odo.channel ch
      d.odo.active = true →
      let times := (c.errTimes ++ [d.now / 1000]).drop (c.errTimes.length + 1 - 8)
      let full : Prop := times.length = 8 ∧ times.getLastD 0 - times.headD 0 ≤ 1000
      let total : Counter := match ch with | .a => .errorsA | .b => .errorsB
      let erred : TachChannel := { c with p := !c.p, q := !c.q, seen := true, errTimes := times }
      (¬full ∨ c.failed = true →
        exec (.tachTransition ch (!c.p) (!c.q)) s =
          .next { s with dev := ({ d with odo := d.odo.withChannel ch erred } : Dev).bump total })
      ∧ (full → c.failed = false → (d.odo.channel (otherChannel ch)).failed = false →
        ∃ e : Dev, exec (.tachTransition ch (!c.p) (!c.q)) s = .next { s with dev := e }
          ∧ e.odo = d.odo.withChannel ch { erred with failed := true }
          ∧ e.faultActive .tachChannel = true ∧ e.stc = d.stc ∧ e.cle = d.cle ∧ e.bdu = d.bdu ∧ e.peers = d.peers)
      ∧ (full → c.failed = false → (d.odo.channel (otherChannel ch)).failed = true → d.odo.pos.validity ≠ .unknown →
        ∃ e : Dev, exec (.tachTransition ch (!c.p) (!c.q)) s = .next { s with dev := e }
          ∧ e.odo = { d.odo.withChannel ch { erred with failed := true } with
              window := none, nextDue := none, pos := { PositionRec.reset with dir := d.odo.pos.dir } }
          ∧ e.faultActive .tachChannel = true ∧ e.faultActive .tachBoth = true ∧ e.stc.order = none ∧ e.stc.parkedPad = none
          ∧ e.sup.demand = 0 ∧ e.peers = d.peers))

/-- At a sample both channels' net counts and transition flags are cleared and the sample timer starts again at 10 ms. With a channel
HEALTHY the history drops its oldest entry and takes |Δ|, Δ being the mean of the two channels truncated toward zero, or the HEALTHY
one's; with both FAILED it stays. A zero sample, in which no HEALTHY channel saw a transition, adds to the run up to 50, and at 50
standstill is true; any other sample makes the run 0 and standstill false. With the position held, no window open and no pending loss, the
reference is carried by Δ, which moves it by Δ within its section along its direction; |Δ| and the disagreement add to the record's
fields, U is formed of its three terms, and the direction line stands at the record's direction. Where the carry ends short, or U reaches
10,000,000 µm, POSITION-LOST is active and the position UNKNOWN. A slip sample adds to the slip run, the fifth in a row makes SLIP active
and the run 0, and any other sample makes it 0. CLE then takes the sample (SampleClaimsAndReleases), and CLE, DKC and STC a change of
standstill (StandstillReleasesTheRest): that order is the model's choice (DESIGN CHOICE, log 13). -/
def Obligations.SampleCountsSpeedAndStandstill : Prop :=
  ∀ s : State, let d := s.dev; let o := d.odo; let c := d.tmp.carriage
    o.active = true → d.due o.sampleTimer = true →
    let a : Int := o.chA.net * c.pitchA
    let b : Int := o.chB.net * c.pitchB
    let healthy : Prop := o.chA.failed = false ∧ o.chB.failed = false
    let advance : Option (Int × Nat) := match o.chA.failed, o.chB.failed with
      | false, false => some ((a + b).tdiv 2, (a - b).natAbs)
      | false, true => some (a, 0)
      | true, false => some (b, 0)
      | true, true => none
    let zero : Prop := (o.chA.failed = false ∨ o.chB.failed = false)
      ∧ (o.chA.failed = false → o.chA.seen = false) ∧ (o.chB.failed = false → o.chB.seen = false)
    let m := max a.natAbs b.natAbs
    let slip : Prop := healthy ∧ c.slipThreshold * m < (a - b).natAbs * 1000 ∧ 4 * min c.pitchA c.pitchB ≤ m
    ∃ x e : Dev, exec .odometrySample s = .next { s with dev := e } ∧ e = (x.claimsSample s.dev.retrySection).standstillChanged o.standstill
      ∧ e.odo.chA = { o.chA with net := 0, seen := false } ∧ e.odo.chB = { o.chB with net := 0, seen := false }
      ∧ e.odo.sampleTimer = some (d.now + 10000)
      ∧ e.odo.history = (match advance with | some z => o.history.drop 1 ++ [z.1.natAbs] | none => o.history)
      ∧ (zero → e.odo.zeroRun = min 50 (o.zeroRun + 1)
          ∧ (e.odo.standstill = true ↔ o.standstill = true ∨ min 50 (o.zeroRun + 1) = 50))
      ∧ (¬zero → e.odo.zeroRun = 0 ∧ e.odo.standstill = false)
      ∧ (slip → o.slipRun < 4 → x.odo.slipRun = o.slipRun + 1)
      ∧ (slip → 4 ≤ o.slipRun → x.odo.slipRun = 0 ∧ x.faultActive .slip = true)
      ∧ (¬slip → x.odo.slipRun = 0)
      ∧ (o.pos.validity ≠ .unknown → o.window = none → o.pos.pendingLoss = false →
        (advance = none → x.odo.pos = o.pos)
        ∧ (∀ delta dis, advance = some (delta, dis) →
          let w := d.carry o.pos.point delta
          let growth := if o.chA.failed = false ∧ o.chB.failed = false then c.growth else 2 * c.growth
          let travelled := o.pos.travelled + delta.natAbs
          let u := o.pos.uAnchor + (travelled * growth + 999) / 1000 + (o.pos.disagreement + dis + 1) / 2
          let ahead : Int := o.pos.offset + (if o.pos.dir = .towardB then delta else -delta)
          (∀ r, findSection d.tmp.sections o.pos.sec = some r → r.kind = .plain → o.pos.leg = .plain → 0 ≤ ahead →
            ahead ≤ (r.length * 1000 : Nat) → w.stop = .reached ∧ w.last = { o.pos.point with offset := ahead.toNat })
          ∧ (w.stop = .reached → u < 10000000 → x.bdu.dirLine = w.last.dir ∧ x.odo.pos = { o.pos with
              sec := w.last.sec, leg := w.last.leg, offset := w.last.offset, dir := w.last.dir, idx := w.last.idx
              travelled := travelled, disagreement := o.pos.disagreement + dis, unc := u })
          ∧ (w.stop ≠ .reached ∨ 10000000 ≤ u → x.odo.pos.validity = .unknown ∧ x.faultActive .positionLost = true)))

/-- CLE at the end of a sample, the `claimsSample` of SampleCountsSpeedAndStandstill. With the position UNKNOWN nothing changes. Else
every section under the footprint with no HELD entry becomes HELD with basis OCCUPANCY and the current ticket with its occupancy flag, a
TAKEN with that ticket being queued when there is room; one that a peer holds or occupies makes OCCUPANCY-CONFLICT active, and a carriage
that moves keeps it HELD; one of points with a leg needed is REQUESTED with both its timers running, a POINTS-REQUEST for that leg being
queued when there is room. With all of them HELD already: the route entries after the last of the table join as WANTED with their leg
needed, in order, while each one's entry end lies within H of the front extent, its section has no entry, and there is room, and none
joins with claiming stopped; one that is the front entry so is examined: with its blocker BLOCKED, with none CONTENDING with the current
ticket, its INTENT queued when there is room. An entry whose INTENT was dropped on arrival before the sample is examined again. While the
carriage moves with no ABORT pending, outside SAFE-STOP, and no peer waits, the first entries of the table that are HELD, off the
footprint and clear behind leave it, one RELEASE naming them, and every other HELD entry stays. A route entry is clear behind when its
exit end in the direction of travel lies behind the rear extent by the release clearance, by route coordinates (the rear extent over a
toe: log 35). The order footprint check, horizon, retry, release behind is the model's choice, so that the table's room for the horizon is
counted before the release (DESIGN CHOICE, log 13). -/
def Obligations.SampleClaimsAndReleases : Prop :=
  ∀ (d : Dev) (retry : Option Nat), d.cle.ok → let e := d.claimsSample retry; let t := d.cle.table; let under := d.footprint.sections
    let joining := under.filter (fun n => (d.cle.entry n).isNone)
    let new := under.filter (fun n => !d.cle.holds n)
    let mine : Ticket := { d.currentTicket with occupancy := true }
    let conflict : Prop := ∃ n ∈ new, ∃ p b, d.blocked n = some (p, b) ∧ b ≠ .intent
    let room (n : Nat) : Prop := d.lif.active = true ∧ d.lif.queue.length + n ≤ 8
    let sends (k : FrameKind) (payload : List Byte) (tag : Option Nat → Prop) : Prop :=
      ∃ y ∈ e.lif.queue, y.kind = k ∧ y.dest = 0 ∧ y.payload = payload ∧ tag y.tag
    let known : Prop := d.cle.active = true ∧ d.odo.pos.validity ≠ .unknown
    (d.odo.pos.validity = .unknown → e = d)
    ∧ (known → t.length + joining.length ≤ 8 →
      (conflict → e.faultActive .occupancyConflict = true)
      ∧ (¬conflict ∨ d.odo.standstill = false → ∀ n ∈ under, e.cle.holds n = true)
      ∧ (¬conflict → ∀ n ∈ new, (∃ c ∈ e.cle.table, c.sec = n ∧ c.state = .held .occupancy mine
          ∧ (∀ c' ∈ t, c'.sec = n → c.idx = c'.idx)
          ∧ (∀ c' ∈ t, c'.sec = n → c.legNeeded = c'.legNeeded)
          ∧ (d.cle.entry n = none → c.idx = (if d.cle.view.isSome then (d.footprint.places.find? (fun x => x.sec == n)).bind (·.idx) else none)
            ∧ c.legNeeded = if d.isPoints n then (c.idx.bind (fun k => d.routeEntries[k - 1]?)).map (·.leg) else none)
          ∧ (∀ leg, d.isPoints n = true → c.legNeeded = some leg → c.points = .requested
            ∧ c.pointsTimer = some (d.now + d.tmp.plan.lockTimeout * 1000)
            ∧ c.rerequestTimer = some (d.now + d.tmp.plan.beaconPeriod * 1000)
            ∧ (room (2 * new.length + 1) → sends .pointsRequest [BitVec.ofNat 8 n, BitVec.ofNat 8 leg.code] (fun _ => True))))
        ∧ (room (2 * new.length + 1) → sends .taken [BitVec.ofNat 8 n, mine.toByte] (fun _ => True))))
    ∧ (known → new = [] →
      (∀ v k, d.cle.view = some v → retry = none → (∃ c ∈ t, c.idx = some k) → (∀ c ∈ t, ∀ j, c.idx = some j → j ≤ k) →
        let entries := v.route.entries
        let near (i : Nat) : Prop := ∃ g, entries[i]? = some g ∧ (g.c0 : Int) - d.frontCoord v.route ≤ (d.cle.horizon : Int) * 1000
          ∧ d.cle.entry g.sec = none ∧ ∀ j g', k ≤ j → j < i → entries[j]? = some g' → g'.sec ≠ g.sec
        (d.claimingStopped = true → ∀ c ∈ e.cle.table, ∀ j, c.idx = some j → j ≤ k)
        ∧ (∀ m, d.claimingStopped = false → (∀ i, k ≤ i → i < k + m → near i) → t.length + m ≤ 8 →
          t.length + m = 8 ∨ ¬near (k + m) →
          (∀ c ∈ e.cle.table, ∀ j, c.idx = some j → j ≤ k + m)
          ∧ ∀ i g, k ≤ i → i < k + m → entries[i]? = some g → ∃ c ∈ e.cle.table, c.sec = g.sec ∧ c.idx = some (i + 1)
            ∧ c.isHeld = false ∧ c.points = .unrequested
            ∧ c.legNeeded = (if (findSection d.tmp.sections g.sec).any (fun q => q.kind == .points) then some g.leg else none)
            ∧ (i ≠ k ∨ d.cle.front ≠ none → c.state = .wanted false)
            ∧ (i = k → d.cle.front = none → d.lif.quiet = false →
              (∀ p b, d.blocked g.sec = some (p, b) → (∀ q ∈ d.peers, q.waiting = none) → c.state = .blocked p b none)
              ∧ (d.blocked g.sec = none → room 2 → ∃ tag, c.state = .contending d.currentTicket tag none
                ∧ sends .intent [BitVec.ofNat 8 g.sec, d.currentTicket.toByte] (· = some tag)))))
      ∧ (∀ c, d.cle.front = some c → c.state = .wanted false → retry = some c.sec → d.claimingStopped = false → d.lif.quiet = false →
        d.blocked c.sec = none → room 2 → ∃ tag, e.cle.entry c.sec = some { c with state := .contending d.currentTicket tag none }
          ∧ sends .intent [BitVec.ofNat 8 c.sec, d.currentTicket.toByte] (· = some tag))
      ∧ (let gone := if d.odo.standstill || d.cle.abortPending || d.stc.state == .safeStop then [] else t.takeWhile (fun c => d.clearBehind c)
        (∀ q ∈ d.peers, q.waiting = none) → (∀ c ∈ gone, e.cle.entry c.sec = none)
        ∧ (∀ c ∈ t, c.isHeld = true → c ∉ gone → c ∈ e.cle.table)
        ∧ (gone ≠ [] → room 2 → sends .release (BitVec.ofNat 8 gone.length :: gone.map (fun c => BitVec.ofNat 8 c.sec)) (fun _ => True))))
    ∧ (∀ c ∈ t, (d.clearBehind c = true → c.isHeld = true ∧ d.underOwn c.sec = false)
      ∧ (∀ v k g, c.isHeld = true → d.underOwn c.sec = false → d.cle.view = some v → c.idx = some k → v.route.entries[k - 1]? = some g →
        let rear := d.rearCoord v.route
        (d.clearBehind c = true ↔
          ((d.tmp.plan.clearance * 1000 : Nat) : Int) ≤ if d.withRoute then rear - g.c1 else (g.c0 : Int) - rear)))

/-- CLE when standstill becomes true, which with no docking under way and no ABORT of STC's pending is all that its becoming true brings
about, and at the end of an order. With an ABORT pending every HELD entry off the footprint leaves the table and the pending ABORT clears,
the other entries staying as they are. With no order current, those leave it, and every entry that is not HELD with them. One RELEASE names
those that were HELD, in table order, when there is room. With an order current and no ABORT pending, and with the position UNKNOWN, nothing
changes, the release waiting for a LOCATE. At the end of an order the route view is none, the loss count 0 and no DEADLOCK stands, the entries
that are not HELD leave the table and every HELD one stays with no route index, no leg needed and its points UNREQUESTED with no timer; at
standstill those off the footprint leave it with one RELEASE. Nothing of the position, the station, the supervision or the peers changes. -/
def Obligations.StandstillReleasesTheRest : Prop :=
  ∀ d : Dev, d.cle.ok → let e := d.claimsStandstill; let z := d.claimsOrderEnd; let t := d.cle.table
    let off (c : Claim) : Bool := c.isHeld && !d.underOwn c.sec
    let stays := t.filter (fun c => c.isHeld && d.underOwn c.sec)
    let known : Prop := d.odo.pos.validity ≠ .unknown
    let aborts : Prop := d.cle.abortPending = true ∧ d.odo.standstill = true
    let released (x : Dev) : Prop := t.filter off ≠ [] → d.lif.hasRoom → ∃ y ∈ x.lif.queue, y.kind = .release
      ∧ y.dest = 0 ∧ y.payload = BitVec.ofNat 8 (t.filter off).length :: (t.filter off).map (fun c => BitVec.ofNat 8 c.sec)
    let after (c : Claim) : Claim := { c with
      idx := none, legNeeded := none, points := .unrequested, pointsTimer := none, rerequestTimer := none }
    let frame (x : Dev) : Prop := x.odo = d.odo ∧ x.stc = d.stc ∧ x.sup = d.sup ∧ x.peers = d.peers ∧ x.dkc = d.dkc ∧ x.tmp = d.tmp
    (¬known ∨ (¬aborts ∧ d.cle.view.isSome = true) → e = d)
    ∧ (known → aborts → d.cle.view.isSome = true → e.cle.table = t.filter (fun c => !off c))
    ∧ (known → d.cle.view = none → e.cle.table = stays)
    ∧ (known → e.cle.abortPending = (d.cle.abortPending && !d.odo.standstill) ∧ (aborts ∨ d.cle.view = none → released e))
    ∧ (z.cle.view = none ∧ z.cle.lossCount = 0 ∧ z.cle.deadlock = none)
    ∧ (d.odo.standstill = false ∨ ¬known → ∀ c, c ∈ z.cle.table ↔ ∃ c' ∈ t, c'.isHeld = true ∧ c = after c')
    ∧ (d.odo.standstill = true → known → (∀ c, c ∈ z.cle.table ↔ ∃ c' ∈ stays, c = after c') ∧ released z)
    ∧ frame e ∧ frame z
    ∧ (d.odo.standstill = true → d.dkc.sub ∉ [.creep, .stopping, .check, .correct] → d.stc.abortPending = false →
      d.standstillChanged false = e)

/-- At a sample with the position held and kept, an open window's travel grows by |Δ|, and the travel and net motion since its snapshot by
the part of Δ that came after it. It goes on up to 50,000 µm, and past that, or when standstill becomes true, it closes as a single
detection of its side at its snapshot, judged against the reference carried by Δ, with |Δ| and the disagreement added and U formed anew,
and the marker due Δ nearer (as they were with no channel HEALTHY). A pending loss makes the record UNKNOWN when standstill becomes true
and clears, and with no counts in the sample no new fault is active. With no window open and no pending loss, a marker due that now lies
behind the reference by more than U is missed: the missed run goes from 0 to 1, or back to 0 with MISSED-MARKERS active, and the next
marker beyond becomes due; one not so far behind stays due, Δ nearer. CLE, DKC and STC take the sample after that (the order within a
sample is the model's choice, DESIGN CHOICE, log 13; the travel since a snapshot, log 8). -/
def Obligations.SampleTakesTheWindowAndTheMarkerDue : Prop :=
  ∀ s : State, let d := s.dev; let o := d.odo
    o.active = true → d.due o.sampleTimer = true → o.pos.validity ≠ .unknown →
    let delta : Int := ((d.advance).getD (0, 0)).1
    let growth := if o.chA.failed = false ∧ o.chB.failed = false then d.tmp.carriage.growth else 2 * d.tmp.carriage.growth
    (∀ z, d.advance = some z → (d.carry o.pos.point z.1).stop = .reached
      ∧ o.pos.uAnchor + ((o.pos.travelled + z.1.natAbs) * growth + 999) / 1000 + (o.pos.disagreement + z.2 + 1) / 2 < 10000000) →
    ∃ x e : Dev, exec .odometrySample s = .next { s with dev := e }
      ∧ e = (x.claimsSample d.retrySection).standstillChanged o.standstill
      ∧ (let stops : Prop := o.standstill = false ∧ x.odo.standstill = true
        (∀ w, o.window = some w →
          let w' : PairWindow := { w with
            travel := w.travel + delta.natAbs, part := 0, since := w.since + (delta - w.part).natAbs, net := w.net + (delta - w.part) }
          (w'.travel ≤ 50000 → ¬stops → x.odo.window = some w')
          ∧ (50000 < w'.travel ∨ stops → x.odo.window = none ∧ ∃ (y : Dev) (lead : Int),
            let z := y.detect { point := w.snap, paired := false, side := w.side, travel := w'.since, net := w'.net, lead := lead }
            y.odo.window = none ∧ (y.odo.unpaired, y.odo.missingSide) = (o.unpaired, o.missingSide)
              ∧ (d.advance = none → y.odo.pos = o.pos ∧ y.odo.nextDue = o.nextDue)
              ∧ (∀ a, d.advance = some a → let at' := (d.carry o.pos.point a.1).last
                let travelled := o.pos.travelled + a.1.natAbs
                let disagreement := o.pos.disagreement + a.2
                y.odo.pos = { o.pos with
                    sec := at'.sec, leg := at'.leg, offset := at'.offset, dir := at'.dir, idx := at'.idx
                    travelled := travelled, disagreement := disagreement
                    unc := o.pos.uAnchor + (travelled * growth + 999) / 1000 + (disagreement + 1) / 2 }
                ∧ y.odo.nextDue = o.nextDue.map (fun m => { m with ahead := m.ahead - a.1 }))
              ∧ (¬(stops ∧ z.odo.pos.pendingLoss = true) → x = z.judgeDue)
              ∧ (stops ∧ z.odo.pos.pendingLoss = true → x.odo.pos.validity = .unknown)))
        ∧ (o.window = none → o.pos.pendingLoss = true → stops → x.odo.pos.validity = .unknown ∧ x.odo.pos.pendingLoss = false
          ∧ (o.chA.net = 0 → o.chB.net = 0 → ∀ f ∈ x.faults, f ∈ d.faults))
        ∧ (∀ m, o.window = none → o.pos.pendingLoss = false → o.nextDue = some m →
          let missed : Prop := m.ahead - delta < -(x.odo.pos.unc : Int)
          (¬missed → x.odo.nextDue = some { m with ahead := m.ahead - delta } ∧ x.odo.missedRun = o.missedRun)
          ∧ (missed → x.odo.nextDue = d.markerAfter m.point (m.ahead - delta)
            ∧ (o.missedRun = 0 → x.odo.missedRun = 1)
            ∧ (o.missedRun ≠ 0 → x.odo.missedRun = 0 ∧ x.faultActive .missedMarkers = true))))

/-- A marker edge with the position held and no window open opens the pairing window with its side and a snapshot, which is the
reference carried by the counts of the sample in progress, and changes nothing else. An edge of the other side closes an open window as
a paired detection: its point lies halfway between the two snapshots and its travel is half of that between the edges, each to the
nearest µm on either side (log 9). An edge of the same side closes it as a single detection at its snapshot, with the whole travel, and
opens a new one, whose snapshot is the one taken at the edge. The marker due is judged when a window closes. With the position UNKNOWN
an edge changes nothing (log 9). The travel since a snapshot, the motion after it alone, and the new window's snapshot from before the
re-anchor are the model's reading (DEDUCED, log 8). Of two snapshots in different sections the midpoint is not stated here. -/
def Obligations.MarkerEdgeOpensTheWindow : Prop :=
  ∀ (s : State) (side : ReaderSide), let d := s.dev
    let adv := ((d.advance).getD (0, 0)).1
    let snap := (d.carry d.odo.pos.point adv).last
    let opened : PairWindow := { side := side, snap := snap, travel := 0, part := adv, since := 0, net := 0 }
    (d.odo.active = true → d.odo.pos.validity ≠ .unknown → d.odo.window = none →
      exec (.markerEdge side) s = .next { s with dev := { d with odo := { d.odo with window := some opened } } })
    ∧ (∀ w, d.odo.active = true → d.odo.pos.validity ≠ .unknown → d.odo.window = some w →
      let way := w.since + (adv - w.part).natAbs
      let net := w.net + (adv - w.part)
      let apart : Int := if w.snap.dir = .towardB then (snap.offset : Int) - w.snap.offset else (w.snap.offset : Int) - snap.offset
      let inside (p : Point) : Prop := p.offset ≤ legLength d.tmp.sections p.sec p.leg
      ∃ (x : Detection) (n : Nat),
        let y : Dev := { d with odo := { d.odo with window := none }, freeCount := n }
        let z := (y.detect x).judgeDue
        x.net = net
        ∧ (w.side ≠ side → exec (.markerEdge side) s = .next { s with dev := z }
          ∧ x.paired = true ∧ way ≤ 2 * x.travel + 1 ∧ 2 * x.travel ≤ way + 1
          ∧ (w.snap.sec = snap.sec → w.snap.leg = snap.leg → w.snap.dir = snap.dir → inside w.snap → inside snap →
              trackBetween d.tmp.sections d.routeEntries w.snap snap = some apart →
              ∃ half : Nat, x.point = { w.snap with offset := half } ∧ w.snap.offset + snap.offset ≤ 2 * half + 1
                ∧ 2 * half ≤ w.snap.offset + snap.offset + 1))
        ∧ (w.side = side → n = d.freeCount ∧ x.paired = false ∧ x.side = side ∧ x.point = w.snap ∧ x.travel = way
          ∧ exec (.markerEdge side) s = .next { s with dev :=
              if z.odo.pos.validity = .unknown then z else { z with odo := { z.odo with window := some opened } } }))
    ∧ (d.odo.pos.validity = .unknown → exec (.markerEdge side) s = .next s)

/-- A closed detection: a paired one returns the unpaired count to 0, a single one adds to the count of its missing side up to 3, where
MARKER-READER is active, or starts that of the other side at 1. While a loss is pending nothing more happens. Else, with no marker of the
map within U of its point, UNEXPECTED-MARKER is active, U_anchor grows by U and the loss is pending. Else the marker matched is the
nearest, and of two at one distance the one ahead: the reference is placed at it carried by the travel since, with or against the net
motion, and the record is KNOWN with the marker tolerance, doubled for a single and no less than the pad's, as U_anchor, the travel since
as travelled, no disagreement, and U formed anew; the missed run is 0, unless a marker due before the one matched is now judged; CLE then
takes the anchor. U is the record's with the counts of the sample in progress, as the worked example of section 2.11 has it (DEDUCED, log
8). Which of two at one distance on one side is matched, and the way of the carry with travel but no net motion, are free (DESIGN CHOICE,
logs 10 and 11), and nothing is said of them here. -/
def Obligations.DetectionsAreMatched : Prop :=
  ∀ (d : Dev) (x : Detection), d.odo.pos.validity ≠ .unknown →
    let p := d.odo.pos; let c := d.countDetection x; let car := d.tmp.carriage
    let missing := otherSide x.side
    let growth := if d.odo.chA.failed = false ∧ d.odo.chB.failed = false then car.growth else 2 * car.growth
    let now := (d.advance).getD (0, 0)
    let u := min 10000000 (p.uAnchor + ((p.travelled + now.1.natAbs) * growth + 999) / 1000 + (p.disagreement + now.2 + 1) / 2)
    let found := markerCandidates d.tmp.sections d.routeEntries x.point u
    c.odo.pos = p
    ∧ (x.paired = true → c.odo.unpaired = 0)
    ∧ (x.paired = false → c.odo.missingSide = missing
        ∧ (d.odo.missingSide = missing ∨ d.odo.unpaired = 0 → c.odo.unpaired = min 3 (d.odo.unpaired + 1))
        ∧ (d.odo.missingSide ≠ missing → d.odo.unpaired ≠ 0 → c.odo.unpaired = 1)
        ∧ (c.odo.unpaired = 3 → c.faultActive .markerReader = true))
    ∧ (p.pendingLoss = true → d.detect x = c)
    ∧ (p.pendingLoss = false → found = [] → ∃ y : Dev, d.detect x = y.recompute now.1.natAbs now.2
        ∧ y.odo.pos = { p with uAnchor := p.uAnchor + u, pendingLoss := true } ∧ y.faultActive .unexpectedMarker = true)
    ∧ (∀ m ∈ found, m.dist ≤ u)
    ∧ (∀ m ∈ found, p.pendingLoss = false → (∀ n ∈ found, m.dist ≤ n.dist) →
        (∀ n ∈ found, n.dist = m.dist → n = m ∨ (m.ahead = true ∧ n.ahead = false)) → found.count m = 1 →
        (x.travel = 0 ∨ x.net ≠ 0) →
        let w := d.carry m.point (if x.net < 0 then -(x.travel : Int) else x.travel)
        let anchor := max (if x.paired then car.markerTol * 1000 else 2 * car.markerTol * 1000) (car.padTol * 1000)
        let unc := anchor + (x.travel * growth + 999) / 1000
        w.stop = .reached → unc < 10000000 → ∃ y : Dev, d.detect x = y.claimsAnchored ∧ y.odo.pos = { p with
          validity := .known, sec := w.last.sec, leg := w.last.leg, offset := w.last.offset, dir := w.last.dir, idx := w.last.idx
          uAnchor := anchor, travelled := x.travel, disagreement := 0, unc := unc }
        ∧ ((∀ n, d.odo.nextDue = some n → (if m.ahead then (m.dist : Int) else -(m.dist : Int)) - x.lead ≤ n.ahead) →
          y.odo.missedRun = 0))

/-- Presence becoming active is a pad edge. While ODO is inactive, or when presence does not become active, the levels alone are
kept (log 6). With an odd number of ones among the seven code lines PAD-CODE is active and the position stays as it is; with an even number
the pad number is kept, and with no order current the edge is counted as passed over and changes nothing else. -/
def Obligations.PadEdgeReadsTheCode : Prop :=
  ∀ (s : State) (presence : Bool) (lines : BitVec 7), let d := s.dev
    let ones : Nat := ((List.finRange 7).map (fun i => (lines.getLsb i).toNat)).sum
    let kept : Dev := { d with odo := { d.odo with padPresence := presence, padLines := lines } }
    (d.odo.active = false ∨ presence = false ∨ d.odo.padPresence = true →
      exec (.padEdge presence lines) s = .next { s with dev := kept })
    ∧ (d.odo.active = true → presence = true → d.odo.padPresence = false →
      ones % 2 = 1 →
        ∃ e : Dev, exec (.padEdge presence lines) s = .next { s with dev := e } ∧ e.odo = kept.odo
          ∧ e.faultActive .padCode = true ∧ e.stc = d.stc ∧ e.dkc = d.dkc ∧ e.cle = d.cle ∧ e.peers = d.peers)
    ∧ (d.odo.active = true → presence = true → d.odo.padPresence = false →
      ones % 2 = 0 → d.stc.order = none →
        exec (.padEdge presence lines) s = .next { s with dev :=
          ({ kept with odo := { kept.odo with padCode := lines.toNat % 64 } } : Dev).bump .edgesPassed })

/-- A pad edge of an even number of ones with an order current and the position held. The destination code in CREEP, in CORRECT, and in
IDLE while RUNNING has ODO anchor at the pad: the record is KNOWN at the pad point with U_anchor and U the pad anchor tolerance, nothing
travelled and no disagreement, pad anchored is set, CREEP becomes STOPPING, and CLE takes the anchor; the anchor is counted, and also as
one outside when the pad point lay farther from the snapshot than U. While a loss is pending the edge is refused and counted alone.
Another code in CREEP, STOPPING or CORRECT is a passing pad, counted alone, when a pad of that code lies on the route within U and the
tolerance of the snapshot; else WRONG-PAD is active and the docking ends, the order FAILED with it. Any other edge, and one with abort
taken or the position UNKNOWN, is passed over and counted. In each case the levels and the pad number are kept. (The snapshot where the
counts so far would carry it past a buffer is the model's choice, log 9, and the coordinate of one off the route log 30; a passing pad
counted alone is DEDUCED, log 49, and so is U with the counts of the sample in progress, log 8.) -/
def Obligations.PadEdgeAnchorsOrFails : Prop :=
  ∀ (s : State) (lines : BitVec 7) (o : Order), let d := s.dev; let c := d.tmp.carriage
    let ones : Nat := ((List.finRange 7).map (fun i => (lines.getLsb i).toNat)).sum
    d.odo.active = true → d.odo.padPresence = false → ones % 2 = 0 → d.stc.order = some o →
    let code := lines.toNat % 64
    let kept : Dev := { d with odo := { d.odo with padPresence := true, padLines := lines, padCode := code } }
    let now := (d.advance).getD (0, 0)
    let growth := if d.odo.chA.failed = false ∧ d.odo.chB.failed = false then c.growth else 2 * c.growth
    let u := min 10000000 (d.odo.pos.uAnchor + ((d.odo.pos.travelled + now.1.natAbs) * growth + 999) / 1000
      + (d.odo.pos.disagreement + now.2 + 1) / 2)
    let snap : Int := o.route.coord d.tmp.sections (d.carry d.odo.pos.point now.1).last
    let heeds : Prop := d.dkc.abortTaken = false ∧ d.odo.pos.validity ≠ .unknown
    let dest : Prop := d.dkc.dest = some code
    let takes : Prop := d.dkc.sub = .creep ∨ d.dkc.sub = .correct ∨ (d.dkc.sub = .idle ∧ d.stc.state = .running)
    let judges : Prop := d.dkc.sub = .creep ∨ d.dkc.sub = .stopping ∨ d.dkc.sub = .correct
    let does (e : Dev) : Prop := exec (.padEdge true lines) s = .next { s with dev := e }
    let passing : Prop := ∃ p, findPad d.tmp.pads code = some p ∧ ∃ en ∈ o.route.entries, en.sec = p.sec ∧ en.leg = p.leg
      ∧ (en.coord d.tmp.sections (p.offset * 1000) - snap).natAbs ≤ u + c.padTol * 1000
    (heeds → dest → takes → d.odo.pos.pendingLoss = false → ∀ p en, findPad d.tmp.pads o.pad = some p →
        o.route.entries[o.route.padIdx - 1]? = some en → c.padTol * 1000 < 10000000 →
        let record : PositionRec := { d.odo.pos with
          validity := .known, sec := p.sec, leg := p.leg, offset := p.offset * 1000, dir := if d.withRoute then en.dir else en.dir.flip
          idx := some o.route.padIdx, uAnchor := c.padTol * 1000, travelled := 0, disagreement := 0, unc := c.padTol * 1000 }
        ∃ due, let y : Dev := { kept with
            odo := { kept.odo with pos := record, nextDue := due }
            dkc := { d.dkc with anchored := true, sub := if d.dkc.sub = .creep then .stopping else d.dkc.sub }
            bdu := { d.bdu with dirLine := record.dir } }
          let e := (y.claimsAnchored).bump .anchorsAccepted
          does (if u < (snap - o.route.padCoord).natAbs then e.bump .anchorsOutside else e))
    ∧ (heeds → dest → takes → d.odo.pos.pendingLoss = true → does (kept.bump .anchorsRefused))
    ∧ (heeds → ¬dest → judges → passing → does (kept.bump .passingPads))
    ∧ (heeds → ¬dest → judges → ¬passing → ∃ e : Dev, does e ∧ e.faultActive .wrongPad = true ∧ e.stc.order = none
        ∧ e.stc.lastOrder = ⟨o.id, some .failed, some .wrongPad⟩ ∧ e.dkc.last = .failed .wrongPad ∧ e.bdu.clampDown = false
        ∧ e.bdu.clampUp = false ∧ e.peers = d.peers
        ∧ (d.stc.state ∈ [.running, .approach, .docking] → e.stc.state = .halted ∧ e.stc.remembered = some .rest))
    ∧ (¬heeds ∨ (dest ∧ ¬takes) ∨ (¬dest ∧ ¬judges) → does (kept.bump .edgesPassed))

/-! ### Receiving and sending on the line -/

/-- A frame that this part builds is one that this part receives: the bytes of any frame with a destination and a source below 256
and at most 60 payload bytes form a whole frame, pass the check, and give back the destination, the source, the kind and the
payload. -/
def Obligations.FrameBytesAreReadBack : Prop :=
  ∀ (dest src : Nat) (k : FrameKind) (p : List Byte), dest < 256 → src < 256 → p.length ≤ 60 →
    let b := frameBytes dest src k p
    frameWhole b = true ∧ frameCrcOk b = true ∧ byteAt b 0 = dest ∧ byteAt b 1 = src
      ∧ FrameKind.ofCode (byteAt b 2) = some k ∧ framePayload b = p

/-- What one carriage's beacon carries is what another reads: with values in their ranges, the payload built of a part's state passes
the layout check and gives back its signature, its section, offset, direction and flags, its speed, length and uncertainty, its held
list in table order, its intent's section and ticket, and its waiting-for. -/
def Obligations.BeaconIsReadBack : Prop :=
  ∀ d : Dev, d.cle.ok → (∀ e ∈ d.cle.table, 1 ≤ e.sec ∧ e.sec ≤ 240) → d.odo.pos.sec ≤ 240 → d.odo.pos.offset / 1000 < 2 ^ 24 →
    d.tmp.carriage.length < 65536 → d.odo.pos.unc ≤ Config.uncertaintyCap → d.beaconTicket.loss ≤ 15 → d.beaconTicket.priority ≤ 3 →
    d.cle.waitingFor.2 ≤ 32 → d.beaconTicket.station = d.station →
    let b := readBeacon d.beaconPayload
    layoutOk .beacon d.beaconPayload = true ∧ b.signature = d.tmp.signature
      ∧ (d.odo.pos.validity ≠ .unknown → b.sec = d.odo.pos.sec ∧ b.offset = d.odo.pos.offset / 1000
          ∧ b.unc = (d.odo.pos.unc + 999) / 1000)
      ∧ (d.odo.pos.validity = .unknown → b.sec = 0 ∧ b.offset = 0 ∧ b.unc = 0)
      ∧ b.dir = d.odo.pos.dir ∧ b.restricted = (d.odo.pos.validity == .restricted) ∧ b.overspeedWarn = d.sup.warnFlag
      ∧ b.speed = min d.odo.vMeas 65535 ∧ b.length = d.tmp.carriage.length
      ∧ b.held = d.cle.heldSections ∧ b.intentSec = ((d.cle.contention.map (·.1)).getD 0)
      ∧ Ticket.ofByte b.ticketByte d.station = d.beaconTicket ∧ (b.waitSec, b.waitPeer) = d.cle.waitingFor

/-- A received frame that passes the five checks of R166 is placed at the mailbox's end and counted, the line quiet timer starts again at
Tq, and nothing else changes while LINE-QUIET is not raised; with LINE-QUIET raised, its cause has ended. A whole frame fails the checks
of R166 in their order: a wrong check counts a CRC error, an unknown kind or a wrong layout counts a format error, a frame for another
station is valid and dropped, and a valid frame that finds 16 in the mailbox is lost and counted. The mailbox stays as it is. Any of the
three events that abandon a frame makes an active receiver DISCARDING and counts a format error; while it is DISCARDING no frame is taken
and no further event counts, until the line has been idle for 10 bit times. The receiver that has seen no idle line since its activation
takes no frame and counts nothing either, and begins to receive at the idle line. Nothing else changes. -/
def Obligations.ReceivedFramesAreJudged : Prop :=
  (∀ (s : State) (dest src : Nat) (k : FrameKind) (p : List Byte), let d := s.dev
      d.lif.active = true → d.lif.awaitIdle = false → d.lif.rx ≠ .discarding → d.lif.tx ≠ .sending →
      dest < 256 → src < 256 → p.length ≤ 60 → layoutOk k p = true → (dest = 0 ∨ dest = d.station) → d.lif.mailbox.length < 16 →
      ∃ f : Frame, f.dest = dest ∧ f.src = src ∧ f.kind = k ∧ f.payload = p ∧
        let timer : Timer := some (d.now + d.tmp.plan.quietTime * 1000)
        let l : Lif := { d.lif with rx := .idle, quietTimer := timer, mailbox := d.lif.mailbox ++ [f] }
        (d.lif.quiet = false →
          exec (.frameReceive (frameBytes dest src k p)) s = .next { s with dev := ({ d with lif := l } : Dev).bump .goodFrames })
        ∧ (d.lif.quiet = true →
          ∃ e : Dev, exec (.frameReceive (frameBytes dest src k p)) s = .next { s with dev := e } ∧ e.lif.quiet = false
            ∧ e.lif.quietTimer = timer ∧ e.lif.mailbox = d.lif.mailbox ++ [f] ∧ e.faultActive .lineQuiet = false))
  ∧ (∀ (s : State) (cause : AbandonCause) (b : List Byte), let d := s.dev
      (d.lif.active = true → d.lif.awaitIdle = false → d.lif.rx ≠ .discarding → d.lif.tx ≠ .sending → frameWhole b = true →
      let idle : Dev := { d with lif := { d.lif with rx := .idle } }
      let heard : Dev := { d with lif := { d.lif with rx := .idle, quietTimer := some (d.now + d.tmp.plan.quietTime * 1000) } }
      let good (k : FrameKind) : Prop :=
        frameCrcOk b = true ∧ FrameKind.ofCode (byteAt b 2) = some k ∧ layoutOk k (framePayload b) = true ∧ d.lif.quiet = false
      (frameCrcOk b = false → exec (.frameReceive b) s = .next { s with dev := idle.bump .crcErrors })
      ∧ (frameCrcOk b = true → FrameKind.ofCode (byteAt b 2) = none →
          exec (.frameReceive b) s = .next { s with dev := idle.bump .formatErrors })
      ∧ (∀ k, frameCrcOk b = true → FrameKind.ofCode (byteAt b 2) = some k → layoutOk k (framePayload b) = false →
          exec (.frameReceive b) s = .next { s with dev := idle.bump .formatErrors })
      ∧ (∀ k, good k → byteAt b 0 ≠ 0 → byteAt b 0 ≠ d.station →
          exec (.frameReceive b) s = .next { s with dev := heard.bump .goodFrames })
      ∧ (∀ k, good k → (byteAt b 0 = 0 ∨ byteAt b 0 = d.station) → 16 ≤ d.lif.mailbox.length →
          exec (.frameReceive b) s = .next { s with dev := (heard.bump .goodFrames).bump .rxOverflow }))
      ∧ (d.lif.active = true → d.lif.awaitIdle = false → d.lif.rx ≠ .discarding →
        exec (.frameAbandoned cause) s = .next { s with dev :=
          ({ d with lif := { d.lif with rx := .discarding } } : Dev).bump .formatErrors })
      ∧ (d.lif.active = false ∨ d.lif.awaitIdle = true ∨ d.lif.rx = .discarding →
        exec (.frameAbandoned cause) s = .next s ∧ exec (.frameReceive b) s = .next s)
      ∧ (d.lif.rx = .discarding → exec .lineIdle s = .next { s with dev := { d with lif := { d.lif with rx := .idle, awaitIdle := false } } })
      ∧ (d.lif.rx ≠ .discarding → exec .lineIdle s = .next { s with dev := { d with lif := { d.lif with awaitIdle := false } } }))

/-- When the line is idle and the transmitter waits, the first frame of the queue is driven onto the line in its envelope, a BEACON's
payload built now from the values that R169 names; the receiver is RECEIVING, as at any start bit (log 21), and awaits no idle line any
more; the queue is otherwise as it was. A frame sent without a collision leaves the queue and is counted, the receiver is IDLE (log 21),
and the transmitter goes on to WAITING when the queue holds another frame and to IDLE otherwise. Of an INTENT, the window of the
CONTENDING entry that queued it starts at Tw. Nothing else changes at either event. -/
def Obligations.FramesAreSent : Prop :=
  (∀ (s : State) (x : TxEntry) (rest : List TxEntry), let d := s.dev
      d.lif.tx = .waiting → d.lif.queue = x :: rest →
      exec .transmitStart s = .next { s with dev := { d with lif := { d.lif with
        tx := .sending, rx := .receiving, awaitIdle := false, queue := { x with sending := true } :: rest
        sending := frameBytes x.dest d.station x.kind (if x.kind = .beacon then d.beaconPayload else x.payload) } } })
  ∧ (∀ (s : State) (x : TxEntry) (pre post : List TxEntry), let d := s.dev
      d.lif.tx = .sending → d.lif.queue = pre ++ x :: post → x.sending = true → (∀ y ∈ pre ++ post, y.sending = false) →
      let l : Lif := { d.lif with
        tx := if (pre ++ post).isEmpty then .idle else .waiting, rx := .idle, sending := [], queue := pre ++ post }
      let sent : Dev := ({ d with lif := l } : Dev).bump .framesSent
      let window : Timer := some (d.now + d.tmp.plan.claimWindow * 1000)
      (x.kind ≠ .intent ∨ x.tag = none → exec .frameSent s = .next { s with dev := sent })
      ∧ (∀ tag, x.kind = .intent → x.tag = some tag →
        exec .frameSent s = .next { s with dev := { sent with cle := { d.cle with table := d.cle.table.map (fun c =>
          match c.state with
          | .contending t g _ => if g = tag then { c with state := .contending t g window } else c
          | .wanted _ | .blocked _ _ _ | .held _ _ => c) } } }))

/-- Queuing a frame. With room it stands after every frame of its class and of the classes before it, a BEACON while one is queued being
counted as coalesced alone. In a full queue a frame of class 0 or 1 takes the place of the newest class 3 frame, else of the BEACON, and a
BEACON that of the newest class 3 frame, one being sent never giving way; where none gives way, and for a frame of class 3, the arriving
frame is dropped. One of the two is lost, which is counted. An IDLE transmitter enters WAITING, the other frames keep their order, and
nothing else changes. While LIF is inactive the frame is dropped without count. The answer is whether the frame was not dropped. -/
def Obligations.FullQueueEvictsOrDrops : Prop :=
  ∀ (d : Dev) (kind : FrameKind) (dest : Nat) (payload : List Byte) (tag : Option Nat), let q := d.lif.queue; let n := kind.txClass
    let mine : TxEntry := { kind := kind, dest := dest, payload := payload, attempts := 0, tag := tag, sending := false }
    let put (l : List TxEntry) : Dev := { d with lif := { d.lif with
      queue := l.takeWhile (fun x => decide (x.kind.txClass ≤ n)) ++ mine :: l.dropWhile (fun x => decide (x.kind.txClass ≤ n))
      tx := if d.lif.tx = .idle then .waiting else d.lif.tx } }
    let answer := d.enqueue kind dest payload tag
    let report (x : TxEntry) : Prop := x.kind.txClass = 3 ∧ x.sending = false
    let beacon (x : TxEntry) : Prop := x.kind = .beacon ∧ x.sending = false
    let evicted (p : TxEntry → Prop) : Prop := ∀ pre x post, q = pre ++ x :: post → p x → (∀ y ∈ post, ¬p y) →
      answer = ((put (pre ++ post)).bump .queueDrops, true)
    (d.lif.active = false → answer = (d, false))
    ∧ (d.lif.active = true → kind = .beacon → (∃ x ∈ q, x.kind = .beacon) → answer = (d.bump .coalescedBeacons, true))
    ∧ (d.lif.active = true → (kind = .beacon → ∀ x ∈ q, x.kind ≠ .beacon) → q.length < 8 → answer = (put q, true))
    ∧ (d.lif.active = true → (kind = .beacon → ∀ x ∈ q, x.kind ≠ .beacon) → 8 ≤ q.length →
      (n ≤ 2 → evicted report)
      ∧ (n ≤ 1 → (∀ x ∈ q, ¬report x) → evicted beacon)
      ∧ (n ≤ 1 → (∀ x ∈ q, ¬report x ∧ ¬beacon x) → answer = (d.bump .queueDrops, false))
      ∧ (n = 2 → (∀ x ∈ q, ¬report x) → answer = (d.bump .queueDrops, false))
      ∧ (n = 3 → answer = (d.bump .queueDrops, false)))

/-- A collision while SENDING counts, advances the backoff generator one step and starts the backoff timer at 512 µs for each slot of
bits 1 to 4 plus one; the receiver stays as it is (log 21). Up to the third collision of a frame it keeps its place with its attempt
count raised; at the fourth it leaves the queue and TX-DROP counts, and for a frame that is no INTENT, or an INTENT of no CONTENDING
entry, nothing else changes. Of an INTENT dropped so, the CONTENDING entry is WANTED and examined at once: with claiming stopped it
leaves the table, with LINE-QUIET raised it stays WANTED and the queue as it is, with a blocker that waits for nothing it is BLOCKED,
and with none it contends anew when the queue has room. -/
def Obligations.CollisionBacksOff : Prop :=
  ∀ (s : State) (x : TxEntry) (pre post : List TxEntry), let d := s.dev
    d.lif.tx = .sending → d.lif.queue = pre ++ x :: post → x.sending = true → (∀ y ∈ pre ++ post, y.sending = false) →
    let r := d.lif.lfsr
    let r' : BitVec 16 := (r <<< 1) ||| BitVec.ofNat 16 (r.getLsbD 15 ^^ r.getLsbD 13 ^^ r.getLsbD 12 ^^ r.getLsbD 10).toNat
    let l : Lif := { d.lif with
      tx := .backoff, lfsr := r', backoffTimer := some (d.now + (r'.toNat % 16 + 1) * 512), sending := [] }
    let dropped : Dev := (({ d with lif := { l with queue := pre ++ post } } : Dev).bump .collisions).bump .txDrops
    (x.attempts < 3 → exec .collision s = .next { s with dev := ({ d with lif := { l with
      queue := pre ++ { x with attempts := x.attempts + 1, sending := false } :: post } } : Dev).bump .collisions })
    ∧ (3 ≤ x.attempts → (x.kind ≠ .intent ∨ ∀ c ∈ d.cle.table, ∀ t g w, x.tag = some g → c.state ≠ .contending t g w) →
      exec .collision s = .next { s with dev := dropped })
    ∧ (∀ c ∈ d.cle.table, ∀ t g w, 3 ≤ x.attempts → x.kind = .intent → x.tag = some g → c.state = .contending t g w → d.cle.ok →
      ∃ e : Dev, exec .collision s = .next { s with dev := e }
        ∧ (d.claimingStopped = true → e.cle.entry c.sec = none)
        ∧ (d.claimingStopped = false → d.lif.quiet = true → e.cle.entry c.sec = some { c with state := .wanted false }
          ∧ e.lif = dropped.lif ∧ (d.cle.deadlock = none → e.counters = (dropped.bump .intentsDropped).counters))
        ∧ (∀ p b, d.claimingStopped = false → d.lif.quiet = false → d.blocked c.sec = some (p, b) →
          (∀ q, d.peer p = some q → q.waiting = none) → e.cle.entry c.sec = some { c with state := .blocked p b none })
        ∧ (d.claimingStopped = false → d.lif.quiet = false → d.blocked c.sec = none → dropped.lif.hasRoom →
          ∃ tag, e.cle.entry c.sec = some { c with state := .contending d.currentTicket tag none }
            ∧ ∃ y ∈ e.lif.queue, y.kind = .intent ∧ y.tag = some tag))

/-- When the backoff timer runs out the transmitter enters WAITING, or IDLE when the queue is empty, and nothing else changes. At each
expiry the beacon timer starts again at Tb and a BEACON to all is queued after the frames of class 0 to 2 when the queue has room for it
and holds none; with one queued already a coalesced beacon is counted and the queue stays. Nothing else changes but that an IDLE
transmitter enters WAITING. At its expiry the line quiet timer stops and LINE-QUIET is active, and the claims, the position, the peers,
the supervision and the map are as they were. The line keeps its mailbox, its receiver, its other timers, the frame being sent and every
frame queued; only the report joins the queue, which wakes an idle transmitter, and a link test ends where the station leaves STANDING or
PARKED. -/
def Obligations.LineTimersExpire : Prop :=
  (∀ s : State, let d := s.dev
      (d.lif.tx = .backoff → d.due d.lif.backoffTimer = true →
      exec .backoffExpiry s = .next { s with dev := { d with lif := { d.lif with
        tx := if d.lif.queue.isEmpty then .idle else .waiting, backoffTimer := none } } })
      ∧ (d.lif.active = true → d.due d.lif.beaconTimer = true →
      let timer : Timer := some (d.now + d.tmp.plan.beaconPeriod * 1000)
      (d.lif.queue.any (fun x => x.kind == .beacon) = true →
        exec .beaconTimerExpiry s = .next { s with dev :=
          ({ d with lif := { d.lif with beaconTimer := timer } } : Dev).bump .coalescedBeacons })
      ∧ (d.lif.queue.any (fun x => x.kind == .beacon) = false → d.lif.queue.length < 8 →
        let mine : TxEntry := { kind := .beacon, dest := 0, payload := [], attempts := 0, tag := none, sending := false }
        exec .beaconTimerExpiry s = .next { s with dev := { d with lif := { d.lif with
          beaconTimer := timer
          queue := d.lif.queue.takeWhile (fun x => decide (x.kind.txClass ≤ 2)) ++
            mine :: d.lif.queue.dropWhile (fun x => decide (x.kind.txClass ≤ 2))
          tx := if d.lif.tx = .idle then .waiting else d.lif.tx } } })))
  ∧ (∀ s : State, let d := s.dev
      d.due d.lif.quietTimer = true →
      ∃ e : Dev, exec .lineQuietExpiry s = .next { s with dev := e } ∧ e.faultActive .lineQuiet = true
        ∧ e.lif = { d.lif with
            quietTimer := none, quiet := true, queue := e.lif.queue, tx := e.lif.tx, test := e.lif.test }
        ∧ (∀ y ∈ d.lif.queue, y ∈ e.lif.queue)
        ∧ (∀ y ∈ e.lif.queue, y ∈ d.lif.queue ∨ (y.kind = .faultReport ∧ y.dest = 0))
        ∧ (d.faultActive .lineQuiet = false → d.lif.hasRoom → ∃ y ∈ e.lif.queue, y.kind = .faultReport ∧ y.dest = 0)
        ∧ (e.lif.tx = d.lif.tx ∨ (d.lif.tx = .idle ∧ e.lif.tx = .waiting))
        ∧ (d.stc.state ∉ [.running, .approach, .docking] → e.lif.test = d.lif.test)
        ∧ e.cle = d.cle ∧ e.odo = d.odo ∧ e.peers = d.peers ∧ e.sup = d.sup ∧ e.tmp = d.tmp ∧ e.mnp = d.mnp)

/-! ### Frames of the peers -/

/-- A peer's report that is dispatched leaves the mailbox. From a source outside 1..32 it counts a bad source, from this station's
own number it makes ECHO-ID active, and from a station not heard before it makes that station's record, in ascending number; from a
record of another kind it counts a kind conflict, and the record is heard all the same; from a FRESH one nothing else changes. A
carriage's own record is heard: FRESH and not frozen, with the age timer restarted and one more frame heard, whatever its freshness
before, and from a FRESH one nothing else changes. -/
def Obligations.DispatchChecksTheSource : Prop :=
  ∀ (s : State) (f : Frame) (rest : List Frame), let d := s.dev
    d.lif.mailbox = f :: rest → f.isPeerReport = true → d.peersOk →
    let left : Dev := { d with lif := { d.lif with mailbox := rest } }
    let made : PeerRec := PeerRec.fresh f.src .carriage d.now
    let before (r : PeerRec) : Bool := decide (r.station ≤ f.src)
    let grown : Dev := { left with peers := d.peers.takeWhile before ++ made :: d.peers.dropWhile before }
    (f.src = 0 ∨ 32 < f.src → exec .peerReportFrame s = .next { s with dev := left.bump .badSource })
    ∧ (1 ≤ f.src → f.src ≤ 32 → f.src = d.station → ∃ e : Dev, exec .peerReportFrame s = .next { s with dev := e }
        ∧ e.faultActive .echoId = true ∧ e.peers = d.peers ∧ e.cle = d.cle ∧ e.stc = d.stc ∧ e.lif.mailbox = rest)
    ∧ (1 ≤ f.src → f.src ≤ 32 → f.src ≠ d.station → d.peer f.src = none →
        exec .peerReportFrame s = .next { s with dev := grown.bump .recordsMade })
    ∧ (∀ r, 1 ≤ f.src → f.src ≤ 32 → f.src ≠ d.station → d.peer f.src = some r → r.kind ≠ .carriage → r.freshness = .fresh →
        let heard := d.peers.map (fun x => if x.station = f.src then
          { r with heardAt := d.now, framesHeard := satInc r.framesHeard } else x)
        exec .peerReportFrame s = .next { s with dev := ({ left with peers := heard } : Dev).bump .kindConflict })
    ∧ (∀ r, 1 ≤ f.src → f.src ≤ 32 → f.src ≠ d.station → d.peer f.src = some r → r.kind = .carriage →
        let heard := d.peers.map (fun x => if x.station = f.src then
          { r with heardAt := d.now, framesHeard := satInc r.framesHeard, freshness := .fresh, frozen := false } else x)
        (∃ e : Dev, exec .peerReportFrame s = .next { s with dev := e } ∧ e.peers = heard ∧ e.lif.mailbox = rest ∧ e.tmp = d.tmp)
        ∧ (r.freshness = .fresh → exec .peerReportFrame s = .next { s with dev := { left with peers := heard } }))

/-- A BEACON with at most 8 held sections replaces in its sender's record the signature with the plan match, the position, speed,
length and uncertainty, the flags, the state and fault bytes, the ticket, the held list, the intent with its timer at 2 × Tw and the
waiting-for; one with more leaves these as they were, and from a FRESH record nothing changes but that the record is heard and a
malformed beacon is counted. No other record changes. That the claims stay as they are also at a malformed BEACON of a STALE or LOST
record is the model's reading of R42 against R55 (DEDUCED, log 58). -/
def Obligations.BeaconReplacesTheRecord : Prop :=
  ∀ (s : State) (f : Frame) (rest : List Frame), let d := s.dev; let b := readBeacon f.payload
    d.passes f rest → f.kind = .beacon → d.peersOk →
    (byteAt f.payload 19 ≤ 8 → ∃ (e : Dev) (r : PeerRec), exec .beacon s = .next { s with dev := e } ∧ e.peer f.src = some r
      ∧ r.kind = .carriage ∧ r.freshness = .fresh ∧ r.heardAt = d.now ∧ r.frozen = false
      ∧ r.signature = some b.signature ∧ r.foreign = (b.signature != d.tmp.signature) ∧ r.beaconSeen = true
      ∧ (r.sec, r.offset, r.dir, r.speed, r.length, r.unc) = (b.sec, b.offset, b.dir, b.speed, b.length, b.unc)
      ∧ (r.restricted, r.overspeedWarn, r.stateByte, r.faultByte) =
          (b.restricted, b.overspeedWarn, some b.stateByte, some b.faultByte)
      ∧ r.ticket = Ticket.ofByte b.ticketByte f.src ∧ r.held = b.held
      ∧ r.intent = (if b.intentSec = 0 then none
          else some ⟨b.intentSec, Ticket.ofByte b.ticketByte f.src, d.now + 2 * d.tmp.plan.claimWindow * 1000⟩)
      ∧ r.waiting = (if b.waitSec = 0 then none else some (b.waitSec, b.waitPeer))
      ∧ (∀ n, n ≠ f.src → e.peer n = d.peer n) ∧ e.lif.mailbox = rest)
    ∧ (8 < byteAt f.payload 19 → ∀ r, d.peer f.src = some r →
      let heard : PeerRec := { r with heardAt := d.now, framesHeard := satInc r.framesHeard, freshness := .fresh, frozen := false }
      (∃ e : Dev, exec .beacon s = .next { s with dev := e } ∧ e.peer f.src = some heard ∧ (∀ n, n ≠ f.src → e.peer n = d.peer n)
        ∧ e.cle = d.cle)
      ∧ (r.freshness = .fresh → exec .beacon s = .next { s with dev := ({ d with
          lif := { d.lif with mailbox := rest }
          peers := d.peers.map (fun x => if x.station = f.src then heard else x) } : Dev).bump .beaconMalformed }))

/-- What a BEACON from a FRESH record does to this station's claims. When it shows the CONTENDING section in its held list, or else
under its sender's footprint, and no HELD section clashes and its sender waits for nothing, the entry is BLOCKED by its sender on that
basis with its backoff running, and the loss count has risen. A clash on one HELD entry with no front entry: with the position UNKNOWN
or both footprints on the section OCCUPANCY-CONFLICT is active; with this station's alone, or neither's and the lower number, the table
stays and the TAKEN is queued when there is room; else the entry is HELD no more, and an entry off the route leaves the table. A BLOCKED
front entry, its backoff running, whose blocker waits for a HELD section under this station's footprint with a ticket that this
station's does not outrank: DEADLOCK is active for that blocker, and the table stays. -/
def Obligations.BeaconActsOnTheClaims : Prop :=
  ∀ (s : State) (f : Frame) (rest : List Frame), let d := s.dev; let b := readBeacon f.payload
    d.passes f rest → f.kind = .beacon → d.peersOk → d.cle.ok → byteAt f.payload 19 ≤ 8 →
    (d.peer f.src).any (fun r => r.freshness == .fresh) = true →
    let there := if b.sec = 0 then [] else peerSections d.tmp.sections b.sec b.offset b.dir b.length b.unc
    let backoff : Timer := some (d.now + d.tmp.plan.claimWindow * (1 + d.station % 4) * 1000)
    let result (p : Dev → Prop) : Prop := ∃ e : Dev, exec .beacon s = .next { s with dev := e } ∧ p e
    let clear (c : Claim) : Prop := ∀ y ∈ d.cle.table, y ≠ c → y.isHeld = true → y.sec ∉ b.held
    let theirs := Ticket.ofByte b.ticketByte f.src
    (∀ c ∈ d.cle.table, ∀ t g w, c.state = .contending t g w → clear c → b.waitSec = 0 → (c.sec ∈ b.held ∨ c.sec ∈ there) →
      let basis : BlockBasis := if c.sec ∈ b.held then .held else .occupied
      result (fun e => e.cle.entry c.sec = some { c with state := .blocked f.src basis backoff }
        ∧ e.cle.lossCount = min 15 (d.cle.lossCount + 1)))
    ∧ (∀ c ∈ d.cle.table, ∀ h t, c.state = .held h t → clear c → c.sec ∈ b.held → d.cle.front = none →
      let mine := d.underOwn c.sec
      let conflict : Prop := d.odo.pos.validity = .unknown ∨ (mine = true ∧ c.sec ∈ there)
      let stays : Prop := ¬conflict ∧ (mine = true ∨ (c.sec ∉ there ∧ d.station < f.src))
      (conflict → result (fun e => e.faultActive .occupancyConflict = true))
      ∧ (stays → result (fun e => e.cle.table = d.cle.table
          ∧ (d.lif.hasRoom → (b.signature = d.tmp.signature) →
            ∃ y ∈ e.lif.queue, y.kind = .taken ∧ y.dest = 0 ∧ y.payload = [BitVec.ofNat 8 c.sec, t.toByte])))
      ∧ (¬conflict → ¬stays → result (fun e => e.cle.holds c.sec = false ∧ (c.idx = none → e.cle.entry c.sec = none))))
    ∧ (∀ c ∈ d.cle.table, ∀ h w, c.state = .blocked f.src h (some w) → h ≠ .intent → (∀ y ∈ d.cle.table, y.isHeld = true → y.sec ∉ b.held) →
      (∀ y ∈ d.cle.table, y.isHeld = true → y.sec = b.waitSec → b.waitSec ≠ 0 → b.waitPeer = d.station → d.underOwn y.sec = true →
        d.currentTicket.outranks theirs = false →
        result (fun e => e.faultActive .deadlock = true ∧ e.cle.deadlock = some f.src ∧ e.cle.table = d.cle.table)))

/-- What this station gives back at a BEACON of a FRESH peer that shows a section it holds, or that its blocker waits for. A clash that it
yields on a route entry, with no other peer in view of that section and no peer that waits for one: that entry and every later route entry
are HELD no more, but for those under the footprint (log 16), and those still in the table have their points UNREQUESTED; the entry is
BLOCKED by the peer with no backoff, and the loss count stays; when it lies within the stopping distance of the last evaluation (log 17)
AUTHORITY-WITHDRAWN is active instead. At a mutual wait that it is to yield, a HELD route entry off the footprint, beyond the stopping
distance and before the BLOCKED front entry is BLOCKED by that peer with basis INTENT and its backoff running, every later one off the
footprint HELD no more, and the loss count has risen; an entry off the route leaves the table. One RELEASE names all that were HELD, in
table order, when the queue has room. -/
def Obligations.BeaconMakesThisStationYield : Prop :=
  ∀ (s : State) (f : Frame) (rest : List Frame) (c y : Claim) (h : ClaimBasis) (t : Ticket), let d := s.dev; let b := readBeacon f.payload
    d.passes f rest → f.kind = .beacon → d.peersOk → d.cle.ok → byteAt f.payload 19 ≤ 8 → (b.signature = d.tmp.signature) →
    (d.peer f.src).any (fun r => r.freshness == .fresh) = true → d.claimingStopped = false → d.lif.quiet = false →
    d.odo.pos.validity ≠ .unknown → y ∈ d.cle.table → y.state = .held h t → d.underOwn y.sec = false → d.cle.deadlock = none →
    (∀ k, y.idx = some k → ∀ x ∈ d.cle.table, x.idx = some k → x = y) →
    let there := if b.sec = 0 then [] else peerSections d.tmp.sections b.sec b.offset b.dir b.length b.unc
    let backoff : Timer := some (d.now + d.tmp.plan.claimWindow * (1 + d.station % 4) * 1000)
    let result (p : Dev → Prop) : Prop := ∃ e : Dev, exec .beacon s = .next { s with dev := e } ∧ p e
    let goes (k : Nat) (x : Claim) : Bool := x.isHeld && x.idx.any (fun j => decide (k ≤ j)) && !d.underOwn x.sec
    let released (l : List Claim) (e : Dev) : Prop := d.lif.hasRoom → ∃ x ∈ e.lif.queue, x.kind = .release ∧ x.dest = 0
      ∧ x.payload = BitVec.ofNat 8 l.length :: l.map (fun z => BitVec.ofNat 8 z.sec)
    let back (st : ClaimState) : Claim := { y with state := st, points := .unrequested, pointsTimer := none, rerequestTimer := none }
    (∀ k, y.idx = some k → (∀ x ∈ d.cle.table, x.isHeld = true → x.sec ∈ b.held → x = y) → y.sec ∈ b.held → b.waitSec = 0 →
      (y.sec ∈ there ∨ f.src < d.station) → d.cle.front = none →
      (∀ r ∈ d.peers, r.waiting = none ∧ (r.station ≠ f.src → d.blockBasis r y.sec = none)) →
      (d.withinStopping y = true → result (fun e => e.faultActive .authorityWithdrawn = true))
      ∧ (d.withinStopping y = false → result (fun e => released (d.cle.table.filter (goes k)) e ∧ e.cle.lossCount = d.cle.lossCount
        ∧ e.cle.entry y.sec = some (back (.blocked f.src .held none))
        ∧ ∀ x ∈ d.cle.table, goes k x = true → ∃ z, e.cle.entry x.sec = some z ∧ z.isHeld = false ∧ z.points = .unrequested)))
    ∧ (∀ basis w, c ∈ d.cle.table → c.state = .blocked f.src basis (some w) → basis ≠ .intent →
      (∀ x ∈ d.cle.table, x.isHeld = true → x.sec ∉ b.held) → y.sec = b.waitSec → b.waitSec ≠ 0 → b.waitPeer = d.station →
      d.beyondStopping y = true → d.currentTicket.outranks (Ticket.ofByte b.ticketByte f.src) = false →
      (∀ k, y.idx = some k → (∀ j, c.idx = some j → k < j) → result (fun e => released (d.cle.table.filter (goes k)) e
        ∧ e.cle.lossCount = min 15 (d.cle.lossCount + 1) ∧ e.cle.entry y.sec = some (back (.blocked f.src .intent backoff))
        ∧ ∀ x ∈ d.cle.table, goes k x = true → x ≠ y → ∃ z, e.cle.entry x.sec = some z ∧ z.isHeld = false ∧ z.points = .unrequested))
      ∧ (y.idx = none → result (fun e => released [y] e ∧ e.cle.lossCount = min 15 (d.cle.lossCount + 1)
        ∧ e.cle.table = d.cle.table.filter (fun x => x.sec != y.sec))))

/-- A RELEASE takes each section that it names out of the sender's held list, the others keeping their order, and passes over the sections
that are not there; the intent, the position and the waiting-for stay. When a section was removed, the Claim Engine takes the view-changed
event; otherwise nothing else changes. The event examines a BLOCKED front entry whose backoff is stopped: with claiming stopped it leaves
the table, with LINE-QUIET raised it is WANTED, with a blocker, while no peer waits for a section, it is BLOCKED by that one, and with
none it is CONTENDING with the current ticket, its INTENT being queued to all when there is room. With the backoff running, and for any
other front entry or none, the event changes nothing. -/
def Obligations.ReleaseRemovesFromTheHeldList : Prop :=
  ∀ (s : State) (f : Frame) (rest : List Frame) (r : PeerRec), let d := s.dev
    d.passes f rest → f.kind = .release → d.peer f.src = some r → d.peersOk →
    let named := ((f.payload.drop 1).take (byteAt f.payload 0)).map (·.toNat)
    let r' : PeerRec := { r with heardAt := d.now, framesHeard := satInc r.framesHeard, freshness := .fresh, frozen := false
                                 held := r.held.filter (fun n => !named.contains n) }
    let heard := d.peers.map (fun x => if x.station = f.src then r' else x)
    let taken : Dev := { d with lif := { d.lif with mailbox := rest }, peers := heard }
    (∃ e : Dev, exec .release s = .next { s with dev := e } ∧ e.peer f.src = some r' ∧ (∀ n, n ≠ f.src → e.peer n = d.peer n))
    ∧ ((∃ n ∈ r.held, n ∈ named) → ∃ x : Dev, x.peer f.src = some r' ∧ exec .release s = .next { s with dev := x.onViewChanged })
    ∧ (r.freshness = .fresh → (∃ n ∈ r.held, n ∈ named) → exec .release s = .next { s with dev := taken.onViewChanged })
    ∧ (r.freshness = .fresh → (∀ n ∈ r.held, n ∉ named) → exec .release s = .next { s with dev := taken })
    ∧ (∀ (x : Dev) (c : Claim) (p : Nat) (b : BlockBasis), let e := x.onViewChanged
      x.cle.ok → x.cle.front = some c → c.state = .blocked p b none →
      (x.claimingStopped = true → e.cle.entry c.sec = none)
      ∧ (x.claimingStopped = false → x.lif.quiet = true → e.cle.entry c.sec = some { c with state := .wanted false })
      ∧ (∀ p' b', x.claimingStopped = false → x.lif.quiet = false → x.blocked c.sec = some (p', b') →
        (∀ q ∈ x.peers, q.waiting = none) → e.cle.entry c.sec = some { c with state := .blocked p' b' none })
      ∧ (x.claimingStopped = false → x.lif.quiet = false → x.blocked c.sec = none → x.lif.hasRoom →
        ∃ tag, e.cle.entry c.sec = some { c with state := .contending x.currentTicket tag none }
          ∧ ∃ y ∈ e.lif.queue, y.kind = .intent ∧ y.dest = 0 ∧ y.tag = some tag
              ∧ y.payload = [BitVec.ofNat 8 c.sec, x.currentTicket.toByte]))
    ∧ (∀ x : Dev, (∀ c p b, x.cle.front = some c → c.state ≠ .blocked p b none) → x.onViewChanged = x)

/-- A TAKEN puts its section at the end of the sender's held list when it is not there, the first section of a list of 8 giving way,
clears an intent for that section and gives the record its ticket. An INTENT becomes its sender's intent with its ticket and a timer
at 2 × Tw, in place of any stored before. Nothing else of the record changes but that it is heard, and no other record changes. -/
def Obligations.TakenAndIntentUpdateTheRecord : Prop :=
  ∀ (s : State) (f : Frame) (rest : List Frame) (r : PeerRec), let d := s.dev; let sec := byteAt f.payload 0
    d.passes f rest → d.peer f.src = some r → d.peersOk →
    let t : Ticket := Ticket.ofByte (f.payload.getD 1 0) f.src
    let heard : PeerRec := { r with
      heardAt := d.now, framesHeard := satInc r.framesHeard, freshness := .fresh, frozen := false }
    (f.kind = .taken → ∃ (e : Dev) (held : List Nat) (intent : Option PeerIntent), exec .taken s = .next { s with dev := e }
      ∧ e.peer f.src = some { heard with held := held, intent := intent, ticket := t }
      ∧ (sec ∈ r.held → held = r.held) ∧ (sec ∉ r.held → r.held.length < 8 → held = r.held ++ [sec])
      ∧ (sec ∉ r.held → 8 ≤ r.held.length → held = r.held.drop 1 ++ [sec])
      ∧ ((∃ i, r.intent = some i ∧ i.sec = sec) → intent = none)
      ∧ ((∀ i, r.intent = some i → i.sec ≠ sec) → intent = r.intent)
      ∧ (∀ n, n ≠ f.src → e.peer n = d.peer n) ∧ e.lif.mailbox = rest)
    ∧ (f.kind = .intent → ∃ e : Dev, exec .intent s = .next { s with dev := e }
      ∧ e.peer f.src = some { heard with intent := some ⟨sec, t, d.now + 2 * d.tmp.plan.claimWindow * 1000⟩ }
      ∧ (∀ n, n ≠ f.src → e.peer n = d.peer n) ∧ e.lif.mailbox = rest)

/-- What an INTENT does to this station's claims, from a FRESH peer; nothing else changes then but its record, which is heard and takes the
intent, and the mailbox's head, which is gone. For a HELD section it is answered with an OBJECT of basis HOLDING addressed to that peer,
counted, and the table stays. For the section of the CONTENDING entry, from a peer whose ticket ranks below the entry's, it is answered with
an OBJECT of basis CONTENDING addressed to that peer; the entry stays CONTENDING with its window timer unchanged, and the whole claim
table is as it was. From a peer whose ticket outranks the entry's, which waits for nothing, the entry loses: it is BLOCKED by that peer with
basis INTENT and its backoff running, its own INTENT still queued is withdrawn, the loss count rises by one up to 15. For a section that is
absent from the table or WANTED, nothing changes. The two answers hold also from a peer heard anew or again, whose return is itself an event,
where no BLOCKED entry stands before it. -/
def Obligations.IntentIsAnswered : Prop :=
  ∀ (s : State) (f : Frame) (rest : List Frame), let d := s.dev; let sec := byteAt f.payload 0
    d.passes f rest → f.kind = .intent → d.peersOk →
    let theirs := Ticket.ofByte (f.payload.getD 1 0) f.src
    let fresh : Prop := (d.peer f.src).any (fun r => r.freshness == .fresh) = true
    let heard (r : PeerRec) : Dev := { d with
      lif := { d.lif with mailbox := rest }
      peers := d.peers.map (fun x => if x.station = f.src then { r with
        heardAt := d.now, framesHeard := satInc r.framesHeard, freshness := .fresh, frozen := false
        intent := some ⟨sec, theirs, d.now + 2 * d.tmp.plan.claimWindow * 1000⟩ } else x) }
    let answered (basis : Byte) (counted : Counter) : Prop :=
      ∃ e : Dev, exec .intent s = .next { s with dev := (e.send .object f.src [BitVec.ofNat 8 sec, basis]).bump counted }
        ∧ e.cle = d.cle ∧ e.odo = d.odo ∧ (∀ r, d.peer f.src = some r → r.freshness = .fresh → e = heard r)
    (∀ c h t, d.cle.entry sec = some c → c.state = .held h t → fresh ∨ d.cle.front = none → answered 1 .objectionsHolding)
    ∧ (∀ c t tag w, d.cle.entry sec = some c → c.state = .contending t tag w → fresh ∨ d.cle.front = some c →
      t.outranks theirs = true → answered 2 .objectionsContending)
    ∧ (∀ c t tag w, d.cle.entry sec = some c → c.state = .contending t tag w → fresh → d.cle.ok → theirs.outranks t = true →
      (∀ r, d.peer f.src = some r → r.waiting = none) →
      ∃ e : Dev, exec .intent s = .next { s with dev := e } ∧ e.cle.lossCount = min 15 (d.cle.lossCount + 1)
        ∧ e.cle.entry sec = some { c with
            state := .blocked f.src .intent (some (d.now + d.tmp.plan.claimWindow * (1 + d.station % 4) * 1000)) }
        ∧ (∀ y ∈ e.lif.queue, y.tag = some tag → y.kind = .intent → y.sending = true))
    ∧ (∀ r, d.peer f.src = some r → r.freshness = .fresh → d.cle.entry sec = none ∨ (∃ c m, d.cle.entry sec = some c ∧ c.state = .wanted m) →
      exec .intent s = .next { s with dev := heard r })

/-- What a TAKEN, or an OBJECT addressed to this station, from a FRESH peer does to the entry of its section. A TAKEN for the CONTENDING
section, whose sender waits for nothing, makes the entry lose: BLOCKED by the sender on the basis HELD with its backoff running, the loss count
raised by one up to 15. For a HELD section a TAKEN, with no front entry, and an OBJECT of basis HOLDING are a clash, counted: with the
position UNKNOWN or both footprints on the section OCCUPANCY-CONFLICT is active; with this station's alone, or neither's and the lower number,
the table stays and the TAKEN is queued again, with the entry's ticket, when there is room; else the entry is HELD no more, one off the route
leaves the table, and AUTHORITY-WITHDRAWN is active when it lay within the stopping distance of the last evaluation (its entry end where
the entry is off the route: log 17). An OBJECT for a BLOCKED or WANTED section, and one of basis CONTENDING for a HELD one, only counts as a
late objection. A TAKEN for a section that is WANTED, or BLOCKED with its backoff running, changes nothing of the claims. -/
def Obligations.TakingsAndObjectionsAct : Prop :=
  ∀ (s : State) (f : Frame) (rest : List Frame) (r : PeerRec) (c : Claim), let d := s.dev; let sec := byteAt f.payload 0
    d.passes f rest → d.peersOk → d.cle.ok → d.peer f.src = some r → r.freshness = .fresh → d.cle.entry sec = some c →
    let there : Prop := sec ∈ d.peerFootprint r
    let mine : Prop := d.underOwn sec = true
    let conflict : Prop := d.odo.pos.validity = .unknown ∨ (mine ∧ there)
    let stays : Prop := ¬conflict ∧ (mine ∨ (¬there ∧ d.station < f.src))
    let result (i : Instr) (p : Dev → Prop) : Prop := ∃ e : Dev, exec i s = .next { s with dev := e } ∧ p e
    let clash (i : Instr) : Prop := ∀ h t, c.state = .held h t →
      (conflict → result i (fun e => e.faultActive .occupancyConflict = true))
      ∧ (stays → result i (fun e => e.cle.table = d.cle.table ∧ e.odo = d.odo ∧ e.stc = d.stc ∧ e.faults = d.faults
          ∧ (d.counters.length = Counter.count → e.counter .clashesFound = satInc (d.counter .clashesFound))
          ∧ (d.lif.hasRoom → ∃ y ∈ e.lif.queue, y.kind = .taken ∧ y.dest = 0 ∧ y.payload = [BitVec.ofNat 8 sec, t.toByte])))
      ∧ (¬conflict → ¬stays → result i (fun e => e.cle.holds sec = false ∧ (c.idx = none → e.cle.entry sec = none)
          ∧ (d.withinStopping c = true → e.faultActive .authorityWithdrawn = true)))
    (f.kind = .taken → d.cle.front = none → clash .taken)
    ∧ (f.kind = .object → f.dest = d.station → byteAt f.payload 1 = 1 → clash .object)
    ∧ (∀ t tag w, f.kind = .taken → c.state = .contending t tag w → r.waiting = none → result .taken (fun e =>
        e.cle.entry sec = some { c with
          state := .blocked f.src .held (some (d.now + d.tmp.plan.claimWindow * (1 + d.station % 4) * 1000)) }
        ∧ e.cle.lossCount = min 15 (d.cle.lossCount + 1)))
    ∧ (f.kind = .object → f.dest = d.station → (c.isHeld = true ∧ byteAt f.payload 1 ≠ 1) ∨ c.isBlocked = true ∨ c.isWanted = true →
      exec .object s = .next { s with dev := (d.takenIn f rest).bump .lateObjections })
    ∧ (f.kind = .taken → (∃ p b n, c.state = .blocked p b (some n)) ∨ (c.isWanted = true ∧ d.cle.front = some c) →
      result .taken (fun e => e.cle = d.cle))

/-- An objection addressed to this station for the section of the CONTENDING front entry, from a peer that waits for nothing, makes
the entry lose: it becomes BLOCKED by that peer, on the basis HELD for an OBJECT of basis HOLDING and INTENT for CONTENDING, with a
backoff of Tw × (1 + station number mod 4), and the loss count rises by one up to 15. With no entry for the section it only counts as
a late objection, and an OBJECT addressed to another station or to all is only heard (log 44). -/
def Obligations.ObjectionMakesTheContenderLose : Prop :=
  ∀ (s : State) (f : Frame) (rest : List Frame), let d := s.dev; let sec := byteAt f.payload 0
    d.passes f rest → f.kind = .object → d.peersOk → d.cle.ok →
    (∀ c t tag w, f.dest = d.station → d.cle.front = some c → c.sec = sec → c.state = .contending t tag w →
      (∀ r, d.peer f.src = some r → r.waiting = none) →
      let basis : BlockBasis := if byteAt f.payload 1 = 1 then .held else .intent
      let backoff : Timer := some (d.now + d.tmp.plan.claimWindow * (1 + d.station % 4) * 1000)
      ∃ e : Dev, exec .object s = .next { s with dev := e }
        ∧ e.cle.entry sec = some { c with state := .blocked f.src basis backoff }
        ∧ e.cle.lossCount = min 15 (d.cle.lossCount + 1))
    ∧ (f.dest = d.station → (d.takenIn f rest).cle.entry sec = none →
      exec .object s = .next { s with dev := (d.takenIn f rest).bump .lateObjections })
    ∧ (f.dest ≠ d.station → exec .object s = .next { s with dev := d.takenIn f rest })

/-- A POINTS-STATE of a junction gives its record, for each of its own points sections, the last entry that the frame carries for it;
an entry for a section that is not one of its points is not kept, and no other record changes. When a FRESH junction's frame of one
entry shows the leg needed of a REQUESTED entry locked for this station, the entry becomes LOCKED with its two timers stopped; a
REQUESTED entry stays when it does not show that, and a LOCKED entry whose lock it does not show is requested anew with both timers
running. -/
def Obligations.PointsStateIsTaken : Prop :=
  ∀ (s : State) (f : Frame) (rest : List Frame), let d := s.dev
    d.passes f rest → f.kind = .pointsState → d.peersOk → d.cle.ok →
    let own (x : PointsEntry) : Bool :=
      (findSection d.tmp.sections x.sec).any (fun r => r.kind == .points && r.junction == f.src)
    let lock (x : PointsEntry) (c : Claim) : Prop := c.legNeeded = some x.leg ∧ x.locked = true ∧ x.holder = d.station
    ∃ (e : Dev) (r : PeerRec), exec .pointsState s = .next { s with dev := e } ∧ e.peer f.src = some r ∧ r.freshness = .fresh
      ∧ (∀ pre x post, readPointsState f.payload = pre ++ x :: post → own x = true → (∀ y ∈ post, y.sec ≠ x.sec) → x ∈ r.points)
      ∧ (∀ x ∈ r.points, (x ∈ readPointsState f.payload ∧ own x = true) ∨ ∃ r0, d.peer f.src = some r0 ∧ x ∈ r0.points)
      ∧ (∀ n, n ≠ f.src → e.peer n = d.peer n)
      ∧ (∀ x c r0, readPointsState f.payload = [x] → own x = true → d.cle.entry x.sec = some c → d.peer f.src = some r0 →
          r0.freshness = .fresh →
          (c.points = .requested → lock x c →
            e.cle.entry x.sec = some { c with points := .locked, pointsTimer := none, rerequestTimer := none })
          ∧ (c.points = .requested → ¬lock x c → e.cle = d.cle)
          ∧ (c.points = .locked → ¬lock x c → e.cle.entry x.sec = some { c with
              points := .requested
              pointsTimer := some (d.now + d.tmp.plan.lockTimeout * 1000)
              rerequestTimer := some (d.now + d.tmp.plan.beaconPeriod * 1000) }))

/-- A record that goes silent: 3 × Tb after its last frame a FRESH record becomes STALE and Tl after it a FRESH or STALE one LOST, a
carriage's with its frozen flag set; each loses its intent, and a junction's its points-state list, and CLE takes the freshness event. At
the expiry of the intent timer the intent alone clears and CLE takes the view-changed event (its effect: ReleaseRemovesFromTheHeldList).
An event that comes before its time, or finds the record past it, changes nothing (the model's reading, DEDUCED, log 3), and no other
record changes. At a freshness event of a junction, with no front entry, each LOCKED entry of its points is requested anew with both
timers running, and each REQUESTED one with its points timer as it was. -/
def Obligations.SilentPeerAges : Prop :=
  ∀ (s : State) (n : Nat) (r : PeerRec), let d := s.dev
    d.peer n = some r →
    let stale := r.heardAt + 3 * d.tmp.plan.beaconPeriod * 1000
    let lost := r.heardAt + d.tmp.plan.lostTime * 1000
    let points := if r.kind = .junction then [] else r.points
    let becomes (c : Instr) (told : PeerRec → Dev → Dev) (r' : PeerRec) : Prop := ∃ x e : Dev,
      exec c s = .next { s with dev := e } ∧ e = told r' x ∧ x.cle = d.cle
      ∧ x.peers = d.peers.map (fun y => if y.station = n then r' else y) ∧ e.peers = x.peers ∧ e.tmp = d.tmp
      ∧ e.lif.mailbox = d.lif.mailbox
    let silent (c : Instr) (r' : PeerRec) : Prop := becomes c (fun r' x => x.onFreshness r') r'
      ∧ (∀ y ∈ d.cle.table, r.kind = .junction → d.cle.front = none → d.cle.ok →
        (findSection d.tmp.sections y.sec).any (fun q => q.kind == .points && q.junction == n) = true →
        ∃ e : Dev, exec c s = .next { s with dev := e }
          ∧ (y.points = .locked → e.cle.entry y.sec = some { y with
              points := .requested
              pointsTimer := some (d.now + d.tmp.plan.lockTimeout * 1000)
              rerequestTimer := some (d.now + d.tmp.plan.beaconPeriod * 1000) })
          ∧ (y.points = .requested → e.cle.entry y.sec = some { y with
              rerequestTimer := some (d.now + d.tmp.plan.beaconPeriod * 1000) })
          ∧ (y.points = .unrequested ∨ y.points = .lost → e.cle.entry y.sec = some y))
    (r.freshness = .fresh → stale ≤ d.now → silent (.peerStale n) { r with freshness := .stale, intent := none, points := points })
    ∧ (r.freshness ≠ .fresh ∨ d.now < stale → exec (.peerStale n) s = .next s)
    ∧ (r.freshness ≠ .lost → lost ≤ d.now → silent (.peerLost n)
        { r with freshness := .lost, intent := none, points := points, frozen := r.kind == .carriage })
    ∧ (r.freshness = .lost ∨ d.now < lost → exec (.peerLost n) s = .next s)
    ∧ (∀ i, r.intent = some i → i.timer ≤ d.now →
        becomes (.peerIntentExpiry n) (fun _ x => x.onViewChanged) { r with intent := none })
    ∧ ((∀ i, r.intent = some i → d.now < i.timer) → exec (.peerIntentExpiry n) s = .next s)

/-! ### Frames of the consoles -/

/-- A FREE-STATION whose frame is taken frees the holdings of a LOST and frozen carriage record: frozen clears, the held list is empty,
the section 0 and the waiting-for absent, and CLE takes the view-changed event (its effect: ReleaseRemovesFromTheHeldList). For a carriage
heard within Tl it is refused and counted, and for any other record, or none, ignored and counted. -/
def Obligations.FreeStationFreesALostCarriage : Prop :=
  ∀ (s : State) (f : Frame) (rest : List Frame), let d := s.dev; let n := byteAt f.payload 0
    d.passes f rest → f.kind = .freeStation →
    let e := d.takenIn f rest
    (∀ r, e.peer n = some r → r.kind = .carriage → r.freshness = .lost → r.frozen = true →
      let freed := e.peers.map (fun y => if y.station = n then { r with frozen := false, held := [], sec := 0, waiting := none } else y)
      ∃ x : Dev, exec .freeStation s = .next { s with dev := x } ∧ x.peers = freed ∧ x = ({ e with peers := freed } : Dev).onViewChanged)
    ∧ (∀ r, e.peer n = some r → r.kind = .carriage → r.freshness ≠ .lost →
      exec .freeStation s = .next { s with dev := e.bump .freeRefused })
    ∧ ((∀ r, e.peer n = some r → r.kind ≠ .carriage ∨ (r.freshness = .lost ∧ r.frozen = false)) →
      exec .freeStation s = .next { s with dev := e.bump .freeIgnored })

/-- A MOVE-ORDER addressed to this station that fails a check of R147 is refused with the first reason that applies, reported to its
console with the order's id and counted; one that passes the first seven checks and names the parked pad, the station being PARKED,
is answered ARRIVED at once, whether or not standstill holds; one addressed to all is discarded and counted. Nothing else changes. -/
def Obligations.MoveOrderIsAnswered : Prop :=
  ∀ (s : State) (f : Frame) (rest : List Frame), let d := s.dev; let m := readMoveOrder f.payload
    d.passes f rest → f.kind = .moveOrder →
    let e := d.takenIn f rest; let st := e.stc.state
    let refused (r : RefuseReason) (c : Counter) : Prop := f.dest ≠ 0 →
      exec .moveOrder s = .next { s with dev := (e.orderReport f.src .moveOrder m.id (.refused r)).bump c }
    let rest' : Prop := st = .standing ∨ (st = .parked ∧ e.stc.order = none)
    let known : Prop := e.faultActive .planMismatch = false
    let fields : Prop := 1 ≤ m.id ∧ m.speedClass ≤ 3 ∧ m.priority ≤ 3 ∧ m.mode ≤ 1 ∧ m.count = m.route.length
    let there : Prop := st = .parked ∧ e.stc.parkedPad = some m.pad
    (st = .running ∨ st = .approach ∨ st = .docking ∨ (st = .parked ∧ e.stc.order.isSome = true) → refused .busy .refusedBusy)
    ∧ (st = .noPosition → refused .noPosition .refusedNoPosition)
    ∧ (st = .halted ∨ st = .safeStop → refused .stopped .refusedStopped)
    ∧ (st = .listen → refused .listening .refusedListening)
    ∧ (rest' → ¬known → refused .planMismatch .refusedPlanMismatch)
    ∧ (rest' → known → e.stc.haltHold = true → refused .stopped .refusedStopped)
    ∧ (rest' → known → e.stc.haltHold = false → ¬fields → refused .orderInvalid .refusedOrderInvalid)
    ∧ (rest' → known → e.stc.haltHold = false → fields → ¬there → e.odo.standstill = false →
        refused .notStandstill .refusedNotStandstill)
    ∧ (∀ r c, rest' → known → e.stc.haltHold = false → fields → ¬there → e.odo.standstill = true →
        validateRoute e.tmp.sections e.tmp.pads e.tmp.carriage.length e.tmp.carriage.dockTol e.odo.pos.point m.route m.pad = .error r →
        r.counter = some c → refused r c)
    ∧ (f.dest ≠ 0 → rest' → known → e.stc.haltHold = false → fields → there →
        exec .moveOrder s = .next { s with dev := (e.orderReport f.src .moveOrder m.id .arrived).bump .ordersAtOnce })
    ∧ (f.dest = 0 → exec .moveOrder s = .next { s with dev := e.bump .orderToAll })

/-- A MOVE-ORDER that passes every check, at a carriage whose footprint along the route lies on HELD sections, is accepted: it is the
current order with its id, console, validated route, pad, class speed and priority, departing unless the clamps are confirmed up; ODO
takes the route index, the direction and the leg of entry 1, SUP has the order's speed, CLE its route and DKC its pad. The station is
RUNNING with sub-state WAITING and no parked pad, or PARKED, the parked pad kept, for a departure (also for an order accepted in STANDING:
log 42). ORDER-REPORT ACCEPTED with the order's id is queued to the console at once for EARLY, and for ON-AUTHORITY when the first route
entry that is not under the footprint and lies ahead of the front extent is usable, or there is none (log 51); else the held report is set
and no report is queued. It is so when the queue has room for a frame for each entry of the claim table and three more. -/
def Obligations.MoveOrderIsAccepted : Prop :=
  ∀ (s : State) (f : Frame) (rest : List Frame) (route : Route), let d := s.dev; let m := readMoveOrder f.payload
    d.passes f rest → f.kind = .moveOrder → f.dest ≠ 0 →
    let e := d.takenIn f rest
    e.stc.state = .standing ∨ (e.stc.state = .parked ∧ e.stc.parkedPad ≠ some m.pad) → e.stc.order = none →
    e.faultActive .planMismatch = false → e.stc.haltHold = false → e.odo.standstill = true → e.odo.pos.validity ≠ .unknown →
    1 ≤ m.id → m.speedClass ≤ 3 → m.priority ≤ 3 → m.mode ≤ 1 → m.count = m.route.length → e.cle.ok →
    validateRoute e.tmp.sections e.tmp.pads e.tmp.carriage.length e.tmp.carriage.dockTol e.odo.pos.point m.route m.pad = .ok route →
    let o : Order := { id := m.id, console := f.src, route := route, pad := m.pad, speedClass := m.speedClass
                       vOrder := e.tmp.plan.classSpeed m.speedClass, priority := m.priority, onAuthority := m.mode == 1
                       departing := e.bdu.inClampsDown || !e.bdu.inClampsUp }
    (∀ n ∈ (footprintOf e.tmp.sections route.entries
        { e.odo.pos.point with
          leg := ((route.entries.head?).map (·.leg)).getD .plain
          dir := ((route.entries.head?).map (·.dir)).getD .towardB, idx := some 1 }
        (e.tmp.carriage.length * 500 + e.odo.pos.unc)).sections, e.cle.holds n = true) →
    ∃ x : Dev, exec .moveOrder s = .next { s with dev := x } ∧ x.stc.order = some o
      ∧ x.stc.state = (if o.departing then .parked else .running)
      ∧ x.sup.vOrder = some o.vOrder ∧ x.dkc.dest = some m.pad
      ∧ x.cle.view = some { route := route, pad := m.pad, priority := m.priority }
      ∧ x.stc.parkedPad = (if o.departing then e.stc.parkedPad else none) ∧ (o.departing = false → x.stc.waiting = true)
      ∧ (∀ g, route.entries.head? = some g → x.odo.pos = { e.odo.pos with idx := some 1, dir := g.dir, leg := g.leg })
      ∧ (let room : Prop := e.lif.active = true ∧ e.lif.queue.length + e.cle.table.length + 3 ≤ 8
        let reported : Prop := room → ∃ y ∈ x.lif.queue, y.kind = .orderReport ∧ y.dest = f.src
          ∧ y.payload = orderReportPayload .moveOrder m.id .accepted
        let beyond (g : RouteEntry) : Bool := !x.underOwn g.sec && decide (x.frontCoord route ≤ (g.c0 : Int))
        let wins : Prop := ∀ i, route.entries.findIdx? beyond = some i → ∃ c ∈ x.cle.table, c.idx = some (i + 1) ∧ c.isHeld = true
          ∧ (x.isPoints c.sec = true → c.points = .locked)
        (m.mode = 0 ∨ wins → x.stc.heldReport = false ∧ reported)
        ∧ (m.mode = 1 → ¬wins → x.stc.heldReport = true ∧ ∀ y ∈ x.lif.queue, y.kind = .orderReport → y ∈ e.lif.queue))

/-- A console's HALT: in RUNNING, APPROACH and DOCKING the station enters HALTED, remembers the state left and sets the halt hold,
with the service brake on, and the order, the claims, the position, the demand and the peers stay; in HALTED it is counted; in the
other states from LISTEN on it sets the halt hold alone. -/
def Obligations.HaltActsByState : Prop :=
  ∀ (s : State) (f : Frame) (rest : List Frame), let d := s.dev
    d.passes f rest → f.kind = .halt →
    let e := d.takenIn f rest
    (∀ m, (e.stc.state, m) ∈ [(StationState.running, Remembered.running), (.approach, .approach), (.docking, .docking)] →
      ∃ x : Dev, exec .halt s = .next { s with dev := x }
        ∧ x.stc = { e.stc with state := .halted, remembered := some m, haltHold := true } ∧ x.bdu.srcHalted = true
        ∧ x.bdu.serviceBrake = true ∧ x.bdu.demandHanded = e.bdu.demandHanded ∧ x.cle = e.cle ∧ x.odo = e.odo ∧ x.sup = e.sup
        ∧ x.peers = e.peers ∧ x.faults = e.faults ∧ x.tmp = e.tmp
        ∧ x.counters = ((e.bump .entriesHalted).bump .haltsTaken).counters)
    ∧ (e.stc.state = .halted → exec .halt s = .next { s with dev := e.bump .secondHalts })
    ∧ (e.stc.state ∈ [.listen, .noPosition, .standing, .parked, .safeStop] →
      exec .halt s = .next { s with dev := ({ e with stc := { e.stc with haltHold := true } } : Dev).bump .haltsTaken })

/-- A console's RESUME is refused STOPPED in SAFE-STOP, NOT-HALTED with the halt hold clear and FAULT-ACTIVE with a HALT-class fault
active, each counted and, when addressed to this station, reported with the order's id, and nothing else changes. One that is accepted
clears the halt hold and is reported ACCEPTED; outside HALTED nothing else changes. From HALTED with no ABORT pending the station
returns to RUNNING with sub-state WAITING, to APPROACH or DOCKING while the carriage is moving, or to the rest state for a remembered
REST. That an accepted RESUME to all is reported ACCEPTED too is log 23. -/
def Obligations.ResumeIsJudged : Prop :=
  ∀ (s : State) (f : Frame) (rest : List Frame), let d := s.dev
    d.passes f rest → f.kind = .resume →
    let e := d.takenIn f rest; let id := ((e.stc.order).map (·.id)).getD 0; let st := e.stc.state
    let told (r : RefuseReason) : Dev := if f.dest = 0 then e else e.orderReport f.src .resume id (.refused r)
    let refused (r : RefuseReason) : Prop := exec .resume s = .next { s with dev := (told r).bump .resumesRefused }
    let answered : Dev := (e.orderReport f.src .resume id .accepted).bump .resumesAccepted
    let back (m : Remembered) (st : StationState) (w : Bool) : Prop := e.stc.remembered = some m →
      ∃ x : Dev, exec .resume s = .next { s with dev := x }
        ∧ x.stc = { e.stc with haltHold := false, remembered := none, state := st, waiting := w }
        ∧ x.bdu.srcHalted = false ∧ x.cle = e.cle ∧ x.odo = e.odo ∧ x.peers = e.peers ∧ x.faults = e.faults
    let rest' : StationState := if e.odo.pos.validity = .unknown then .noPosition
      else if e.dkc.sub = .clamped ∧ e.stc.parkedPad.isSome = true then .parked else .standing
    (st = .safeStop → refused .stopped)
    ∧ (st ≠ .safeStop → e.stc.haltHold = false → refused .notHalted)
    ∧ (st ≠ .safeStop → e.stc.haltHold = true → (∃ x ∈ e.faults, x.kind.cls = .halt) → refused .faultActive)
    ∧ (st ≠ .safeStop → e.stc.haltHold = true → (∀ x ∈ e.faults, x.kind.cls ≠ .halt) →
        (st ≠ .halted → exec .resume s = .next { s with dev := { answered with stc := { e.stc with haltHold := false } } })
        ∧ (st = .halted → e.stc.abortPending = false → back .running .running true ∧ back .rest rest' e.stc.waiting)
        ∧ (st = .halted → e.stc.abortPending = false → e.odo.standstill = false →
            back .approach .approach e.stc.waiting ∧ back .docking .docking e.stc.waiting))

/-- An ABORT with no order current, or in SAFE-STOP, is refused, counted and, when addressed to this station, reported NO-ORDER or
STOPPED; one that finds an ABORT pending is only counted (log 25). An ABORT of a current order in RUNNING, APPROACH, DOCKING or HALTED:
while the carriage moves, abort pending is set in STC and CLE, every entry that is not HELD leaves the table and the HELD ones stay; at
standstill with no clamp moving the order ends ABORTED and the station takes its rest state. A departure is stopped and its order ends
ABORTED, in PARKED with the clamps down and STANDING otherwise. -/
def Obligations.AbortIsJudged : Prop :=
  ∀ (s : State) (f : Frame) (rest : List Frame), let d := s.dev
    d.passes f rest → f.kind = .abort →
    let e := d.takenIn f rest; let id := ((e.stc.order).map (·.id)).getD 0
    let told (r : RefuseReason) : Dev := if f.dest = 0 then e else e.orderReport f.src .abort id (.refused r)
    let refused (r : RefuseReason) : Prop := exec .abort s = .next { s with dev := (told r).bump .abortsRefused }
    let held : Prop := e.bdu.inClampsDown = true ∧ e.bdu.inClampsUp = false
    let ended (st : StationState) : Prop := ∃ x : Dev, exec .abort s = .next { s with dev := x } ∧ x.stc.order = none
      ∧ x.stc.state = st ∧ x.stc.abortPending = false ∧ x.stc.lastOrder = ⟨id, some .aborted, none⟩ ∧ x.cle.view = none
      ∧ x.cle.lossCount = 0 ∧ x.sup.vOrder = none ∧ x.dkc.dest = none
    let current : Prop := e.stc.abortPending = false ∧ e.stc.order.isSome = true
    let taken : Prop := current ∧ e.stc.state ∈ [.running, .approach, .docking, .halted]
    (taken → e.odo.standstill = false → e.dkc.sub ≠ .unclamping →
      ∃ x : Dev, exec .abort s = .next { s with dev := x } ∧ x.stc = { e.stc with abortPending := true }
        ∧ x.cle.abortPending = true ∧ x.cle.table = e.cle.table.filter Claim.isHeld ∧ x.cle.view = e.cle.view
        ∧ x.odo = e.odo ∧ x.bdu = e.bdu ∧ x.peers = e.peers ∧ (e.dkc.sub ≠ .clamped → x.dkc.abortTaken = true))
    ∧ (taken → e.odo.standstill = true →
        e.dkc.sub ≠ .clamping → e.dkc.sub ≠ .unclamping →
        (e.odo.pos.validity = .unknown → ended .noPosition)
        ∧ (e.odo.pos.validity ≠ .unknown → held → e.stc.parkedPad.isSome = true → ended .parked)
        ∧ (e.odo.pos.validity ≠ .unknown → (¬held ∨ e.stc.parkedPad = none) → ended .standing))
    ∧ (current → e.stc.state = .parked → (held → ended .parked) ∧ (¬held → ended .standing))
    ∧ (e.stc.abortPending = true → exec .abort s = .next { s with dev := e.bump .abortsRefused })
    ∧ (e.stc.abortPending = false → e.stc.order = none → refused .noOrder)
    ∧ (current → e.stc.state = .safeStop → refused .stopped)

/-- A LOCATE addressed to this station is refused BUSY in RUNNING, APPROACH and DOCKING, POSITION-HELD with the position held,
NOT-STANDSTILL without standstill, and LOCATE-INVALID for a section that is no plain section of the map or an offset not strictly inside
it; the refusal is reported with order id 0, a LOCATE handed to ODO is counted, and nothing else changes. One that is taken with no order
current, where the claim table has room for the footprint, places the carriage: the record is RESTRICTED at the named section, offset and
direction, with the locate uncertainty as its anchor and nothing travelled. With the claim table within its limits, as every step keeps
it, the sections under the footprint are HELD, every HELD entry off it leaves the table, one RELEASE naming them in table order when there
is room, the others that were HELD stay, a pending ABORT of CLE's clears, and ORDER-REPORT ACCEPTED with order id 0 is queued to the
console when the queue has room for a TAKEN of each section under the footprint, one RELEASE, one FAULT-REPORT and it, which comes after
them (log 65), and for two frames more for each entry of the table that is not HELD, of which R63 leaves none while the position is
UNKNOWN. Where no peer holds or occupies a section that is claimed so, NO-POSITION becomes STANDING and every other station state stays.
One addressed to all is discarded and counted. -/
def Obligations.LocateIsJudged : Prop :=
  ∀ (s : State) (f : Frame) (rest : List Frame), let d := s.dev
    let sec := byteAt f.payload 0; let off := beAt f.payload 1 3; let dir := Direction.ofCode (byteAt f.payload 4)
    d.passes f rest → f.kind = .locate →
    let e := d.takenIn f rest; let u := e.tmp.carriage.locateUnc * 1000; let unheld := e.cle.table.countP (fun c => !c.isHeld)
    let moving : Prop := e.stc.state = .running ∨ e.stc.state = .approach ∨ e.stc.state = .docking
    let inside : Prop := ∃ r, findSection e.tmp.sections sec = some r ∧ r.kind = .plain ∧ 0 < off ∧ off < r.length
    let handed (r : RefuseReason) : Prop :=
      exec .locate s = .next { s with dev := (e.bump .locatesHanded).orderReport f.src .locate 0 (.refused r) }
    (f.dest = 0 → exec .locate s = .next { s with dev := e.bump .orderToAll })
    ∧ (f.dest ≠ 0 → moving → exec .locate s = .next { s with dev := e.orderReport f.src .locate 0 (.refused .busy) })
    ∧ (f.dest ≠ 0 → ¬moving → e.odo.pos.validity ≠ .unknown → handed .positionHeld)
    ∧ (f.dest ≠ 0 → ¬moving → e.odo.pos.validity = .unknown → e.odo.standstill = false → handed .notStandstill)
    ∧ (f.dest ≠ 0 → ¬moving → e.odo.pos.validity = .unknown → e.odo.standstill = true → ¬inside → handed .locateInvalid)
    ∧ (f.dest ≠ 0 → ¬moving → e.odo.pos.validity = .unknown → e.odo.standstill = true → inside → e.stc.order = none →
        u < Config.uncertaintyCap →
        e.cle.table.length + (footprintOf e.tmp.sections [] { sec := sec, leg := .plain, offset := off * 1000, dir := dir, idx := none }
          (e.tmp.carriage.length * 500 + u)).sections.length ≤ 8 →
        ∃ x : Dev, exec .locate s = .next { s with dev := x }
          ∧ x.odo.pos = { PositionRec.reset with
              validity := .restricted, sec := sec, offset := off * 1000, dir := dir, uAnchor := u, unc := u }
          ∧ x.peers = e.peers ∧ x.tmp = e.tmp
          ∧ (let under := (footprintOf e.tmp.sections [] { sec := sec, leg := .plain, offset := off * 1000, dir := dir, idx := none }
              (e.tmp.carriage.length * 500 + u)).sections
            let off := (e.cle.table.filter (fun c => c.isHeld && !under.contains c.sec)).map (·.sec)
            e.cle.ok → (e.cle.active = true → ∀ n ∈ under, x.cle.holds n = true)
            ∧ x.cle.abortPending = false ∧ (∀ c ∈ x.cle.table, c.isHeld = true → c.sec ∈ under)
            ∧ (∀ c ∈ e.cle.table, c.isHeld = true → c.sec ∈ under → c ∈ x.cle.table)
            ∧ (off ≠ [] → e.lif.active = true → e.lif.queue.length + under.length + 2 * unheld + 3 ≤ 8 → ∃ y ∈ x.lif.queue, y.kind = .release
              ∧ y.dest = 0 ∧ y.payload = BitVec.ofNat 8 off.length :: off.map (BitVec.ofNat 8))
            ∧ (e.lif.active = true → e.lif.queue.length + under.length + 2 * unheld + 3 ≤ 8 → ∃ y ∈ x.lif.queue, y.kind = .orderReport
              ∧ y.dest = f.src ∧ y.payload = orderReportPayload .locate 0 .accepted)
            ∧ ((∀ n ∈ under, ∀ q b, e.blocked n = some (q, b) → b = .intent) →
              x.stc.state = if e.stc.state = .noPosition then .standing else e.stc.state)))

/-- A CLEAR-FAULTS taken without standstill removes the latched kinds of class WARN and HALT but CONFIG-CLAMPED and SUPPLY-LOW, and
leaves the station, the latches and the outputs; with a latch set it also queues the refusal. Taken at standstill it removes every
latched kind but CONFIG-CLAMPED, and SUPPLY-LOW while the supply monitor input is active; BDU then releases the safe-stop latch, the
clamps-not-up latch with the duty 0 or the clamps up, and the supply-low latch with the input inactive. SAFE-STOP is left for the rest
state when no latch and no order remains, and any other state stays. -/
def Obligations.ClearFaultsIsTaken : Prop :=
  ∀ (s : State) (f : Frame) (rest : List Frame), let d := s.dev
    d.passes f rest → f.kind = .clearFaults →
    let e := d.takenIn f rest
    let notUp := e.bdu.latchClampsNotUp && !(e.bdu.duty == 0 || e.bdu.inClampsUp)
    let low := e.bdu.latchSupplyLow && e.bdu.inSupplyLow
    let leaves : Prop := e.stc.state = .safeStop ∧ notUp = false ∧ low = false ∧ e.stc.order = none
    ∃ x : Dev, exec .clearFaults s = .next { s with dev := x } ∧ x.odo = e.odo ∧ x.cle = e.cle ∧ x.peers = e.peers ∧ x.dkc = e.dkc
      ∧ (e.odo.standstill = false →
        x.faults = e.faults.filter (fun y =>
          y.kind.freeRunning || y.kind.cls == .safeStop || y.kind == .configClamped || y.kind == .supplyLow)
        ∧ x.stc = e.stc ∧ x.bdu = e.bdu ∧ x.sup = e.sup ∧ (e.bdu.latched = false → x.lif = e.lif)
        ∧ (e.bdu.latched = true → e.lif.hasRoom → ∃ y ∈ x.lif.queue, y.kind = .faultReport ∧ y.dest = 0 ∧ y.payload.head? = some 2))
      ∧ (e.odo.standstill = true →
        x.faults.map (·.kind) = (e.faults.map (·.kind)).filter (fun k =>
          k.freeRunning || k == .configClamped || (k == .supplyLow && e.bdu.inSupplyLow))
        ∧ x.bdu.latchSafeStop = false ∧ x.bdu.latchClampsNotUp = notUp ∧ x.bdu.latchSupplyLow = low
        ∧ (leaves → x.stc.state = (if e.odo.pos.validity = .unknown then .noPosition
            else if e.dkc.sub = .clamped ∧ e.stc.parkedPad.isSome = true then .parked else .standing))
        ∧ (¬leaves → x.stc = e.stc))

/-- The link test: START in STANDING or PARKED with no order turns it ON for its console, with the register loaded from the seed and
both counts 0; DATA from the testing console adds the differing bits and one frame compared and advances the register; STOP from it
queues a LINK-REPORT with the two counts to it and turns the test OFF. Any other LINK-TEST frame is ignored and counted. -/
def Obligations.LinkTestActsByMode : Prop :=
  ∀ (s : State) (f : Frame) (rest : List Frame), let d := s.dev
    d.passes f rest → f.kind = .linkTest →
    let e := d.takenIn f rest; let mode := byteAt f.payload 0
    let ignored : Prop := ∀ c, (mode, c) ∈ [(1, Instr.linkTestStart), (2, .linkTestData), (3, .linkTestStop)] →
      exec c s = .next { s with dev := e.bump .testIgnored }
    let ready : Prop := (e.stc.state = .standing ∨ e.stc.state = .parked) ∧ e.stc.order = none
    (mode = 1 → ready → exec .linkTestStart s = .next { s with dev := { e with lif := { e.lif with
        test := some { console := f.src, reg := testSeed (beAt f.payload 1 2), bitErrors := 0, compared := 0 } } } })
    ∧ (mode = 1 → ¬ready → ignored)
    ∧ (∀ t, mode = 2 → e.lif.test = some t → t.console = f.src →
        let r := testCompare ((f.payload.drop 1).take 32) t.reg
        exec .linkTestData s = .next { s with dev := { e with lif := { e.lif with
          test := some { t with reg := r.2, bitErrors := satAdd t.bitErrors r.1, compared := satInc t.compared } } } })
    ∧ (∀ t, mode = 3 → e.lif.test = some t → t.console = f.src →
        let x := e.send .linkReport f.src (beBytes 4 t.bitErrors.toNat ++ beBytes 2 t.compared.toNat)
        exec .linkTestStop s = .next { s with dev := { x with lif := { x.lif with test := none } } })
    ∧ (mode = 2 ∨ mode = 3 → (∀ t, e.lif.test = some t → t.console ≠ f.src) → ignored)

/-! ### The claim table's timers -/

/-- When the window of the CONTENDING entry runs out, and no peer waits for a section, the entry becomes HELD with basis ROUTE and keeps
its ticket, the loss count returns to 0, a contention won is counted, and the transmit queue, when it has room, holds a TAKEN to all with
the section and the ticket. An entry of points with a leg needed is REQUESTED with it, its points timer at the points lock timeout and its
re-request timer at Tb, and POINTS-REQUEST with the section and that leg is queued to all when there is room; any other entry is otherwise
as it was. The table keeps every HELD entry. The next WANTED entry is then examined: with claiming stopped it leaves the table, with
LINE-QUIET raised it stays WANTED, with a blocker it is BLOCKED, and with none it contends with the loss count 0 when the queue has room.
With every other entry HELD, the table is otherwise as it was. -/
def Obligations.WindowExpiryHoldsTheSection : Prop :=
  ∀ (s : State) (c : Claim) (t : Ticket) (tag w : Nat), let d := s.dev
    d.cle.ok → c ∈ d.cle.table → c.state = .contending t tag (some w) → w ≤ d.now → (∀ p ∈ d.peers, p.waiting = none) →
    let others := d.cle.table.filter (fun e => e.sec != c.sec)
    ∃ e : Dev, exec .windowExpiry s = .next { s with dev := e }
      ∧ (∃ c' ∈ e.cle.table, c'.sec = c.sec ∧ c'.idx = c.idx ∧ c'.state = .held .route t)
      ∧ (d.isPoints c.sec = false ∨ c.legNeeded = none → e.cle.entry c.sec = some { c with state := .held .route t })
      ∧ (∀ leg, d.isPoints c.sec = true → c.legNeeded = some leg → e.cle.entry c.sec = some { c with
            state := .held .route t, points := .requested
            pointsTimer := some (d.now + d.tmp.plan.lockTimeout * 1000)
            rerequestTimer := some (d.now + d.tmp.plan.beaconPeriod * 1000) }
          ∧ (d.lif.active = true → d.lif.queue.length + 2 ≤ 8 → ∃ y ∈ e.lif.queue, y.kind = .pointsRequest ∧ y.dest = 0
            ∧ y.payload = [BitVec.ofNat 8 c.sec, BitVec.ofNat 8 leg.code]))
      ∧ (∀ x ∈ d.cle.table, x.isHeld = true → x ∈ e.cle.table) ∧ e.cle.lossCount = 0 ∧ e.odo = d.odo ∧ e.peers = d.peers
      ∧ (d.counters.length = Counter.count → e.counter .contentionsWon = satInc (d.counter .contentionsWon))
      ∧ (d.lif.hasRoom → ∃ y ∈ e.lif.queue, y.kind = .taken ∧ y.dest = 0 ∧ y.payload = [BitVec.ofNat 8 c.sec, t.toByte])
      ∧ ((∀ x ∈ others, x.isHeld = true) → e.cle.front = none
        ∧ e.cle.table.map (fun x => (x.sec, x.idx)) = d.cle.table.map (fun x => (x.sec, x.idx)))
      ∧ (∀ n, others.find? (fun x => x.idx.isSome && !x.isHeld) = some n → n.isWanted = true →
        (d.claimingStopped = true → e.cle.entry n.sec = none)
        ∧ (d.claimingStopped = false → d.lif.quiet = true → e.cle.entry n.sec = some { n with state := .wanted false })
        ∧ (∀ p b, d.claimingStopped = false → d.lif.quiet = false → d.blocked n.sec = some (p, b) →
          e.cle.entry n.sec = some { n with state := .blocked p b none })
        ∧ (d.claimingStopped = false → d.lif.quiet = false → d.blocked n.sec = none → d.lif.active = true →
          d.lif.queue.length + 3 ≤ 8 →
          ∃ g, e.cle.entry n.sec = some { n with state := .contending { d.currentTicket with loss := 0 } g none }
            ∧ ∃ y ∈ e.lif.queue, y.kind = .intent ∧ y.tag = some g))

/-- When the backoff of the BLOCKED front entry runs out it is examined: with claiming stopped it leaves the table, with LINE-QUIET
raised it is WANTED, with its blocker and basis still the first in this station's view it stays BLOCKED with no backoff, and with no
blocker it becomes CONTENDING with the current ticket and queues its INTENT when the queue has room. When the points timer of a
REQUESTED entry runs out, POINTS-TIMEOUT is active and the timer starts again at the points lock timeout; when its re-request timer runs
out, a POINTS-REQUEST for the leg needed is queued, when the queue has room, and that timer starts again at Tb. Nothing else of the
claims changes at the two points timers. -/
def Obligations.ClaimTimersExpire : Prop :=
  (∀ (s : State) (c : Claim) (p : Nat) (b : BlockBasis) (w : Nat), let d := s.dev
      d.cle.ok → d.cle.front = some c → c.state = .blocked p b (some w) → w ≤ d.now →
      (d.claimingStopped = true → ∃ e : Dev, exec .claimBackoffExpiry s = .next { s with dev := e } ∧ e.cle.entry c.sec = none)
      ∧ (d.claimingStopped = false → d.lif.quiet = true → ∃ e : Dev, exec .claimBackoffExpiry s = .next { s with dev := e }
          ∧ e.cle.entry c.sec = some { c with state := .wanted false })
      ∧ (d.claimingStopped = false → d.lif.quiet = false → d.blocked c.sec = some (p, b) →
          exec .claimBackoffExpiry s = .next { s with dev := d.updateClaim c.sec (fun x => { x with state := .blocked p b none }) })
      ∧ (d.claimingStopped = false → d.lif.quiet = false → d.blocked c.sec = none → d.lif.hasRoom →
          ∃ (e : Dev) (tag : Nat), exec .claimBackoffExpiry s = .next { s with dev := e }
            ∧ e.cle.entry c.sec = some { c with state := .contending d.currentTicket tag none }
            ∧ ∃ y ∈ e.lif.queue, y.kind = .intent ∧ y.dest = 0 ∧ y.tag = some tag
                ∧ y.payload = [BitVec.ofNat 8 c.sec, d.currentTicket.toByte]))
  ∧ (∀ (s : State) (c : Claim) (leg : Leg), let d := s.dev
      d.cle.entry c.sec = some c → c.points = .requested → c.legNeeded = some leg →
      (d.due c.pointsTimer = true → ∃ e : Dev, exec (.pointsTimerExpiry c.sec) s = .next { s with dev := e }
        ∧ e.faultActive .pointsTimeout = true
        ∧ e.cle = d.cle.update c.sec (fun x => { x with pointsTimer := some (d.now + d.tmp.plan.lockTimeout * 1000) })
        ∧ e.odo = d.odo ∧ e.peers = d.peers)
      ∧ (d.due c.rerequestTimer = true → ∃ e : Dev, exec (.rerequestTimerExpiry c.sec) s = .next { s with dev := e }
        ∧ e.cle = d.cle.update c.sec (fun x => { x with rerequestTimer := some (d.now + d.tmp.plan.beaconPeriod * 1000) })
        ∧ (d.lif.hasRoom → ∃ y ∈ e.lif.queue, y.kind = .pointsRequest ∧ y.dest = 0
            ∧ y.payload = [BitVec.ofNat 8 c.sec, BitVec.ofNat 8 leg.code])
        ∧ e.odo = d.odo ∧ e.stc = d.stc ∧ e.bdu = d.bdu ∧ e.peers = d.peers))

/-! ### Supervision -/

/-- With the position UNKNOWN an expiry of the evaluation timer starts it again at 20 ms, is marked and counted as skipped, and changes
nothing else. With it held, Rd is ceil(v × Tr / 1,000), v_curve the largest speed whose square does not exceed 2 × a_eff × max(0, D −
Rd), and Sd is ceil(v² / (2 × a_eff)) + Rd; a_eff is at least 50. The band is the one of v against v_perm, v_perm + Vm and v_perm + 2 ×
Vm, OVERSPEED-WARN is set outside NOMINAL, and the service-band source is active in SERVICE and OVERSPEED, as it was in WARN, and
inactive in NOMINAL. With no order current D_auth and D are 0 and there is no D_stop. These are the values that SUP holds after the
step. -/
def Obligations.EvaluationFormsTheStatedValues : Prop :=
  ∀ s : State, let d := s.dev
    d.due d.sup.evalTimer = true →
    (d.odo.pos.validity = .unknown → exec .supervisionEvaluation s = .next { s with dev :=
      ({ d with sup := { d.sup with evalTimer := some (d.now + 20000), skipped := true } } : Dev).bump .evaluationsSkipped })
    ∧ (d.odo.pos.validity ≠ .unknown →
      let v := d.odo.history.sum / 100; let c := d.tmp.carriage
      ∃ e : Dev, exec .supervisionEvaluation s = .next { s with dev := e }
        ∧ (let x := e.sup
          x.evalTimer = some (d.now + 20000) ∧ x.skipped = false ∧ 50 ≤ x.aEff
          ∧ x.rd = (v * c.reaction + 999) / 1000
          ∧ x.vCurve * x.vCurve ≤ 2 * x.aEff * (x.dist - x.rd).toNat
          ∧ 2 * x.aEff * (x.dist - x.rd).toNat < (x.vCurve + 1) * (x.vCurve + 1)
          ∧ x.sd = (v * v + (2 * x.aEff - 1)) / (2 * x.aEff) + x.rd ∧ x.vPerm ≤ d.tmp.plan.lineMax
          ∧ (v ≤ x.vPerm ↔ x.band = .nominal)
          ∧ (x.vPerm < v ∧ v ≤ x.vPerm + c.overspeed ↔ x.band = .warn)
          ∧ (x.vPerm + c.overspeed < v ∧ v ≤ x.vPerm + 2 * c.overspeed ↔ x.band = .service)
          ∧ (x.vPerm + 2 * c.overspeed < v ↔ x.band = .overspeed)
          ∧ (x.warnFlag = true ↔ x.band ≠ .nominal)
          ∧ (x.serviceBand = true ↔ x.band = .service ∨ x.band = .overspeed ∨ (x.band = .warn ∧ d.sup.serviceBand = true))
          ∧ (d.stc.order = none → x.dAuth = 0 ∧ x.dStop = none ∧ x.dist = 0))
        ∧ e.odo.history = d.odo.history ∧ e.tmp = d.tmp ∧ e.peers = d.peers)

/-- Authority at an evaluation with an order current and the position held, outside CORRECT. The chain begins at the first route entry
that holds the front extent and goes on over the entries that are usable: HELD, and LOCKED when they are points. The authority limit is
the exit end of the last chain entry less M, that of the route when the chain ends in its last entry, and the front extent with an empty
chain. D_auth is the signed distance to it in mm, rounded down, and 0 with an empty chain. D_stop is the distance of the reference to the
pad point, present when the pad's entry is in the chain, holds the front extent or lies behind it. With the front extent at or beyond the
route's end the limit is that end, D_auth is 0 (log 43) and D_stop is present. D is the lesser of the two, at most the distance cap.
Distances count positive along the route's sense, and against it when the record's direction is not the route's. In CORRECT D is D_stop,
and D_auth is 0 (log 52). The front extent of a carriage over a toe is the model's choice (log 35), and so is the coordinate of a point
off the route (log 30). -/
def Obligations.AuthorityFollowsTheChain : Prop :=
  ∀ (s : State) (o : Order), let d := s.dev; let r := o.route; let n := r.entries.length
    d.due d.sup.evalTimer = true → d.odo.pos.validity ≠ .unknown → d.stc.order = some o →
    let front := d.frontCoord r
    let apart (p q : Int) : Int := (if d.withRoute then q - p else p - q) / 1000
    let stop := apart (d.refCoord r) r.padCoord
    let usable (k : Nat) : Prop := ∃ c ∈ d.cle.table, c.idx = some k ∧ c.isHeld = true
      ∧ ((findSection d.tmp.sections c.sec).any (fun q => q.kind == .points) = true → c.points = .locked)
    let limitAt (x : Int) (l : Option AuthLimit) : Prop := ∀ j e, r.entries[j]? = some e → (e.c0 : Int) < x → x ≤ e.c1 →
      (∀ (i : Nat) (g : RouteEntry), i < j → r.entries[i]? = some g → (g.c1 : Int) < x) → l = some
        { idx := some (j + 1), sec := e.sec, offset := (match e.dir with
          | .towardB => x - e.c0
          | .towardA => (e.c0 : Int) + legLength d.tmp.sections e.sec e.leg - x) / 1000 }
    let extent : AuthLimit := { idx := d.frontPoint.idx, sec := d.frontPoint.sec, offset := (d.frontPoint.offset / 1000 : Nat) }
    ∃ e : Dev, exec .supervisionEvaluation s = .next { s with dev := e } ∧ (let x := e.sup
      (∀ y, x.dStop = some y → x.dist = min (if d.dkc.sub = .correct then y else min x.dAuth y) Config.distanceCap)
      ∧ (x.dStop = none → x.dist = min x.dAuth Config.distanceCap)
      ∧ (d.dkc.sub = .correct → x.chainLen = 0 ∧ x.dAuth = 0 ∧ x.dStop = some stop ∧ x.authLimit = none)
      ∧ (d.dkc.sub ≠ .correct → (r.total : Int) ≤ front →
        x.chainLen = 0 ∧ x.dAuth = 0 ∧ x.dStop = some stop ∧ limitAt r.total x.authLimit)
      ∧ (d.dkc.sub ≠ .correct → front < r.total → (∀ g ∈ r.entries, ¬((g.c0 : Int) < front ∧ front ≤ g.c1)) →
        x.chainLen = 0 ∧ x.dAuth = 0 ∧ x.dStop = none ∧ x.authLimit = some extent)
      ∧ (∀ k m g, d.dkc.sub ≠ .correct → front < r.total → r.entries[k]? = some g → (g.c0 : Int) < front → front ≤ g.c1 →
        (∀ (i : Nat) (g' : RouteEntry), i < k → r.entries[i]? = some g' → ¬((g'.c0 : Int) < front ∧ front ≤ g'.c1)) →
        k + m ≤ n → (∀ i, i < m → usable (k + i + 1)) → (k + m < n → ¬usable (k + m + 1)) →
        x.chainLen = m
        ∧ (m = 0 → x.dAuth = 0 ∧ x.authLimit = some extent)
        ∧ (0 < m → k + m = n → x.dAuth = apart front r.total ∧ limitAt r.total x.authLimit)
        ∧ (∀ last, 0 < m → k + m < n → r.entries[k + m - 1]? = some last →
          let short : Int := (last.c1 : Int) - (d.tmp.carriage.margin * 1000 : Nat)
          x.dAuth = apart front short ∧ limitAt short x.authLimit)
        ∧ (r.padIdx ≤ k + max m 1 → x.dStop = some stop) ∧ (k + max m 1 < r.padIdx → x.dStop = none)))

/-- The effective deceleration, the permitted speed and the target of an evaluation with the position held, outside CORRECT. a_eff is the
lowest that a stretch under the footprint or a section of the chain gives: Asv less ceil(9,807 × |g| / 1,000) on a falling grade g, Asv
plus 9,807 × g / 1,000 on a rising one, at least 50. v_perm is no more than Vline, the speed limit of each section under the footprint,
v_curve, the limit curve of each chain section ahead whose limit is lower than those, the approach curve while D_stop exceeds the approach
distance, and Vc when the position is RESTRICTED, the station in APPROACH or DOCKING under an order, or D_stop within the approach
distance; it is the one of these that the binding names, and of equal ones Vline before a section limit. A curve down to v over x mm is
the largest speed whose square is at most v² + 2 × a_eff × max(0, x − Rd). The target is min(Vorder, v_perm) in RUNNING and APPROACH
with no ABORT pending, and 0 else. -/
def Obligations.PermittedSpeedIsTheLowestTerm : Prop :=
  ∀ s : State, let d := s.dev; let c := d.tmp.carriage; let secs := d.tmp.sections
    d.due d.sup.evalTimer = true → d.odo.pos.validity ≠ .unknown → d.dkc.sub ≠ .correct →
    let grade (n : Nat) (dir : Direction) : Int := match findSection secs n with
      | some q => if dir = .towardB then q.grade else -q.grade
      | none => 0
    let decel (g : Int) : Nat := max 50 (if g < 0 then c.serviceDecel - (9807 * g.natAbs + 999) / 1000
      else c.serviceDecel + 9807 * g.toNat / 1000)
    let way (x : Stretch) : Direction := match x.idx.bind (fun k => d.routeEntries[k - 1]?) with
      | some e => e.dir
      | none => x.dir
    let front : Int := match d.stc.order with
      | some o => d.frontCoord o.route
      | none => 0
    let first := (d.routeEntries.findIdx? (fun g => decide ((g.c0 : Int) < front ∧ front ≤ g.c1))).getD d.routeEntries.length
    ∃ e : Dev, exec .supervisionEvaluation s = .next { s with dev := e } ∧ (let x := e.sup
      let chain := (d.routeEntries.drop first).take x.chainLen
      let decels := d.footprint.stretches.map (fun z => decel (grade z.sec (way z))) ++ chain.map (fun g => decel (grade g.sec g.dir))
      let curve (v : Nat) (dist : Int) : Nat := v * v + 2 * x.aEff * (min (Config.distanceCap : Int) dist - x.rd).toNat
      let lim (n : Nat) : Nat := ((findSection secs n).map (·.speedLimit)).getD d.tmp.plan.lineMax
      let ahead (g : RouteEntry) : Int := (if d.withRoute then (g.c0 : Int) - front else front - g.c0) / 1000
      let limited (g : RouteEntry) : Prop := g ∈ chain ∧ front ≤ g.c0 ∧ ∀ n ∈ d.footprint.sections, lim g.sec < lim n
      let near (y : Int) : Prop := x.dStop = some y ∧ y ≤ (c.approach : Int)
      let capped : Prop := d.odo.pos.validity = .restricted
        ∨ (d.stc.order.isSome = true ∧ (d.stc.state = .approach ∨ d.stc.state = .docking ∨ ∃ y, near y))
      let go : Prop := (d.stc.state = .running ∨ d.stc.state = .approach) ∧ d.stc.abortPending = false
      (∀ a ∈ decels, x.aEff ≤ a) ∧ x.aEff ∈ decels
        ∧ x.vPerm ≤ d.tmp.plan.lineMax ∧ (∀ n ∈ d.footprint.sections, x.vPerm ≤ lim n) ∧ x.vPerm ≤ x.vCurve
        ∧ (∀ g, limited g → x.vPerm * x.vPerm ≤ curve (lim g.sec) (ahead g))
        ∧ (∀ y, x.dStop = some y → (c.approach : Int) < y → x.vPerm * x.vPerm ≤ curve c.creep (y - c.approach))
        ∧ (capped → x.vPerm ≤ c.creep)
        ∧ (match x.binding with
          | .line => x.vPerm = d.tmp.plan.lineMax
          | .sectionLimit => x.vPerm < d.tmp.plan.lineMax ∧ ∃ n ∈ d.footprint.sections, x.vPerm = lim n
          | .limitCurve n => ∃ g, limited g ∧ g.sec = n ∧ curve (lim n) (ahead g) < (x.vPerm + 1) * (x.vPerm + 1)
          | .curve => x.vPerm = x.vCurve
          | .approachCurve => ∃ y, x.dStop = some y ∧ (c.approach : Int) < y ∧ curve c.creep (y - c.approach) < (x.vPerm + 1) * (x.vPerm + 1)
          | .creep => capped ∧ x.vPerm = c.creep
          | .stopped => False)
        ∧ (x.vPerm = d.tmp.plan.lineMax → x.binding = .line)
        ∧ (∀ n ∈ d.footprint.sections, x.vPerm < d.tmp.plan.lineMax → x.vPerm = lim n → x.binding = .sectionLimit)
        ∧ (go → x.target = min (d.sup.vOrder.getD 0) x.vPerm) ∧ (¬go → x.target = 0))

/-- At an evaluation the demand is brought toward the target by at most one step: up by ceil(acceleration limit × 20 / 1,000), down by
ceil(Asv × 20 / 1,000), not past the target, and then no higher than v_perm. In HALTED the target is 0. With no condition that holds the
demand at 0 (R104), and when neither OVERSPEED nor an overrun is found and the station does not enter APPROACH, that demand is handed to
BDU, in HALTED as in every other state, and gives the duty demand × 1,000 / Vline while the clamps are up, and the release train toggles.
OVERSPEED found, or a negative D_auth while the carriage moves, is raised before anything is handed on: with no SAFE-STOP kind active
before, the kind is active, the station in SAFE-STOP with its latch set, the demand 0 and handed to BDU as 0, the duty 0 and the train
STOPPED. -/
def Obligations.DemandFollowsTheTargetByOneStep : Prop :=
  ∀ s : State, let d := s.dev; let x := d.evaluated; let c := d.tmp.carriage
    d.due d.sup.evalTimer = true → d.odo.pos.validity ≠ .unknown → d.demandZeroed = false →
    let up := (c.accel * 20 + 999) / 1000; let down := (c.serviceDecel * 20 + 999) / 1000
    (d.sup.demand < x.target → x.demand = min (min x.target (d.sup.demand + up)) x.vPerm)
    ∧ (x.target < d.sup.demand → x.demand = min (max x.target (d.sup.demand - down)) x.vPerm)
    ∧ (x.target = d.sup.demand → x.demand = min d.sup.demand x.vPerm)
    ∧ (d.stc.state = .halted → x.target = 0)
    ∧ (x.band ≠ .overspeed → (0 ≤ x.dAuth ∨ d.odo.standstill = true) →
        (d.stc.state = .running → ∀ n, x.dStop = some n → (c.approach : Int) < n) → d.bdu.inClampsUp = true → d.outputsHeld = false →
        ∃ e : Dev, exec .supervisionEvaluation s = .next { s with dev := e } ∧ e.sup = x
          ∧ e.bdu.demandHanded = x.demand ∧ e.bdu.duty = (if d.bdu.clampDown then 0 else x.demand * 1000 / d.tmp.plan.lineMax)
          ∧ e.bdu.trainLevel = !d.bdu.trainLevel ∧ e.bdu.trainRunning = true ∧ e.bdu.trainTimer = some (d.now + 30000)
          ∧ e.bdu.srcServiceBand = x.serviceBand ∧ e.dkc.dStop = x.dStop ∧ e.cle = d.cle ∧ e.odo = d.odo
          ∧ (d.stc.state = .running → e.stc = { d.stc with waiting := x.exhausted })
          ∧ (let near : Prop := d.stc.state = .halted ∧ d.stc.remembered = some .running ∧ ∃ n, x.dStop = some n ∧ n ≤ (c.approach : Int)
            (near → e.stc = { d.stc with remembered := some .approach }) ∧ (d.stc.state ≠ .running → ¬near → e.stc = d.stc)))
    ∧ (let overruns : Prop := x.dAuth < 0 ∧ d.odo.standstill = false
      x.band = .overspeed ∨ overruns → (∀ f ∈ d.faults, f.kind.cls ≠ .safeStop) →
        ∃ e : Dev, exec .supervisionEvaluation s = .next { s with dev := e }
          ∧ (x.band = .overspeed → e.faultActive .overspeed = true) ∧ (overruns → e.faultActive .authorityOverrun = true)
          ∧ e.stc.state = .safeStop ∧ e.bdu.latchSafeStop = true ∧ e.sup.demand = 0 ∧ e.bdu.demandHanded = 0 ∧ e.bdu.duty = 0
          ∧ e.bdu.trainRunning = false)

/-- The entry into APPROACH at an evaluation that hands over a D_stop within the approach distance, with the clamps up and neither an
overrun nor OVERSPEED found: the station goes from RUNNING to APPROACH, DKC is in STOPPING when the pad anchor has been taken and in CREEP
else, an approach is counted, and a carriage that stands still is judged for the end of the approach at once (log 45), on this
evaluation's D_stop, which DKC takes before STC takes the hand-over (DESIGN CHOICE, log 75); the claims and the position stay in a
carriage that moves. A HALTED station that remembers RUNNING remembers APPROACH, and DKC enters CREEP or STOPPING in the same way. -/
def Obligations.EntryIntoApproach : Prop :=
  ∀ s : State, let d := s.dev; let x := d.evaluated
    d.due d.sup.evalTimer = true → d.odo.pos.validity ≠ .unknown → d.bdu.inClampsUp = true →
    x.band ≠ .overspeed → (0 ≤ x.dAuth ∨ d.odo.standstill = true) → ∀ n, x.dStop = some n → n ≤ (d.tmp.carriage.approach : Int) →
    let dock : Dkc := { d.dkc with dStop := some n, sub := if d.dkc.anchored then .stopping else .creep }
    (d.stc.state = .running → ∃ y : Dev, exec .supervisionEvaluation s = .next { s with dev := y.dockStandstill }
      ∧ y.stc = { d.stc with state := .approach, waiting := x.exhausted, remembered := none } ∧ y.dkc = dock
      ∧ y.sup = x ∧ y.cle = d.cle ∧ y.odo = d.odo ∧ y.peers = d.peers ∧ y.faults = d.faults
      ∧ (d.counters.length = Counter.count → y.counter .approaches = satInc (d.counter .approaches))
      ∧ (d.odo.standstill = false → y.dockStandstill = y))
    ∧ (d.stc.state = .halted → d.stc.remembered = some .running → ∃ e : Dev, exec .supervisionEvaluation s = .next { s with dev := e }
      ∧ e.stc = { d.stc with remembered := some .approach } ∧ e.dkc = dock ∧ e.cle = d.cle ∧ e.odo = d.odo ∧ e.faults = d.faults)

/-- DKC when standstill becomes true, with an order current and no abort taken. STOPPING in APPROACH takes the stop check, the station
entering DOCKING, and so do CHECK in DOCKING and CORRECT in DOCKING once motion was seen: the stop error is the reference's coordinate
less the pad's. Within the dock tolerance DKC enters CLAMPING: the demand and the duty 0, traction off, the clamp-down command active and
the clamp timer running. Farther off, with two corrections made docking fails with CHECKS-EXHAUSTED; else it is corrected when the
footprint at the pad point, with the growth of U on the way, lies on HELD sections and reaches no buffer: DKC enters CORRECT, one more
correction made, with its watch timer running and the direction toward the pad point; and fails with OUTSIDE-HELD when not. CREEP in
APPROACH fails with PAD-NOT-SEEN at a D_stop within the dock tolerance, and goes on else. A failure makes DOCK-FAILED active and ends the
order FAILED with it. Motion sets motion seen in CORRECT. In the other sub-states, and with abort taken, nothing changes. (The route's
sense at a reference off the route: log 36. DOCK-FAILED comes before the failure steps: log 12.) When standstill becomes true CLE takes it
first (StandstillReleasesTheRest), then DKC in this way, then STC completes an ABORT: that order is the model's choice (DESIGN CHOICE, log
13). -/
def Obligations.StandstillEndsTheApproach : Prop :=
  ∀ (d : Dev) (o : Order), let r := o.route; let c := d.tmp.carriage; let e := d.dockStandstill
    d.stc.order = some o → d.odo.standstill = true →
    let error : Int := d.refCoord r - r.padCoord
    let far : Prop := c.dockTol * 1000 < error.natAbs
    let growth := if d.odo.chA.failed = false ∧ d.odo.chB.failed = false then c.growth else 2 * c.growth
    let permitted : Prop := ∀ p en, findPad d.tmp.pads o.pad = some p → r.entries[r.padIdx - 1]? = some en →
      let f := footprintOf d.tmp.sections r.entries
        { sec := p.sec, leg := p.leg, offset := p.offset * 1000, dir := en.dir, idx := some r.padIdx }
        (c.length * 500 + (d.odo.pos.unc + (error.natAbs * growth + 999) / 1000))
      (∀ n ∈ f.sections, d.cle.holds n = true) ∧ ∀ x ∈ f.front ++ f.rear, x.stop ≠ .buffer
    let sense := (r.place d.tmp.sections d.odo.pos.point).2
    let toward : Direction := if error < 0 then sense else sense.flip
    let failed (cause : DockCause) : Prop := e.faultActive .dockFailed = true ∧ e.stc.order = none ∧ e.stc.state = .halted
      ∧ e.stc.remembered = some .rest ∧ e.stc.lastOrder = ⟨o.id, some .failed, some .dockFailed⟩ ∧ e.dkc.last = .failed cause
      ∧ e.dkc.clampTimer = none ∧ e.dkc.corrTimer = none ∧ e.bdu.clampDown = false ∧ e.bdu.clampUp = false ∧ e.peers = d.peers
    let checks : Prop := (d.dkc.sub = .stopping ∧ d.stc.state = .approach) ∨ (d.dkc.sub = .check ∧ d.stc.state = .docking)
      ∨ (d.dkc.sub = .correct ∧ d.stc.state = .docking ∧ d.dkc.motionSeen = true)
    (d.dkc.abortTaken = false → checks → e.dkc.stopError = error
      ∧ (¬far → e.dkc.sub = .clamping ∧ e.dkc.clampTimer = some (d.now + c.clampTimeout * 1000) ∧ e.bdu.clampDown = true
        ∧ e.bdu.clampUp = false ∧ e.bdu.duty = 0 ∧ e.bdu.traction = false ∧ e.sup.demand = 0 ∧ e.stc.state = .docking
        ∧ e.stc.order = some o ∧ e.cle = d.cle ∧ e.odo = d.odo ∧ e.faults = d.faults)
      ∧ (far → 2 ≤ d.dkc.corrections → failed .checksExhausted)
      ∧ (far → d.dkc.corrections < 2 → ∀ p en, findPad d.tmp.pads o.pad = some p → r.entries[r.padIdx - 1]? = some en →
        (permitted → e.dkc.sub = .correct ∧ e.dkc.corrections = d.dkc.corrections + 1 ∧ e.dkc.motionSeen = false
          ∧ e.dkc.corrTimer = some (d.now + c.clampTimeout * 1000) ∧ e.odo.pos = { d.odo.pos with dir := toward }
          ∧ e.stc.state = .docking ∧ e.stc.order = some o ∧ e.cle = d.cle ∧ e.faults = d.faults)
        ∧ (¬permitted → failed .outsideHeld)))
    ∧ (d.dkc.abortTaken = false → d.dkc.sub = .creep → d.stc.state = .approach →
      (∀ x, d.dkc.dStop = some x → x ≤ (c.dockTol : Int) → failed .padNotSeen)
      ∧ ((∀ x, d.dkc.dStop = some x → (c.dockTol : Int) < x) → e = d))
    ∧ (d.dkc.abortTaken = true ∨ d.dkc.sub ∈ [.idle, .clamping, .clamped, .unclamping, .failed] → e = d)
    ∧ d.standstillChanged false = ((d.claimsStandstill).dockStandstill).completeAbort
    ∧ (∀ m : Dev, m.odo.standstill = false →
      m.standstillChanged true = if m.dkc.sub = .correct then { m with dkc := { m.dkc with motionSeen := true } } else m)

/-! ### Brakes and drive -/

/-- The local stop input of an active BDU: at its activation the source is active, the service brake on and LOCAL-STOP active; at its
deactivation the source is inactive and LOCAL-STOP is no longer active, while the station state and the halt hold stay. The drive-ready
input makes its source follow, with no fault and no change of the station. The supply monitor input: at its activation the supply-low
latch is set, with the duty and the demand 0, traction off, the service brake on and the release train STOPPED with its output low, and
SUPPLY-LOW is active; at its deactivation the level alone changes, and the latch stays. Before BDU is active each level is kept and
nothing else changes. A change command that gives the level the input has already changes nothing (the model's reading, log 5). At an
expiry of the train watch timer the train is STOPPED, its output low and the timer stopped; a change from RUNNING is counted, and nothing
else changes. -/
def Obligations.BrakeInputsDriveTheirSources : Prop :=
  ∀ s : State, let d := s.dev
    (d.bdu.active = true → d.bdu.inLocalStop = false → ∃ e : Dev, exec (.localStopChange true) s = .next { s with dev := e }
      ∧ e.bdu.inLocalStop = true ∧ e.bdu.srcLocalStop = true ∧ e.bdu.serviceBrake = true ∧ e.faultActive .localStop = true
      ∧ e.cle = d.cle ∧ e.odo = d.odo ∧ e.peers = d.peers)
    ∧ (d.bdu.active = true → d.bdu.inLocalStop = true → ∃ e : Dev, exec (.localStopChange false) s = .next { s with dev := e }
      ∧ e.bdu.inLocalStop = false ∧ e.bdu.srcLocalStop = false ∧ e.faultActive .localStop = false ∧ e.stc = d.stc ∧ e.sup = d.sup
      ∧ e.cle = d.cle ∧ e.odo = d.odo ∧ e.peers = d.peers)
    ∧ (∀ ready, d.bdu.active = true → d.bdu.inDriveReady = !ready →
      ∃ e : Dev, exec (.driveReadyChange ready) s = .next { s with dev := e } ∧ e.bdu.inDriveReady = ready
        ∧ e.bdu.srcDriveNotReady = !ready ∧ (ready = false → e.bdu.serviceBrake = true) ∧ e.faults = d.faults ∧ e.stc = d.stc
        ∧ e.sup = d.sup ∧ e.cle = d.cle ∧ e.odo = d.odo ∧ e.lif = d.lif)
    ∧ (∀ level, d.bdu.active = false →
      exec (.localStopChange level) s = .next { s with dev := { d with bdu := { d.bdu with inLocalStop := level } } }
      ∧ exec (.driveReadyChange level) s = .next { s with dev := { d with bdu := { d.bdu with inDriveReady := level } } }
      ∧ exec (.supplyMonitorChange level) s = .next { s with dev := { d with bdu := { d.bdu with inSupplyLow := level } } })
    ∧ exec (.localStopChange d.bdu.inLocalStop) s = .next s ∧ exec (.driveReadyChange d.bdu.inDriveReady) s = .next s
    ∧ exec (.supplyMonitorChange d.bdu.inSupplyLow) s = .next s
    ∧ (d.bdu.active = true →
    (d.bdu.inSupplyLow = false → d.bdu.latchSupplyLow = false →
      ∃ e : Dev, exec (.supplyMonitorChange true) s = .next { s with dev := e }
        ∧ e.bdu.inSupplyLow = true ∧ e.bdu.latchSupplyLow = true ∧ e.bdu.duty = 0 ∧ e.sup.demand = 0 ∧ e.bdu.traction = false
        ∧ e.bdu.serviceBrake = true ∧ e.bdu.trainRunning = false ∧ e.bdu.trainLevel = false ∧ e.bdu.trainTimer = none
        ∧ e.faultActive .supplyLow = true ∧ e.cle = d.cle ∧ e.odo = d.odo ∧ e.peers = d.peers)
    ∧ (d.bdu.inSupplyLow = true →
      exec (.supplyMonitorChange false) s = .next { s with dev := { d with bdu := { d.bdu with inSupplyLow := false } } }))
    ∧ (d.due d.bdu.trainTimer = true →
    let low : Dev := { d with bdu := { d.bdu with trainRunning := false, trainLevel := false, trainTimer := none } }
    exec .trainWatchExpiry s = .next { s with dev := if d.bdu.trainRunning then low.bump .trainStops else low })

/-! ### Docking -/

/-- A change of a clamp sensor: before BDU is active the level alone is kept. At an active BDU, clamps-down becoming active makes the
duty and the demand 0 and traction off in every sub-state, and CLAMP-SENSOR active where no clamp was to come down; clamps-down becoming
inactive, with no departure to complete, lets the outputs follow the other sources. Clamps-up becoming active with no clamp movement in
progress and clamps-down inactive changes the level and the clamp watch alone. Clamps-up becoming inactive, with no docking to complete,
changes the same with a duty of 0; with a nonzero duty and the clamps-not-up latch clear it sets that latch, with the duty and the
demand 0, traction off, the service brake on, the release train STOPPED and CLAMP-SENSOR active. -/
def Obligations.ClampSensorsForceTheOutputs : Prop :=
  ∀ s : State, let d := s.dev
    (∀ level, d.bdu.active = false →
      exec (.clampSensorChange .down level) s = .next { s with dev := { d with bdu := { d.bdu with inClampsDown := level } } }
      ∧ exec (.clampSensorChange .up level) s = .next { s with dev := { d with bdu := { d.bdu with inClampsUp := level } } })
    ∧ (d.bdu.active = true → d.bdu.inClampsDown = false →
      ∃ e : Dev, exec (.clampSensorChange .down true) s = .next { s with dev := e }
        ∧ e.bdu.inClampsDown = true ∧ e.bdu.duty = 0 ∧ e.bdu.traction = false ∧ e.sup.demand = 0
        ∧ (d.dkc.sub ∈ [.idle, .creep, .stopping, .check, .correct, .failed] → e.faultActive .clampSensor = true))
    ∧ (d.bdu.active = true → d.bdu.inClampsDown = true → (d.dkc.sub ≠ .unclamping ∨ d.bdu.inClampsUp = false) →
      let b : Bdu := { d.bdu with inClampsDown := false }
      ∃ e : Dev, exec (.clampSensorChange .down false) s = .next { s with dev := e }
        ∧ e.bdu = { b with
            duty := if d.outputsHeld || b.forced then 0 else b.duty
            traction := !(d.outputsHeld || b.forced)
            serviceBrake := d.outputsHeld || b.sourced || b.latched }
        ∧ e.dkc.sub = d.dkc.sub ∧ e.stc = d.stc ∧ e.sup = d.sup ∧ e.faults = d.faults ∧ e.odo = d.odo ∧ e.cle = d.cle)
    ∧ (d.bdu.active = true → d.bdu.inClampsUp = false → d.bdu.inClampsDown = false → d.dkc.sub ≠ .unclamping →
      ∃ e : Dev, exec (.clampSensorChange .up true) s = .next { s with dev := e } ∧ e.bdu = { d.bdu with inClampsUp := true }
        ∧ e.dkc = { d.dkc with watchTimer := none } ∧ e.stc = d.stc ∧ e.sup = d.sup ∧ e.faults = d.faults ∧ e.odo = d.odo)
    ∧ (d.bdu.active = true → d.bdu.inClampsUp = true → (d.dkc.sub ≠ .clamping ∨ d.bdu.inClampsDown = false) →
      ∃ e : Dev, exec (.clampSensorChange .up false) s = .next { s with dev := e } ∧ e.bdu.inClampsUp = false ∧ e.cle = d.cle
        ∧ e.odo = d.odo ∧ e.peers = d.peers
        ∧ (d.bdu.duty = 0 → e.bdu = { d.bdu with inClampsUp := false } ∧ e.stc = d.stc ∧ e.sup = d.sup ∧ e.faults = d.faults)
        ∧ (d.bdu.duty ≠ 0 → d.bdu.latchClampsNotUp = false →
          e.bdu.latchClampsNotUp = true ∧ e.bdu.duty = 0 ∧ e.sup.demand = 0 ∧ e.bdu.traction = false ∧ e.bdu.serviceBrake = true
            ∧ e.bdu.trainRunning = false ∧ e.bdu.trainLevel = false ∧ e.bdu.trainTimer = none
            ∧ e.faultActive .clampSensor = true))

/-- In CLAMPING the docking completes when clamps-down becomes active with clamps-up inactive, or clamps-up inactive with clamps-down
active: DKC is CLAMPED with its clamp timer stopped and the clamp commands inactive, the order ends ARRIVED and leaves no order current,
the parked pad is its pad, and the station goes from DOCKING to PARKED. In UNCLAMPING the departure completes the other way round: DKC is
IDLE with its clamp timer stopped, the order goes on MOVING with no parked pad, and the station enters RUNNING with sub-state WAITING, or
HALTED remembering RUNNING when the halt hold is set. DKC's timers: the clamp timer's expiry in CLAMPING or UNCLAMPING makes CLAMP-TIMEOUT
active and ends the order FAILED with it, the correction watch's in CORRECT makes DOCK-FAILED active and ends the order FAILED with it,
each timer stopped, the clamp commands inactive and the cause kept as the last result; the clamp watch timer's expiry makes CLAMP-SENSOR
active and starts the timer again, and the order stays. -/
def Obligations.DockingMovementsEnd : Prop :=
  (∀ (s : State) (o : Order), let d := s.dev
      d.bdu.active = true → d.stc.order = some o →
      let docked (c : Instr) : Prop := ∃ e : Dev, exec c s = .next { s with dev := e }
        ∧ e.dkc.sub = .clamped ∧ e.dkc.last = .clamped ∧ e.dkc.clampTimer = none ∧ e.bdu.clampDown = false ∧ e.bdu.clampUp = false
        ∧ e.stc.state = .parked ∧ e.stc.order = none ∧ e.stc.parkedPad = some o.pad ∧ e.stc.lastOrder = ⟨o.id, some .arrived, none⟩
        ∧ e.cle.view = none ∧ e.cle.lossCount = 0 ∧ e.sup.vOrder = none ∧ e.odo.pos.idx = none ∧ e.peers = d.peers
      let departed (c : Instr) : Prop := ∃ e : Dev, exec c s = .next { s with dev := e }
        ∧ e.dkc.sub = .idle ∧ e.dkc.last = .unclamped ∧ e.dkc.clampTimer = none ∧ e.bdu.clampDown = false ∧ e.bdu.clampUp = false
        ∧ e.stc.order = some { o with departing := false } ∧ e.stc.parkedPad = none ∧ e.cle = d.cle ∧ e.odo = d.odo ∧ e.sup = d.sup
        ∧ (d.stc.haltHold = false → e.stc.state = .running ∧ e.stc.waiting = true)
        ∧ (d.stc.haltHold = true → e.stc.state = .halted ∧ e.stc.remembered = some .running)
      (d.dkc.sub = .clamping → d.dkc.abortTaken = false → d.stc.state = .docking →
        (d.bdu.inClampsDown = false → d.bdu.inClampsUp = false → docked (.clampSensorChange .down true))
        ∧ (d.bdu.inClampsDown = true → d.bdu.inClampsUp = true → d.bdu.duty = 0 → docked (.clampSensorChange .up false)))
      ∧ (d.dkc.sub = .unclamping → d.stc.state = .parked →
        (d.bdu.inClampsDown = false → d.bdu.inClampsUp = false → departed (.clampSensorChange .up true))
        ∧ (d.bdu.inClampsDown = true → d.bdu.inClampsUp = true → departed (.clampSensorChange .down false))))
  ∧ (∀ (s : State) (o : Order), let d := s.dev
      d.stc.order = some o →
      let failed (c : Instr) (cause : DockCause) (k : FaultKind) : Prop := ∃ e : Dev, exec c s = .next { s with dev := e }
        ∧ e.faultActive k = true ∧ e.stc.order = none ∧ e.stc.lastOrder = ⟨o.id, some .failed, some k⟩
        ∧ e.dkc.last = .failed cause ∧ e.dkc.clampTimer = none ∧ e.dkc.corrTimer = none ∧ e.bdu.clampDown = false
        ∧ e.bdu.clampUp = false ∧ e.peers = d.peers
        ∧ (d.stc.state ∈ [.running, .approach, .docking] → e.stc.state = .halted ∧ e.stc.remembered = some .rest)
      ((d.dkc.sub = .clamping ∨ d.dkc.sub = .unclamping) → d.due d.dkc.clampTimer = true →
        failed .clampTimerExpiry .clampTimeout .clampTimeout)
      ∧ (d.dkc.sub = .correct → d.due d.dkc.corrTimer = true → failed .correctionWatchExpiry .correctionTimeout .dockFailed)
      ∧ (d.due d.dkc.watchTimer = true → ∃ e : Dev, exec .clampWatchExpiry s = .next { s with dev := e }
          ∧ e.faultActive .clampSensor = true ∧ e.dkc.watchTimer = some (d.now + d.tmp.carriage.clampTimeout * 1000)
          ∧ e.stc.order = some o ∧ e.cle = d.cle ∧ e.odo = d.odo))

/-! ### The maintenance port -/

/-- The port's reads and its window: READ-IDENT gives the result OK and the three identification bytes, READ-STATUS gives OK and the
status record, the summaries of the blocks in the order of R190, whose first byte is the code of the station state (START, BOOT-FAILED
and BOOT-HOLD as 0, 1 and 2: log 27; the field widths: log 26; the fields that stand without a presence byte and the codes of values
with no list of their own: log 67); SET-WINDOW takes a table code of 0..3, an index and an auto-increment of 0 or 1,
and answers BAD-COMMAND, counted, for other values; READ-WINDOW gives the table, the index, the record's length and the record, an
absent record as length 0, and steps the index on with auto-increment. Nothing but the port's own state changes. -/
def Obligations.PortReadsAndWindow : Prop :=
  ∀ (s : State) (table : Byte) (index : BitVec 16) (auto : Byte), let d := s.dev; let m := d.mnp
    let shifts (c : Instr) (m' : Mnp) : Prop := exec c s = .next { s with dev := { d with mnp := m' } }
    let head := beBytes 1 m.table.ctorIdx ++ beBytes 2 m.index
    shifts .readIdent { m with output := [0x00, 0x41, 0x1A, 0x03], reported := none }
    ∧ (shifts .readStatus { m with output := 0 :: d.statusRecord, reported := none }
      ∧ d.statusRecord.head? = some (BitVec.ofNat 8 d.stc.state.code)
      ∧ d.statusRecord = d.stationSummary ++ d.bootSummary ++ d.writeSummary ++ beBytes 1 d.tmp.phase.ctorIdx
          ++ beBytes 4 d.tmp.signature.toNat ++ d.odoSummary ++ d.claimSummary ++ d.supSummary ++ d.bduSummary ++ d.dockSummary
          ++ d.lifSummary ++ d.faultSummaryRecord ++ d.mailboxFlags ++ beBytes 2 m.badCommands.toNat)
    ∧ (∀ t, WindowTable.ofCode table.toNat = some t → auto.toNat ≤ 1 → shifts (.setWindow table index auto)
        { m with table := t, index := index.toNat, auto := auto == 1, output := [0], reported := none })
    ∧ (WindowTable.ofCode table.toNat = none ∨ 1 < auto.toNat → shifts (.setWindow table index auto)
        { m with badCommands := satInc m.badCommands, output := [3], reported := none })
    ∧ shifts .badCommand { m with badCommands := satInc m.badCommands, output := [3], reported := none }
    ∧ (∀ r, (d.windowRecords m.table)[m.index]? = some r → shifts .readWindow
        { m with output := 0 :: (head ++ beBytes 1 r.length ++ r), reported := none
                 index := if m.auto then m.index + 1 else m.index })
    ∧ ((d.windowRecords m.table)[m.index]? = none → shifts .readWindow { m with output := 0 :: (head ++ [0]), reported := none })

/-- READ-COUNTERS shifts out the result OK and every counter in two bytes, and changes no counter; the end of its transaction reduces
each counter by the value reported for it, and a completion with no READ-COUNTERS before it changes nothing. WRITE-BOOT answers LOCKED
outside BOOT-HOLD, BUSY while a write is in progress and RANGE for a block above 511; otherwise it answers OK and the write is IN-PROGRESS
with its 20 ms timer. The read-back ends it with DONE when it agrees with the data and MISMATCH when it does not, and the timer with
NO-RESPONSE. Nothing but the port's own state, and the counters at that end, changes. -/
def Obligations.CountersAndBootWrites : Prop :=
  (∀ s : State, let d := s.dev
      (exec .readCounters s = .next { s with dev := { d with mnp := { d.mnp with
        output := 0 :: d.counters.flatMap (fun c => beBytes 2 c.toNat), reported := some d.counters } } })
      ∧ (∀ vs, d.mnp.reported = some vs → d.counters.length = Counter.count → vs.length = Counter.count →
          ∃ e : Dev, exec .readCountersComplete s = .next { s with dev := e } ∧ e.mnp = { d.mnp with reported := none }
            ∧ (∀ c : Counter, (e.counter c).toNat = (d.counter c).toNat - (vs.getD c.index 0).toNat)
            ∧ { e with counters := d.counters, mnp := d.mnp } = d)
      ∧ (d.mnp.reported = none → exec .readCountersComplete s = .next s))
  ∧ (∀ (s : State) (block : BitVec 16) (data : List Byte) (w : BootWrite), let d := s.dev; let m := d.mnp
      let busy : Prop := ∃ w, m.write = some w ∧ w.ending = .inProgress
      let port (c : Instr) (m' : Mnp) : Prop := exec c s = .next { s with dev := { d with mnp := m' } }
      let ended (x : WriteEnd) : Mnp := { m with write := some { w with ending := x, data := [] }, writeTimer := none }
      (d.stc.state ≠ .bootHold → port (.writeBoot block data) { m with output := [1], reported := none })
      ∧ (d.stc.state = .bootHold → busy → port (.writeBoot block data) { m with output := [2], reported := none })
      ∧ (d.stc.state = .bootHold → ¬busy → 511 < block.toNat → port (.writeBoot block data) { m with output := [4], reported := none })
      ∧ (d.stc.state = .bootHold → ¬busy → block.toNat ≤ 511 → port (.writeBoot block data)
          { m with write := some { block := block.toNat, ending := .inProgress, data := data }
                   writeTimer := some (d.now + 20000), output := [0], reported := none })
      ∧ (m.write = some w → w.ending = .inProgress → port (.bootWriteReadback data) (ended (if w.data = data then .done else .mismatch)))
      ∧ (m.write = some w → w.ending = .inProgress → d.due m.writeTimer = true → port .bootWriteTimeout (ended .noResponse)))

/-! ### Properties of the arithmetic and invariants of every step -/

/-- Precedence between tickets: the set occupancy flag, then the higher loss count, then the higher priority, then the lower station
number outranks; no ticket outranks itself, of two tickets of different stations exactly one outranks the other, and precedence is
transitive. -/
def Obligations.TicketsRankInOneOrder : Prop :=
  (∀ t u : Ticket, t.outranks u = true ↔ (t.occupancy = true ∧ u.occupancy = false) ∨
      (t.occupancy = u.occupancy ∧ (u.loss < t.loss ∨ (t.loss = u.loss ∧ (u.priority < t.priority ∨
        (t.priority = u.priority ∧ t.station < u.station))))))
    ∧ (∀ t : Ticket, t.outranks t = false)
    ∧ (∀ t u : Ticket, t.station ≠ u.station → (t.outranks u = true ↔ u.outranks t = false))
    ∧ (∀ t u v : Ticket, t.outranks u = true → u.outranks v = true → t.outranks v = true)

/-- The machine right after reset, and the part after the command RESET, satisfy the invariants of every step. -/
def Obligations.ResetSatisfiesTheInvariants : Prop :=
  (let d := State.reset.dev; d.lineOk ∧ d.claimsOk ∧ d.faultsOk ∧ d.peersOk ∧ d.outputsOk ∧ d.lineFollows ∧ d.demandOk)
    ∧ ∀ (b : Bool) (s : State), ∃ t, exec (.reset b) s = .next t
      ∧ (let d := t.dev; d.lineOk ∧ d.claimsOk ∧ d.faultsOk ∧ d.peersOk ∧ d.outputsOk ∧ d.lineFollows ∧ d.demandOk)

/-- Every step keeps the limits and the orders of the part's lists: at most 8 frames queued with one BEACON among them, in ascending
class, so that the first is of the most urgent class present, at most 16 in the mailbox; at most 8 claims with no section twice, those
with no route index first and the route entries in ascending route index, every entry that is not HELD a route entry, at most one
CONTENDING or BLOCKED and that the front entry, and a loss count of 15 or less; each fault kind at most once in ascending code, and one
peer record for each station in ascending number. -/
def Obligations.EveryStepKeepsTheListLimits : Prop :=
  ∀ s t : State, step s = .next t → s.dev.lineOk → s.dev.claimsOk → s.dev.faultsOk → s.dev.peersOk →
    t.dev.lineOk ∧ (t.dev.lif.queue.map (fun x => x.kind.txClass)).Pairwise (· ≤ ·) ∧ t.dev.faultsOk ∧ t.dev.peersOk
      ∧ t.dev.cle.table.length ≤ 8 ∧ (t.dev.cle.table.map (·.sec)).Nodup ∧ t.dev.cle.lossCount ≤ 15
      ∧ (t.dev.cle.table.map (fun e => e.idx.getD 0)).Pairwise (· ≤ ·)
      ∧ (∀ e ∈ t.dev.cle.table, e.isHeld = false → e.idx.isSome = true)
      ∧ (∀ e ∈ t.dev.cle.table, (e.isContending || e.isBlocked) = true → t.dev.cle.front = some e)
      ∧ t.dev.cle.table.countP (fun e => e.isContending || e.isBlocked) ≤ 1

/-- Every step keeps the outputs with the brake sources: traction is on exactly while no latch, no clamps-down sensor, no clamp-down
command and no inactivity holds it off, the service brake is on exactly while a source or a latch or inactivity holds it on, the duty
is 0 while traction is held off, the two clamp commands are never both active, and a set latch keeps the release train STOPPED. Every
step keeps the direction line at the record's direction of travel (log 7). -/
def Obligations.EveryStepKeepsTheOutputs : Prop :=
  ∀ s t : State, step s = .next t →
    (s.dev.outputsOk → t.dev.outputsOk) ∧ (s.dev.lineFollows → t.dev.lineFollows)

/-- Every step keeps the speed demand within the permitted speed. -/
def Obligations.EveryStepKeepsTheDemandPermitted : Prop :=
  ∀ s t : State, step s = .next t → s.dev.demandOk → t.dev.demandOk
end

