-- ==== Sys2Proof/Laws/State.lean ====
section
/-! SUPPORT. One lemma for each field and each simple update of the part, so that no later proof unfolds a record update. -/

namespace Sys2Proof.Machine

/-! One more on a counter (R190) changes the counters alone. -/

@[simp] theorem Dev.bump_tmp (d : Dev) (c : Counter) : (d.bump c).tmp = d.tmp := rfl
@[simp] theorem Dev.bump_odo (d : Dev) (c : Counter) : (d.bump c).odo = d.odo := rfl
@[simp] theorem Dev.bump_peers (d : Dev) (c : Counter) : (d.bump c).peers = d.peers := rfl
@[simp] theorem Dev.bump_cle (d : Dev) (c : Counter) : (d.bump c).cle = d.cle := rfl
@[simp] theorem Dev.bump_sup (d : Dev) (c : Counter) : (d.bump c).sup = d.sup := rfl
@[simp] theorem Dev.bump_bdu (d : Dev) (c : Counter) : (d.bump c).bdu = d.bdu := rfl
@[simp] theorem Dev.bump_dkc (d : Dev) (c : Counter) : (d.bump c).dkc = d.dkc := rfl
@[simp] theorem Dev.bump_stc (d : Dev) (c : Counter) : (d.bump c).stc = d.stc := rfl
@[simp] theorem Dev.bump_lif (d : Dev) (c : Counter) : (d.bump c).lif = d.lif := rfl
@[simp] theorem Dev.bump_faults (d : Dev) (c : Counter) : (d.bump c).faults = d.faults := rfl
@[simp] theorem Dev.bump_btl (d : Dev) (c : Counter) : (d.bump c).btl = d.btl := rfl
@[simp] theorem Dev.bump_mnp (d : Dev) (c : Counter) : (d.bump c).mnp = d.mnp := rfl
@[simp] theorem Dev.bump_now (d : Dev) (c : Counter) : (d.bump c).now = d.now := rfl
@[simp] theorem Dev.bump_freeCount (d : Dev) (c : Counter) : (d.bump c).freeCount = d.freeCount := rfl

/-! More on a counter (R190) changes the counters alone. -/

@[simp] theorem Dev.bumpBy_tmp (d : Dev) (c : Counter) (n : Nat) : (d.bumpBy c n).tmp = d.tmp := rfl
@[simp] theorem Dev.bumpBy_odo (d : Dev) (c : Counter) (n : Nat) : (d.bumpBy c n).odo = d.odo := rfl
@[simp] theorem Dev.bumpBy_peers (d : Dev) (c : Counter) (n : Nat) : (d.bumpBy c n).peers = d.peers := rfl
@[simp] theorem Dev.bumpBy_cle (d : Dev) (c : Counter) (n : Nat) : (d.bumpBy c n).cle = d.cle := rfl
@[simp] theorem Dev.bumpBy_sup (d : Dev) (c : Counter) (n : Nat) : (d.bumpBy c n).sup = d.sup := rfl
@[simp] theorem Dev.bumpBy_bdu (d : Dev) (c : Counter) (n : Nat) : (d.bumpBy c n).bdu = d.bdu := rfl
@[simp] theorem Dev.bumpBy_dkc (d : Dev) (c : Counter) (n : Nat) : (d.bumpBy c n).dkc = d.dkc := rfl
@[simp] theorem Dev.bumpBy_stc (d : Dev) (c : Counter) (n : Nat) : (d.bumpBy c n).stc = d.stc := rfl
@[simp] theorem Dev.bumpBy_lif (d : Dev) (c : Counter) (n : Nat) : (d.bumpBy c n).lif = d.lif := rfl
@[simp] theorem Dev.bumpBy_faults (d : Dev) (c : Counter) (n : Nat) : (d.bumpBy c n).faults = d.faults := rfl
@[simp] theorem Dev.bumpBy_btl (d : Dev) (c : Counter) (n : Nat) : (d.bumpBy c n).btl = d.btl := rfl
@[simp] theorem Dev.bumpBy_mnp (d : Dev) (c : Counter) (n : Nat) : (d.bumpBy c n).mnp = d.mnp := rfl
@[simp] theorem Dev.bumpBy_now (d : Dev) (c : Counter) (n : Nat) : (d.bumpBy c n).now = d.now := rfl
@[simp] theorem Dev.bumpBy_freeCount (d : Dev) (c : Counter) (n : Nat) : (d.bumpBy c n).freeCount = d.freeCount := rfl

/-! A free choice made (log 40) changes the index of the next one alone. -/

@[simp] theorem Dev.drawn_tmp (d : Dev) : (d.drawn).tmp = d.tmp := rfl
@[simp] theorem Dev.drawn_odo (d : Dev) : (d.drawn).odo = d.odo := rfl
@[simp] theorem Dev.drawn_peers (d : Dev) : (d.drawn).peers = d.peers := rfl
@[simp] theorem Dev.drawn_cle (d : Dev) : (d.drawn).cle = d.cle := rfl
@[simp] theorem Dev.drawn_sup (d : Dev) : (d.drawn).sup = d.sup := rfl
@[simp] theorem Dev.drawn_bdu (d : Dev) : (d.drawn).bdu = d.bdu := rfl
@[simp] theorem Dev.drawn_dkc (d : Dev) : (d.drawn).dkc = d.dkc := rfl
@[simp] theorem Dev.drawn_stc (d : Dev) : (d.drawn).stc = d.stc := rfl
@[simp] theorem Dev.drawn_lif (d : Dev) : (d.drawn).lif = d.lif := rfl
@[simp] theorem Dev.drawn_faults (d : Dev) : (d.drawn).faults = d.faults := rfl
@[simp] theorem Dev.drawn_btl (d : Dev) : (d.drawn).btl = d.btl := rfl
@[simp] theorem Dev.drawn_mnp (d : Dev) : (d.drawn).mnp = d.mnp := rfl
@[simp] theorem Dev.drawn_counters (d : Dev) : (d.drawn).counters = d.counters := rfl
@[simp] theorem Dev.drawn_now (d : Dev) : (d.drawn).now = d.now := rfl

/-! Re-judging the outputs (R110) changes the Brake and Drive Unit alone. -/

@[simp] theorem Dev.settle_tmp (d : Dev) : (d.settle).tmp = d.tmp := rfl
@[simp] theorem Dev.settle_odo (d : Dev) : (d.settle).odo = d.odo := rfl
@[simp] theorem Dev.settle_peers (d : Dev) : (d.settle).peers = d.peers := rfl
@[simp] theorem Dev.settle_cle (d : Dev) : (d.settle).cle = d.cle := rfl
@[simp] theorem Dev.settle_sup (d : Dev) : (d.settle).sup = d.sup := rfl
@[simp] theorem Dev.settle_dkc (d : Dev) : (d.settle).dkc = d.dkc := rfl
@[simp] theorem Dev.settle_stc (d : Dev) : (d.settle).stc = d.stc := rfl
@[simp] theorem Dev.settle_lif (d : Dev) : (d.settle).lif = d.lif := rfl
@[simp] theorem Dev.settle_faults (d : Dev) : (d.settle).faults = d.faults := rfl
@[simp] theorem Dev.settle_btl (d : Dev) : (d.settle).btl = d.btl := rfl
@[simp] theorem Dev.settle_mnp (d : Dev) : (d.settle).mnp = d.mnp := rfl
@[simp] theorem Dev.settle_counters (d : Dev) : (d.settle).counters = d.counters := rfl
@[simp] theorem Dev.settle_now (d : Dev) : (d.settle).now = d.now := rfl
@[simp] theorem Dev.settle_freeCount (d : Dev) : (d.settle).freeCount = d.freeCount := rfl

/-! Zeroing the demand (R104) changes the Supervision Unit and the Brake and Drive Unit alone. -/

@[simp] theorem Dev.zeroDemand_tmp (d : Dev) : (d.zeroDemand).tmp = d.tmp := rfl
@[simp] theorem Dev.zeroDemand_odo (d : Dev) : (d.zeroDemand).odo = d.odo := rfl
@[simp] theorem Dev.zeroDemand_peers (d : Dev) : (d.zeroDemand).peers = d.peers := rfl
@[simp] theorem Dev.zeroDemand_cle (d : Dev) : (d.zeroDemand).cle = d.cle := rfl
@[simp] theorem Dev.zeroDemand_dkc (d : Dev) : (d.zeroDemand).dkc = d.dkc := rfl
@[simp] theorem Dev.zeroDemand_stc (d : Dev) : (d.zeroDemand).stc = d.stc := rfl
@[simp] theorem Dev.zeroDemand_lif (d : Dev) : (d.zeroDemand).lif = d.lif := rfl
@[simp] theorem Dev.zeroDemand_faults (d : Dev) : (d.zeroDemand).faults = d.faults := rfl
@[simp] theorem Dev.zeroDemand_btl (d : Dev) : (d.zeroDemand).btl = d.btl := rfl
@[simp] theorem Dev.zeroDemand_mnp (d : Dev) : (d.zeroDemand).mnp = d.mnp := rfl
@[simp] theorem Dev.zeroDemand_counters (d : Dev) : (d.zeroDemand).counters = d.counters := rfl
@[simp] theorem Dev.zeroDemand_now (d : Dev) : (d.zeroDemand).now = d.now := rfl
@[simp] theorem Dev.zeroDemand_freeCount (d : Dev) : (d.zeroDemand).freeCount = d.freeCount := rfl

/-! Changing an entry of the claim table changes the Claim Engine alone. -/

@[simp] theorem Dev.updateClaim_tmp (d : Dev) (sec : Nat) (f : Claim → Claim) : (d.updateClaim sec f).tmp = d.tmp := rfl
@[simp] theorem Dev.updateClaim_odo (d : Dev) (sec : Nat) (f : Claim → Claim) : (d.updateClaim sec f).odo = d.odo := rfl
@[simp] theorem Dev.updateClaim_peers (d : Dev) (sec : Nat) (f : Claim → Claim) : (d.updateClaim sec f).peers = d.peers := rfl
@[simp] theorem Dev.updateClaim_sup (d : Dev) (sec : Nat) (f : Claim → Claim) : (d.updateClaim sec f).sup = d.sup := rfl
@[simp] theorem Dev.updateClaim_bdu (d : Dev) (sec : Nat) (f : Claim → Claim) : (d.updateClaim sec f).bdu = d.bdu := rfl
@[simp] theorem Dev.updateClaim_dkc (d : Dev) (sec : Nat) (f : Claim → Claim) : (d.updateClaim sec f).dkc = d.dkc := rfl
@[simp] theorem Dev.updateClaim_stc (d : Dev) (sec : Nat) (f : Claim → Claim) : (d.updateClaim sec f).stc = d.stc := rfl
@[simp] theorem Dev.updateClaim_lif (d : Dev) (sec : Nat) (f : Claim → Claim) : (d.updateClaim sec f).lif = d.lif := rfl
@[simp] theorem Dev.updateClaim_faults (d : Dev) (sec : Nat) (f : Claim → Claim) : (d.updateClaim sec f).faults = d.faults := rfl
@[simp] theorem Dev.updateClaim_btl (d : Dev) (sec : Nat) (f : Claim → Claim) : (d.updateClaim sec f).btl = d.btl := rfl
@[simp] theorem Dev.updateClaim_mnp (d : Dev) (sec : Nat) (f : Claim → Claim) : (d.updateClaim sec f).mnp = d.mnp := rfl
@[simp] theorem Dev.updateClaim_counters (d : Dev) (sec : Nat) (f : Claim → Claim) : (d.updateClaim sec f).counters = d.counters := rfl
@[simp] theorem Dev.updateClaim_now (d : Dev) (sec : Nat) (f : Claim → Claim) : (d.updateClaim sec f).now = d.now := rfl
@[simp] theorem Dev.updateClaim_freeCount (d : Dev) (sec : Nat) (f : Claim → Claim) : (d.updateClaim sec f).freeCount = d.freeCount := rfl

/-! Withdrawing an INTENT (R67) changes the Line Interface alone. -/

@[simp] theorem Dev.withdraw_tmp (d : Dev) (tag : Nat) : (d.withdraw tag).tmp = d.tmp := rfl
@[simp] theorem Dev.withdraw_odo (d : Dev) (tag : Nat) : (d.withdraw tag).odo = d.odo := rfl
@[simp] theorem Dev.withdraw_peers (d : Dev) (tag : Nat) : (d.withdraw tag).peers = d.peers := rfl
@[simp] theorem Dev.withdraw_cle (d : Dev) (tag : Nat) : (d.withdraw tag).cle = d.cle := rfl
@[simp] theorem Dev.withdraw_sup (d : Dev) (tag : Nat) : (d.withdraw tag).sup = d.sup := rfl
@[simp] theorem Dev.withdraw_bdu (d : Dev) (tag : Nat) : (d.withdraw tag).bdu = d.bdu := rfl
@[simp] theorem Dev.withdraw_dkc (d : Dev) (tag : Nat) : (d.withdraw tag).dkc = d.dkc := rfl
@[simp] theorem Dev.withdraw_stc (d : Dev) (tag : Nat) : (d.withdraw tag).stc = d.stc := rfl
@[simp] theorem Dev.withdraw_faults (d : Dev) (tag : Nat) : (d.withdraw tag).faults = d.faults := rfl
@[simp] theorem Dev.withdraw_btl (d : Dev) (tag : Nat) : (d.withdraw tag).btl = d.btl := rfl
@[simp] theorem Dev.withdraw_mnp (d : Dev) (tag : Nat) : (d.withdraw tag).mnp = d.mnp := rfl
@[simp] theorem Dev.withdraw_counters (d : Dev) (tag : Nat) : (d.withdraw tag).counters = d.counters := rfl
@[simp] theorem Dev.withdraw_now (d : Dev) (tag : Nat) : (d.withdraw tag).now = d.now := rfl
@[simp] theorem Dev.withdraw_freeCount (d : Dev) (tag : Nat) : (d.withdraw tag).freeCount = d.freeCount := rfl

/-! Changing a peer record (R40) changes the peer table alone. -/

@[simp] theorem Dev.setPeer_tmp (d : Dev) (r : PeerRec) : (d.setPeer r).tmp = d.tmp := rfl
@[simp] theorem Dev.setPeer_odo (d : Dev) (r : PeerRec) : (d.setPeer r).odo = d.odo := rfl
@[simp] theorem Dev.setPeer_cle (d : Dev) (r : PeerRec) : (d.setPeer r).cle = d.cle := rfl
@[simp] theorem Dev.setPeer_sup (d : Dev) (r : PeerRec) : (d.setPeer r).sup = d.sup := rfl
@[simp] theorem Dev.setPeer_bdu (d : Dev) (r : PeerRec) : (d.setPeer r).bdu = d.bdu := rfl
@[simp] theorem Dev.setPeer_dkc (d : Dev) (r : PeerRec) : (d.setPeer r).dkc = d.dkc := rfl
@[simp] theorem Dev.setPeer_stc (d : Dev) (r : PeerRec) : (d.setPeer r).stc = d.stc := rfl
@[simp] theorem Dev.setPeer_lif (d : Dev) (r : PeerRec) : (d.setPeer r).lif = d.lif := rfl
@[simp] theorem Dev.setPeer_faults (d : Dev) (r : PeerRec) : (d.setPeer r).faults = d.faults := rfl
@[simp] theorem Dev.setPeer_btl (d : Dev) (r : PeerRec) : (d.setPeer r).btl = d.btl := rfl
@[simp] theorem Dev.setPeer_mnp (d : Dev) (r : PeerRec) : (d.setPeer r).mnp = d.mnp := rfl
@[simp] theorem Dev.setPeer_counters (d : Dev) (r : PeerRec) : (d.setPeer r).counters = d.counters := rfl
@[simp] theorem Dev.setPeer_now (d : Dev) (r : PeerRec) : (d.setPeer r).now = d.now := rfl
@[simp] theorem Dev.setPeer_freeCount (d : Dev) (r : PeerRec) : (d.setPeer r).freeCount = d.freeCount := rfl

/-! Changing the position record (R24) changes the Odometer alone. -/

@[simp] theorem Dev.withPos_tmp (d : Dev) (p : PositionRec) : (d.withPos p).tmp = d.tmp := rfl
@[simp] theorem Dev.withPos_peers (d : Dev) (p : PositionRec) : (d.withPos p).peers = d.peers := rfl
@[simp] theorem Dev.withPos_cle (d : Dev) (p : PositionRec) : (d.withPos p).cle = d.cle := rfl
@[simp] theorem Dev.withPos_sup (d : Dev) (p : PositionRec) : (d.withPos p).sup = d.sup := rfl
@[simp] theorem Dev.withPos_bdu (d : Dev) (p : PositionRec) : (d.withPos p).bdu = d.bdu := rfl
@[simp] theorem Dev.withPos_dkc (d : Dev) (p : PositionRec) : (d.withPos p).dkc = d.dkc := rfl
@[simp] theorem Dev.withPos_stc (d : Dev) (p : PositionRec) : (d.withPos p).stc = d.stc := rfl
@[simp] theorem Dev.withPos_lif (d : Dev) (p : PositionRec) : (d.withPos p).lif = d.lif := rfl
@[simp] theorem Dev.withPos_faults (d : Dev) (p : PositionRec) : (d.withPos p).faults = d.faults := rfl
@[simp] theorem Dev.withPos_btl (d : Dev) (p : PositionRec) : (d.withPos p).btl = d.btl := rfl
@[simp] theorem Dev.withPos_mnp (d : Dev) (p : PositionRec) : (d.withPos p).mnp = d.mnp := rfl
@[simp] theorem Dev.withPos_counters (d : Dev) (p : PositionRec) : (d.withPos p).counters = d.counters := rfl
@[simp] theorem Dev.withPos_now (d : Dev) (p : PositionRec) : (d.withPos p).now = d.now := rfl
@[simp] theorem Dev.withPos_freeCount (d : Dev) (p : PositionRec) : (d.withPos p).freeCount = d.freeCount := rfl

/-! Finding the next marker due (R33) changes the Odometer alone. -/

@[simp] theorem Dev.findDue_tmp (d : Dev) : (d.findDue).tmp = d.tmp := rfl
@[simp] theorem Dev.findDue_peers (d : Dev) : (d.findDue).peers = d.peers := rfl
@[simp] theorem Dev.findDue_cle (d : Dev) : (d.findDue).cle = d.cle := rfl
@[simp] theorem Dev.findDue_sup (d : Dev) : (d.findDue).sup = d.sup := rfl
@[simp] theorem Dev.findDue_bdu (d : Dev) : (d.findDue).bdu = d.bdu := rfl
@[simp] theorem Dev.findDue_dkc (d : Dev) : (d.findDue).dkc = d.dkc := rfl
@[simp] theorem Dev.findDue_stc (d : Dev) : (d.findDue).stc = d.stc := rfl
@[simp] theorem Dev.findDue_lif (d : Dev) : (d.findDue).lif = d.lif := rfl
@[simp] theorem Dev.findDue_faults (d : Dev) : (d.findDue).faults = d.faults := rfl
@[simp] theorem Dev.findDue_btl (d : Dev) : (d.findDue).btl = d.btl := rfl
@[simp] theorem Dev.findDue_mnp (d : Dev) : (d.findDue).mnp = d.mnp := rfl
@[simp] theorem Dev.findDue_counters (d : Dev) : (d.findDue).counters = d.counters := rfl
@[simp] theorem Dev.findDue_now (d : Dev) : (d.findDue).now = d.now := rfl
@[simp] theorem Dev.findDue_freeCount (d : Dev) : (d.findDue).freeCount = d.freeCount := rfl

/-! Changing the sub-state (R127) changes the Dock Controller alone. -/

@[simp] theorem Dev.setDock_tmp (d : Dev) (x : DockState) : (d.setDock x).tmp = d.tmp := rfl
@[simp] theorem Dev.setDock_odo (d : Dev) (x : DockState) : (d.setDock x).odo = d.odo := rfl
@[simp] theorem Dev.setDock_peers (d : Dev) (x : DockState) : (d.setDock x).peers = d.peers := rfl
@[simp] theorem Dev.setDock_cle (d : Dev) (x : DockState) : (d.setDock x).cle = d.cle := rfl
@[simp] theorem Dev.setDock_sup (d : Dev) (x : DockState) : (d.setDock x).sup = d.sup := rfl
@[simp] theorem Dev.setDock_bdu (d : Dev) (x : DockState) : (d.setDock x).bdu = d.bdu := rfl
@[simp] theorem Dev.setDock_stc (d : Dev) (x : DockState) : (d.setDock x).stc = d.stc := rfl
@[simp] theorem Dev.setDock_lif (d : Dev) (x : DockState) : (d.setDock x).lif = d.lif := rfl
@[simp] theorem Dev.setDock_faults (d : Dev) (x : DockState) : (d.setDock x).faults = d.faults := rfl
@[simp] theorem Dev.setDock_btl (d : Dev) (x : DockState) : (d.setDock x).btl = d.btl := rfl
@[simp] theorem Dev.setDock_mnp (d : Dev) (x : DockState) : (d.setDock x).mnp = d.mnp := rfl
@[simp] theorem Dev.setDock_counters (d : Dev) (x : DockState) : (d.setDock x).counters = d.counters := rfl
@[simp] theorem Dev.setDock_now (d : Dev) (x : DockState) : (d.setDock x).now = d.now := rfl
@[simp] theorem Dev.setDock_freeCount (d : Dev) (x : DockState) : (d.setDock x).freeCount = d.freeCount := rfl

/-! Changing the Line Interface changes it alone. -/

@[simp] theorem Dev.setLif_tmp (d : Dev) (l : Lif) : (d.setLif l).tmp = d.tmp := rfl
@[simp] theorem Dev.setLif_odo (d : Dev) (l : Lif) : (d.setLif l).odo = d.odo := rfl
@[simp] theorem Dev.setLif_peers (d : Dev) (l : Lif) : (d.setLif l).peers = d.peers := rfl
@[simp] theorem Dev.setLif_cle (d : Dev) (l : Lif) : (d.setLif l).cle = d.cle := rfl
@[simp] theorem Dev.setLif_sup (d : Dev) (l : Lif) : (d.setLif l).sup = d.sup := rfl
@[simp] theorem Dev.setLif_bdu (d : Dev) (l : Lif) : (d.setLif l).bdu = d.bdu := rfl
@[simp] theorem Dev.setLif_dkc (d : Dev) (l : Lif) : (d.setLif l).dkc = d.dkc := rfl
@[simp] theorem Dev.setLif_stc (d : Dev) (l : Lif) : (d.setLif l).stc = d.stc := rfl
@[simp] theorem Dev.setLif_faults (d : Dev) (l : Lif) : (d.setLif l).faults = d.faults := rfl
@[simp] theorem Dev.setLif_btl (d : Dev) (l : Lif) : (d.setLif l).btl = d.btl := rfl
@[simp] theorem Dev.setLif_mnp (d : Dev) (l : Lif) : (d.setLif l).mnp = d.mnp := rfl
@[simp] theorem Dev.setLif_counters (d : Dev) (l : Lif) : (d.setLif l).counters = d.counters := rfl
@[simp] theorem Dev.setLif_now (d : Dev) (l : Lif) : (d.setLif l).now = d.now := rfl
@[simp] theorem Dev.setLif_freeCount (d : Dev) (l : Lif) : (d.setLif l).freeCount = d.freeCount := rfl

/-! Changing the link test (R176) changes the Line Interface alone. -/

@[simp] theorem Dev.setTest_tmp (d : Dev) (t : Option LinkTest) : (d.setTest t).tmp = d.tmp := rfl
@[simp] theorem Dev.setTest_odo (d : Dev) (t : Option LinkTest) : (d.setTest t).odo = d.odo := rfl
@[simp] theorem Dev.setTest_peers (d : Dev) (t : Option LinkTest) : (d.setTest t).peers = d.peers := rfl
@[simp] theorem Dev.setTest_cle (d : Dev) (t : Option LinkTest) : (d.setTest t).cle = d.cle := rfl
@[simp] theorem Dev.setTest_sup (d : Dev) (t : Option LinkTest) : (d.setTest t).sup = d.sup := rfl
@[simp] theorem Dev.setTest_bdu (d : Dev) (t : Option LinkTest) : (d.setTest t).bdu = d.bdu := rfl
@[simp] theorem Dev.setTest_dkc (d : Dev) (t : Option LinkTest) : (d.setTest t).dkc = d.dkc := rfl
@[simp] theorem Dev.setTest_stc (d : Dev) (t : Option LinkTest) : (d.setTest t).stc = d.stc := rfl
@[simp] theorem Dev.setTest_faults (d : Dev) (t : Option LinkTest) : (d.setTest t).faults = d.faults := rfl
@[simp] theorem Dev.setTest_btl (d : Dev) (t : Option LinkTest) : (d.setTest t).btl = d.btl := rfl
@[simp] theorem Dev.setTest_mnp (d : Dev) (t : Option LinkTest) : (d.setTest t).mnp = d.mnp := rfl
@[simp] theorem Dev.setTest_counters (d : Dev) (t : Option LinkTest) : (d.setTest t).counters = d.counters := rfl
@[simp] theorem Dev.setTest_now (d : Dev) (t : Option LinkTest) : (d.setTest t).now = d.now := rfl
@[simp] theorem Dev.setTest_freeCount (d : Dev) (t : Option LinkTest) : (d.setTest t).freeCount = d.freeCount := rfl

/-! What the port shifts out (R189) changes the Maintenance Port alone. -/

@[simp] theorem Dev.respond_tmp (d : Dev) (r : PortResult) (b : List Byte) : (d.respond r b).tmp = d.tmp := rfl
@[simp] theorem Dev.respond_odo (d : Dev) (r : PortResult) (b : List Byte) : (d.respond r b).odo = d.odo := rfl
@[simp] theorem Dev.respond_peers (d : Dev) (r : PortResult) (b : List Byte) : (d.respond r b).peers = d.peers := rfl
@[simp] theorem Dev.respond_cle (d : Dev) (r : PortResult) (b : List Byte) : (d.respond r b).cle = d.cle := rfl
@[simp] theorem Dev.respond_sup (d : Dev) (r : PortResult) (b : List Byte) : (d.respond r b).sup = d.sup := rfl
@[simp] theorem Dev.respond_bdu (d : Dev) (r : PortResult) (b : List Byte) : (d.respond r b).bdu = d.bdu := rfl
@[simp] theorem Dev.respond_dkc (d : Dev) (r : PortResult) (b : List Byte) : (d.respond r b).dkc = d.dkc := rfl
@[simp] theorem Dev.respond_stc (d : Dev) (r : PortResult) (b : List Byte) : (d.respond r b).stc = d.stc := rfl
@[simp] theorem Dev.respond_lif (d : Dev) (r : PortResult) (b : List Byte) : (d.respond r b).lif = d.lif := rfl
@[simp] theorem Dev.respond_faults (d : Dev) (r : PortResult) (b : List Byte) : (d.respond r b).faults = d.faults := rfl
@[simp] theorem Dev.respond_btl (d : Dev) (r : PortResult) (b : List Byte) : (d.respond r b).btl = d.btl := rfl
@[simp] theorem Dev.respond_counters (d : Dev) (r : PortResult) (b : List Byte) : (d.respond r b).counters = d.counters := rfl
@[simp] theorem Dev.respond_now (d : Dev) (r : PortResult) (b : List Byte) : (d.respond r b).now = d.now := rfl
@[simp] theorem Dev.respond_freeCount (d : Dev) (r : PortResult) (b : List Byte) : (d.respond r b).freeCount = d.freeCount := rfl

/-! The direction line set (R112) changes the Brake and Drive Unit alone. -/

@[simp] theorem Dev.setLine_tmp (d : Dev) (dir : Direction) : (d.setLine dir).tmp = d.tmp := rfl
@[simp] theorem Dev.setLine_odo (d : Dev) (dir : Direction) : (d.setLine dir).odo = d.odo := rfl
@[simp] theorem Dev.setLine_peers (d : Dev) (dir : Direction) : (d.setLine dir).peers = d.peers := rfl
@[simp] theorem Dev.setLine_cle (d : Dev) (dir : Direction) : (d.setLine dir).cle = d.cle := rfl
@[simp] theorem Dev.setLine_sup (d : Dev) (dir : Direction) : (d.setLine dir).sup = d.sup := rfl
@[simp] theorem Dev.setLine_dkc (d : Dev) (dir : Direction) : (d.setLine dir).dkc = d.dkc := rfl
@[simp] theorem Dev.setLine_stc (d : Dev) (dir : Direction) : (d.setLine dir).stc = d.stc := rfl
@[simp] theorem Dev.setLine_lif (d : Dev) (dir : Direction) : (d.setLine dir).lif = d.lif := rfl
@[simp] theorem Dev.setLine_faults (d : Dev) (dir : Direction) : (d.setLine dir).faults = d.faults := rfl
@[simp] theorem Dev.setLine_btl (d : Dev) (dir : Direction) : (d.setLine dir).btl = d.btl := rfl
@[simp] theorem Dev.setLine_mnp (d : Dev) (dir : Direction) : (d.setLine dir).mnp = d.mnp := rfl
@[simp] theorem Dev.setLine_counters (d : Dev) (dir : Direction) : (d.setLine dir).counters = d.counters := rfl
@[simp] theorem Dev.setLine_now (d : Dev) (dir : Direction) : (d.setLine dir).now = d.now := rfl
@[simp] theorem Dev.setLine_freeCount (d : Dev) (dir : Direction) : (d.setLine dir).freeCount = d.freeCount := rfl

/-! The record changed with the direction line (R24, R112) changes the Odometer and the Brake and Drive Unit alone. -/

@[simp] theorem Dev.placeRecord_tmp (d : Dev) (p : PositionRec) : (d.placeRecord p).tmp = d.tmp := rfl
@[simp] theorem Dev.placeRecord_peers (d : Dev) (p : PositionRec) : (d.placeRecord p).peers = d.peers := rfl
@[simp] theorem Dev.placeRecord_cle (d : Dev) (p : PositionRec) : (d.placeRecord p).cle = d.cle := rfl
@[simp] theorem Dev.placeRecord_sup (d : Dev) (p : PositionRec) : (d.placeRecord p).sup = d.sup := rfl
@[simp] theorem Dev.placeRecord_dkc (d : Dev) (p : PositionRec) : (d.placeRecord p).dkc = d.dkc := rfl
@[simp] theorem Dev.placeRecord_stc (d : Dev) (p : PositionRec) : (d.placeRecord p).stc = d.stc := rfl
@[simp] theorem Dev.placeRecord_lif (d : Dev) (p : PositionRec) : (d.placeRecord p).lif = d.lif := rfl
@[simp] theorem Dev.placeRecord_faults (d : Dev) (p : PositionRec) : (d.placeRecord p).faults = d.faults := rfl
@[simp] theorem Dev.placeRecord_btl (d : Dev) (p : PositionRec) : (d.placeRecord p).btl = d.btl := rfl
@[simp] theorem Dev.placeRecord_mnp (d : Dev) (p : PositionRec) : (d.placeRecord p).mnp = d.mnp := rfl
@[simp] theorem Dev.placeRecord_counters (d : Dev) (p : PositionRec) : (d.placeRecord p).counters = d.counters := rfl
@[simp] theorem Dev.placeRecord_now (d : Dev) (p : PositionRec) : (d.placeRecord p).now = d.now := rfl
@[simp] theorem Dev.placeRecord_freeCount (d : Dev) (p : PositionRec) : (d.placeRecord p).freeCount = d.freeCount := rfl

/-! The half of a number drawn (log 9) changes the index of the next free value alone. -/

@[simp] theorem Dev.halved_tmp (d : Dev) (n : Nat) : ((d.halved n).1).tmp = d.tmp := by
  unfold Dev.halved; split <;> rfl
@[simp] theorem Dev.halved_odo (d : Dev) (n : Nat) : ((d.halved n).1).odo = d.odo := by
  unfold Dev.halved; split <;> rfl
@[simp] theorem Dev.halved_peers (d : Dev) (n : Nat) : ((d.halved n).1).peers = d.peers := by
  unfold Dev.halved; split <;> rfl
@[simp] theorem Dev.halved_cle (d : Dev) (n : Nat) : ((d.halved n).1).cle = d.cle := by
  unfold Dev.halved; split <;> rfl
@[simp] theorem Dev.halved_sup (d : Dev) (n : Nat) : ((d.halved n).1).sup = d.sup := by
  unfold Dev.halved; split <;> rfl
@[simp] theorem Dev.halved_bdu (d : Dev) (n : Nat) : ((d.halved n).1).bdu = d.bdu := by
  unfold Dev.halved; split <;> rfl
@[simp] theorem Dev.halved_dkc (d : Dev) (n : Nat) : ((d.halved n).1).dkc = d.dkc := by
  unfold Dev.halved; split <;> rfl
@[simp] theorem Dev.halved_stc (d : Dev) (n : Nat) : ((d.halved n).1).stc = d.stc := by
  unfold Dev.halved; split <;> rfl
@[simp] theorem Dev.halved_lif (d : Dev) (n : Nat) : ((d.halved n).1).lif = d.lif := by
  unfold Dev.halved; split <;> rfl
@[simp] theorem Dev.halved_faults (d : Dev) (n : Nat) : ((d.halved n).1).faults = d.faults := by
  unfold Dev.halved; split <;> rfl
@[simp] theorem Dev.halved_btl (d : Dev) (n : Nat) : ((d.halved n).1).btl = d.btl := by
  unfold Dev.halved; split <;> rfl
@[simp] theorem Dev.halved_mnp (d : Dev) (n : Nat) : ((d.halved n).1).mnp = d.mnp := by
  unfold Dev.halved; split <;> rfl
@[simp] theorem Dev.halved_counters (d : Dev) (n : Nat) : ((d.halved n).1).counters = d.counters := by
  unfold Dev.halved; split <;> rfl
@[simp] theorem Dev.halved_now (d : Dev) (n : Nat) : ((d.halved n).1).now = d.now := by
  unfold Dev.halved; split <;> rfl

/-! What the simple updates write. -/

@[simp] theorem Dev.setPeer_peers (d : Dev) (r : PeerRec) :
    (d.setPeer r).peers = d.peers.map (fun (x : PeerRec) => if x.station = r.station then r else x) := rfl
@[simp] theorem Dev.withPos_pos (d : Dev) (p : PositionRec) : (d.withPos p).odo.pos = p := rfl
@[simp] theorem Dev.setLine_dirLine (d : Dev) (dir : Direction) : (d.setLine dir).bdu.dirLine = dir := rfl
@[simp] theorem Dev.placeRecord_pos (d : Dev) (p : PositionRec) : (d.placeRecord p).odo.pos = p := rfl
@[simp] theorem Dev.placeRecord_dirLine (d : Dev) (p : PositionRec) : (d.placeRecord p).bdu.dirLine = p.dir := rfl
@[simp] theorem Dev.setDock_sub (d : Dev) (x : DockState) : (d.setDock x).dkc.sub = x := rfl
@[simp] theorem Dev.setLif_lif (d : Dev) (l : Lif) : (d.setLif l).lif = l := rfl
@[simp] theorem Dev.setTest_test (d : Dev) (t : Option LinkTest) : (d.setTest t).lif.test = t := rfl
@[simp] theorem Dev.zeroDemand_demand (d : Dev) : d.zeroDemand.sup.demand = 0 := rfl
@[simp] theorem Dev.zeroDemand_duty (d : Dev) : d.zeroDemand.bdu.duty = 0 := rfl
@[simp] theorem Dev.zeroDemand_handed (d : Dev) : d.zeroDemand.bdu.demandHanded = 0 := rfl
@[simp] theorem Dev.respond_output (d : Dev) (r : PortResult) (b : List Byte) :
    (d.respond r b).mnp.output = u8 r.ctorIdx ++ b := rfl

/-! An expiry acts exactly when its timer has run out (R1). -/

@[simp] theorem Dev.due_none (d : Dev) : d.due none = false := rfl
theorem Dev.due_some (d : Dev) (n : Nat) : d.due (some n) = decide (n ≤ d.now) := rfl
theorem Dev.whileDue_due (d : Dev) {t : Timer} (act : Dev → Dev) (h : d.due t = true) : d.whileDue t act = act d := by
  simp [Dev.whileDue, h]
theorem Dev.whileDue_early (d : Dev) {t : Timer} (act : Dev → Dev) (h : d.due t = false) : d.whileDue t act = d := by
  simp [Dev.whileDue, h]

/-! The outcome of every meaning. -/

@[simp] theorem State.becomes_eq (s : State) (d : Dev) : s.becomes d = .next { s with dev := d } := rfl

end Sys2Proof.Machine
end

