-- ==== Sys2Proof/Laws/Ops.lean ====
section
/-! SUPPORT. The shared operations of Machine/Ops.lean: what each can answer, said once. -/

namespace Sys2Proof.Machine

/-! ### Numbers -/

/-- A rounded-up quotient is the least number whose product reaches the dividend. -/
theorem ceilDiv_le_iff {a b n : Nat} (hb : 0 < b) : ceilDiv a b ≤ n ↔ a ≤ b * n := by
  unfold ceilDiv
  rw [Nat.div_le_iff_le_mul_add_pred hb]
  omega

/-- The root's square does not exceed the argument. -/
theorem isqrt_mul_self_le (n : Nat) : isqrt n * isqrt n ≤ n :=
  Nat.sqrt_le n

/-- The next integer's square exceeds the argument. -/
theorem lt_succ_isqrt_mul_self (n : Nat) : n < (isqrt n + 1) * (isqrt n + 1) :=
  Nat.lt_succ_sqrt n

/-- A saturating counter's next value as a number. -/
theorem satInc_toNat {w : Nat} (x : BitVec w) : (satInc x).toNat = min (2 ^ w - 1) (x.toNat + 1) := by
  unfold satInc
  have hx := x.isLt
  split
  · next h => subst h; simp
  · next h =>
    have hne : x.toNat ≠ 2 ^ w - 1 := fun e => h (BitVec.eq_of_toNat_eq (by simp [e]))
    rw [BitVec.toNat_add]
    by_cases hw : w = 0
    · subst hw; exact absurd (by omega) hne
    · have h1 : (1 : BitVec w).toNat = 1 := by
        show (BitVec.ofNat w 1).toNat = 1
        rw [BitVec.toNat_ofNat]
        exact Nat.mod_eq_of_lt (Nat.one_lt_two_pow hw)
      rw [h1, Nat.mod_eq_of_lt (by omega)]
      omega

/-! ### Sorted lists -/

/-- Insertion adds the element and reorders nothing else. -/
theorem insertSorted_perm {α : Type} (key : α → Nat) (x : α) (l : List α) : (insertSorted key x l).Perm (x :: l) := by
  induction l with
  | nil => exact List.Perm.refl _
  | cons y ys ih =>
    simp only [insertSorted]
    split
    · exact List.Perm.refl _
    · exact (List.Perm.cons y ih).trans (List.Perm.swap x y ys)

@[simp] theorem insertSorted_length {α : Type} (key : α → Nat) (x : α) (l : List α) :
    (insertSorted key x l).length = l.length + 1 := by
  simpa using (insertSorted_perm key x l).length_eq

@[simp] theorem mem_insertSorted {α : Type} (key : α → Nat) (x y : α) (l : List α) :
    y ∈ insertSorted key x l ↔ y = x ∨ y ∈ l := by
  simpa using (insertSorted_perm key x l).mem_iff (a := y)

/-- Insertion of a new key keeps a list strictly ascending in the key. -/
theorem insertSorted_ascends {α : Type} (key : α → Nat) (x : α) (l : List α)
    (h : (l.map key).Pairwise (· < ·)) (hx : ∀ y ∈ l, key y ≠ key x) :
    ((insertSorted key x l).map key).Pairwise (· < ·) := by
  induction l with
  | nil => simp [insertSorted]
  | cons y ys ih =>
    simp only [List.map_cons, List.pairwise_cons] at h
    have hy := hx y (by simp)
    simp only [insertSorted]
    split
    · next hlt =>
      simp only [List.map_cons, List.pairwise_cons, List.mem_cons, List.mem_map]
      refine ⟨?_, ?_, h.2⟩
      · rintro a (rfl | ⟨z, hz, rfl⟩)
        · exact hlt
        · exact hlt.trans (h.1 _ (List.mem_map.2 ⟨z, hz, rfl⟩))
      · intro a ha
        exact h.1 a (List.mem_map.2 ha)
    · next hlt =>
      simp only [List.map_cons, List.pairwise_cons]
      refine ⟨?_, ih h.2 (fun z hz => hx z (by simp [hz]))⟩
      intro a ha
      obtain ⟨z, hz, rfl⟩ := List.mem_map.1 ha
      rcases (mem_insertSorted key x z ys).1 hz with rfl | hz'
      · omega
      · exact h.1 _ (List.mem_map.2 ⟨z, hz', rfl⟩)

theorem foldl_insertSorted_perm {α : Type} (key : α → Nat) (l acc : List α) :
    (l.foldl (fun acc x => insertSorted key x acc) acc).Perm (l ++ acc) := by
  induction l generalizing acc with
  | nil => exact List.Perm.refl _
  | cons x xs ih =>
    refine (ih (insertSorted key x acc)).trans ?_
    refine (List.Perm.append_left xs (insertSorted_perm key x acc)).trans ?_
    exact List.perm_middle

/-- Sorting reorders and changes nothing else. -/
theorem sortBy_perm {α : Type} (key : α → Nat) (l : List α) : (sortBy key l).Perm l := by
  have := foldl_insertSorted_perm key l []
  simpa [sortBy] using this

/-! ### Lists of distances -/

theorem leastOf_cons (x : Nat) (l : List Nat) : leastOf (x :: l) = some (l.foldl min x) := by
  have : ∀ (l : List Nat) (m : Nat),
      l.foldl (fun acc n => match acc with | none => some n | some m => some (min m n)) (some m) = some (l.foldl min m) := by
    intro l
    induction l with
    | nil => intro m; rfl
    | cons y ys ih => intro m; exact ih (min m y)
  exact this l x

/-! ### Counters -/

@[simp] theorem Dev.bump_counters (d : Dev) (c : Counter) :
    (d.bump c).counters = d.counters.modify c.index satInc := rfl

/-- A counter other than the one bumped stands. -/
theorem Dev.counter_bump_ne (d : Dev) {c c' : Counter} (h : c.index ≠ c'.index) :
    (d.bump c).counter c' = d.counter c' := by
  simp [Dev.counter, List.getD_eq_getElem?_getD, h]

/-- The counter that is bumped rises by one, or stays at its highest value. -/
theorem Dev.counter_bump (d : Dev) (c : Counter) (h : c.index < d.counters.length) :
    (d.bump c).counter c = satInc (d.counter c) := by
  simp [Dev.counter, List.getD_eq_getElem?_getD, h]

end Sys2Proof.Machine
end

