-- ==== Sys2Proof/Laws/Claims.lean ====
section
/-! SUPPORT. The limits and the order of the claim table (R57, R58) over each elementary change of it. -/

namespace Sys2Proof.Machine

/-! ### Lists -/

/-- Insertion keeps a list ascending in the key. -/
theorem insertSorted_sorted {α : Type} (key : α → Nat) (x : α) (l : List α) (h : (l.map key).Pairwise (· ≤ ·)) :
    ((insertSorted key x l).map key).Pairwise (· ≤ ·) := by
  induction l with
  | nil => simp [insertSorted]
  | cons y ys ih =>
    simp only [List.map_cons, List.pairwise_cons] at h
    simp only [insertSorted]
    split
    · next hlt =>
      simp only [List.map_cons, List.pairwise_cons, List.mem_cons, List.mem_map]
      refine ⟨?_, fun a ha => h.1 a (List.mem_map.2 ha), h.2⟩
      rintro a (rfl | ⟨z, hz, rfl⟩)
      · exact hlt.le
      · exact hlt.le.trans (h.1 _ (List.mem_map.2 ⟨z, hz, rfl⟩))
    · next hlt =>
      simp only [List.map_cons, List.pairwise_cons]
      refine ⟨fun a ha => ?_, ih h.2⟩
      obtain ⟨z, hz, rfl⟩ := List.mem_map.1 ha
      rcases (mem_insertSorted key x z ys).1 hz with rfl | hz'
      · omega
      · exact h.1 _ (List.mem_map.2 ⟨z, hz', rfl⟩)

theorem sortBy_sorted {α : Type} (key : α → Nat) (l : List α) : ((sortBy key l).map key).Pairwise (· ≤ ·) := by
  have : ∀ (l acc : List α), (acc.map key).Pairwise (· ≤ ·) →
      ((l.foldl (fun acc x => insertSorted key x acc) acc).map key).Pairwise (· ≤ ·) := by
    intro l
    induction l with
    | nil => exact fun acc h => h
    | cons x xs ih => exact fun acc h => ih _ (insertSorted_sorted key x acc h)
  exact this l [] List.Pairwise.nil

/-- A key no smaller than any goes to the end. -/
theorem insertSorted_last {α : Type} (key : α → Nat) (x : α) (l : List α) (h : ∀ y ∈ l, key y ≤ key x) :
    insertSorted key x l = l ++ [x] := by
  induction l with
  | nil => rfl
  | cons y ys ih =>
    have := h y (by simp)
    rw [insertSorted, if_neg (by omega), ih (fun z hz => h z (by simp [hz]))]
    rfl

/-- Insertion splits the list where it goes in. -/
theorem insertSorted_split {α : Type} (key : α → Nat) (x : α) (l : List α) :
    ∃ a b, l = a ++ b ∧ insertSorted key x l = a ++ x :: b := by
  induction l with
  | nil => exact ⟨[], [], rfl, rfl⟩
  | cons y ys ih =>
    simp only [insertSorted]
    split
    · exact ⟨[], y :: ys, rfl, rfl⟩
    · obtain ⟨a, b, h1, h2⟩ := ih
      exact ⟨y :: a, b, by rw [h1]; rfl, by rw [h2]; rfl⟩

/-- A field that a change keeps. -/
theorem map_keep {α β : Type} {f : α → α} {g : α → β} {l : List α} (h : ∀ e ∈ l, g (f e) = g e) : (l.map f).map g = l.map g := by
  rw [List.map_map]
  exact List.map_congr_left h

/-! ### The front entry -/

/-- The test of the front entry (R58). -/
abbrev Claim.isOpen (e : Claim) : Bool := e.idx.isSome && !e.isHeld

/-- The front entry stands after entries that are HELD or have no route index. -/
theorem Cle.front_eq_some {c : Cle} {e : Claim} :
    c.front = some e ↔ e.isOpen = true ∧ ∃ a b, c.table = a ++ e :: b ∧ ∀ x ∈ a, x.isOpen = false := by
  unfold Cle.front
  rw [List.find?_eq_some_iff_append]
  simp only [Bool.not_eq_true', Claim.isOpen]

theorem Cle.front_mem {c : Cle} {e : Claim} (h : c.front = some e) : e ∈ c.table := List.mem_of_find?_eq_some h

/-- Two entries of one section are one entry. -/
theorem Cle.sec_inj {c : Cle} (h : c.ok) {a b : Claim} (ha : a ∈ c.table) (hb : b ∈ c.table) (hs : a.sec = b.sec) : a = b :=
  List.inj_on_of_nodup_map h.2.1 ha hb hs

theorem Cle.entry_mem {c : Cle} {sec : Nat} {e : Claim} (h : c.entry sec = some e) : e ∈ c.table ∧ e.sec = sec :=
  ⟨List.mem_of_find?_eq_some h, by simpa using List.find?_some h⟩

theorem Claim.not_tried_of_held {e : Claim} (h : e.isHeld = true) : e.tried = false := by
  unfold Claim.isHeld at h
  unfold Claim.tried Claim.isContending Claim.isBlocked
  split at h <;> simp_all

/-! ### The elementary changes -/

/-- A claim table that stays as it is keeps its limits. -/
theorem Cle.ok_same {c c' : Cle} (ht : c'.table = c.table) (hl : c'.lossCount ≤ c.lossCount ∨ c'.lossCount ≤ 15) (h : c.ok) : c'.ok := by
  have hf : c'.front = c.front := by unfold Cle.front; rw [ht]
  refine ⟨by rw [ht]; exact h.1, by rw [ht]; exact h.2.1, by rcases hl with hl | hl; exact hl.trans h.2.2.1; exact hl, ?_⟩
  rw [ht, hf]
  exact h.2.2.2

/-- Entries changed in place, none of them HELD or let go, and none CONTENDING or BLOCKED that was not. -/
theorem Cle.ok_map {c c' : Cle} {f : Claim → Claim} (ht : c'.table = c.table.map f)
    (hl : c'.lossCount ≤ c.lossCount ∨ c'.lossCount ≤ 15) (h : c.ok)
    (hs : ∀ e ∈ c.table, (f e).sec = e.sec) (hi : ∀ e ∈ c.table, (f e).idx = e.idx)
    (hh : ∀ e ∈ c.table, (f e).isHeld = e.isHeld) (hr : ∀ e ∈ c.table, (f e).tried = true → e.tried = true) : c'.ok := by
  refine ⟨by rw [ht, List.length_map]; exact h.1, ?_, by rcases hl with hl | hl; exact hl.trans h.2.2.1; exact hl, ?_, ?_, ?_⟩
  · rw [ht, map_keep hs]
    exact h.2.1
  · rw [ht, map_keep (g := Claim.orderKey) (fun e he => by simp [Claim.orderKey, hi e he])]
    exact h.2.2.2.1
  · intro e' he'
    rw [ht] at he'
    obtain ⟨e, he, rfl⟩ := List.mem_map.1 he'
    rw [hh e he, hi e he]
    exact h.2.2.2.2.1 e he
  · intro e' he' hr'
    rw [ht] at he'
    obtain ⟨e, he, rfl⟩ := List.mem_map.1 he'
    obtain ⟨ho, a, b, hab, ha⟩ := Cle.front_eq_some.1 (h.2.2.2.2.2 e he (hr e he hr'))
    have op : ∀ x ∈ c.table, (f x).isOpen = x.isOpen := fun x hx => by simp only [Claim.isOpen, hh x hx, hi x hx]
    refine Cle.front_eq_some.2 ⟨by rw [op e he]; exact ho, a.map f, b.map f, by rw [ht, hab]; simp, ?_⟩
    intro x hx
    obtain ⟨y, hy, rfl⟩ := List.mem_map.1 hx
    rw [op y (by rw [hab]; simp [hy])]
    exact ha y hy

/-- A claim table that loses entries. -/
theorem Cle.ok_filter {c : Cle} (p : Claim → Bool) (h : c.ok) : ({ c with table := c.table.filter p } : Cle).ok := by
  refine ⟨(List.length_filter_le _ _).trans h.1, h.2.1.sublist (List.filter_sublist.map _), h.2.2.1,
    h.2.2.2.1.sublist (List.filter_sublist.map _), fun e he => h.2.2.2.2.1 e (List.mem_of_mem_filter he), fun e he hr => ?_⟩
  obtain ⟨he1, he2⟩ := List.mem_filter.1 he
  obtain ⟨ho, a, b, hab, ha⟩ := Cle.front_eq_some.1 (h.2.2.2.2.2 e he1 hr)
  refine Cle.front_eq_some.2 ⟨ho, a.filter p, b.filter p, ?_, fun x hx => ha x (List.mem_of_mem_filter hx)⟩
  show c.table.filter p = _
  rw [hab, List.filter_append, List.filter_cons_of_pos he2]

/-- One section's entry changed, when it is the front entry and does not become HELD. -/
theorem Cle.ok_front {c : Cle} {x : Claim} (hf : c.front = some x) {f : Claim → Claim} (hs : ∀ e, (f e).sec = e.sec)
    (hi : ∀ e, (f e).idx = e.idx) (hn : (f x).isHeld = false) (h : c.ok) : (c.update x.sec f).ok := by
  obtain ⟨ho, a, b, hab, ha⟩ := Cle.front_eq_some.1 hf
  have hx := Cle.front_mem hf
  have hsec : ∀ e, (if e.sec = x.sec then f e else e).sec = e.sec := fun e => by split <;> simp [hs]
  have hidx : ∀ e, (if e.sec = x.sec then f e else e).idx = e.idx := fun e => by split <;> simp [hi]
  have hnd := h.2.1
  rw [hab] at hnd
  simp only [List.map_append, List.map_cons, List.nodup_append, List.nodup_cons, List.mem_map, List.mem_cons] at hnd
  have hna : ∀ y ∈ a, y.sec ≠ x.sec := fun y hy => hnd.2.2 _ ⟨y, hy, rfl⟩ _ (.inl rfl)
  have hfront : (c.update x.sec f).front = some (f x) := by
    refine Cle.front_eq_some.2 ⟨?_, a, b.map (fun e => if e.sec = x.sec then f e else e), ?_, ha⟩
    · simp only [Claim.isOpen, Bool.and_eq_true] at ho ⊢
      exact ⟨by rw [hi]; exact ho.1, by rw [hn]; rfl⟩
    · show c.table.map _ = _
      rw [hab, List.map_append, List.map_cons, if_pos rfl]
      congr 1
      exact (List.map_congr_left (g := id) (fun y hy => if_neg (hna y hy))).trans (List.map_id a)
  refine ⟨?_, ?_, h.2.2.1, ?_, ?_, ?_⟩
  · show (c.table.map _).length ≤ _
    rw [List.length_map]; exact h.1
  · show ((c.table.map _).map _).Nodup
    rw [map_keep (fun e _ => hsec e)]
    exact h.2.1
  · show ((c.table.map _).map _).Pairwise _
    rw [map_keep (fun e _ => by simp only [Claim.orderKey, hidx e])]
    exact h.2.2.2.1
  · intro e' he'
    obtain ⟨e, he, rfl⟩ := List.mem_map.1 (show e' ∈ c.table.map _ from he')
    rw [hidx]
    split
    · next hes =>
      have : e = x := Cle.sec_inj h he hx hes
      subst this
      simp only [Claim.isOpen, Bool.and_eq_true] at ho
      exact fun _ => ho.1
    · exact h.2.2.2.2.1 e he
  · intro e' he' hr
    obtain ⟨e, he, rfl⟩ := List.mem_map.1 (show e' ∈ c.table.map _ from he')
    split at hr
    · next hes =>
      have : e = x := Cle.sec_inj h he hx hes
      subst this
      rw [if_pos rfl]; exact hfront
    · next hes =>
      have := h.2.2.2.2.2 e he hr
      rw [hf] at this
      cases this
      exact absurd rfl hes

/-- One section's entry becomes HELD. -/
theorem Cle.ok_hold {c : Cle} (sec : Nat) {f : Claim → Claim} (hs : ∀ e, (f e).sec = e.sec) (hi : ∀ e, (f e).idx = e.idx)
    (hh : ∀ e, (f e).isHeld = true) (h : c.ok) : (c.update sec f).ok := by
  have hsec : ∀ e, (if e.sec = sec then f e else e).sec = e.sec := fun e => by split <;> simp [hs]
  have hidx : ∀ e, (if e.sec = sec then f e else e).idx = e.idx := fun e => by split <;> simp [hi]
  refine ⟨?_, ?_, h.2.2.1, ?_, ?_, ?_⟩
  · show (c.table.map _).length ≤ _
    rw [List.length_map]; exact h.1
  · show ((c.table.map _).map _).Nodup
    rw [map_keep (fun e _ => hsec e)]
    exact h.2.1
  · show ((c.table.map _).map _).Pairwise _
    rw [map_keep (fun e _ => by simp only [Claim.orderKey, hidx e])]
    exact h.2.2.2.1
  · intro e' he'
    obtain ⟨e, he, rfl⟩ := List.mem_map.1 (show e' ∈ c.table.map _ from he')
    rw [hidx]
    split
    · rw [hh]; exact fun hf => absurd hf (by simp)
    · exact h.2.2.2.2.1 e he
  · intro e' he' hr
    obtain ⟨e, he, rfl⟩ := List.mem_map.1 (show e' ∈ c.table.map _ from he')
    split at hr
    · rw [Claim.not_tried_of_held (hh e)] at hr; cases hr
    · next hes =>
      rw [if_neg hes]
      obtain ⟨ho, a, b, hab, ha⟩ := Cle.front_eq_some.1 (h.2.2.2.2.2 e he hr)
      refine Cle.front_eq_some.2 ⟨ho, a.map (fun e => if e.sec = sec then f e else e),
        b.map (fun e => if e.sec = sec then f e else e), ?_, ?_⟩
      · show c.table.map _ = _
        rw [hab, List.map_append, List.map_cons, if_neg hes]
      · intro y hy
        obtain ⟨z, hz, rfl⟩ := List.mem_map.1 hy
        split
        · simp [Claim.isOpen, hh]
        · exact ha z hz

/-- Every entry is HELD. -/
abbrev Cle.allHeld (c : Cle) : Prop := ∀ e ∈ c.table, e.isHeld = true

/-- A table of HELD entries alone keeps its limits in any ascending order. -/
theorem Cle.ok_held {c c' : Cle} (hs : (c'.table.map (·.sec)).Perm (c.table.map (·.sec)))
    (hl : c'.lossCount ≤ c.lossCount ∨ c'.lossCount ≤ 15) (hk : (c'.table.map Claim.orderKey).Pairwise (· ≤ ·))
    (hh : c'.allHeld) (h : c.ok) : c'.ok := by
  refine ⟨?_, hs.nodup_iff.2 h.2.1, by rcases hl with hl | hl; exact hl.trans h.2.2.1; exact hl, hk, fun e he hn => ?_, fun e he hr => ?_⟩
  · have := hs.length_eq
    simp only [List.length_map] at this
    rw [this]; exact h.1
  · rw [hh e he] at hn; cases hn
  · rw [Claim.not_tried_of_held (hh e he)] at hr; cases hr

/-- The route entry of an index from `k` on let go, unless it is HELD and `kept`, as a WANTED entry of its place. -/
theorem Cle.ok_surrender {c : Cle} (k : Nat) (y : Claim → Bool) (f : Claim → Claim) (hs : ∀ e, (f e).sec = e.sec)
    (hi : ∀ e, (f e).idx = e.idx) (hn : ∀ e, (f e).isHeld = false ∧ (f e).tried = false)
    (hy : ∀ e, y e = true → e.fromIdx k = true) (hy' : ∀ e, e.isHeld = false → e.fromIdx k = true → y e = true) (h : c.ok) :
    ({ c with table := c.table.map (fun e => if y e then f e else e) } : Cle).ok := by
  have hsec : ∀ e, (if y e then f e else e).sec = e.sec := fun e => by split <;> simp [hs]
  have hidx : ∀ e, (if y e then f e else e).idx = e.idx := fun e => by split <;> simp [hi]
  refine ⟨?_, ?_, h.2.2.1, ?_, ?_, ?_⟩
  · show (c.table.map _).length ≤ _
    rw [List.length_map]; exact h.1
  · show ((c.table.map _).map _).Nodup
    rw [map_keep (fun e _ => hsec e)]
    exact h.2.1
  · show ((c.table.map _).map _).Pairwise _
    rw [map_keep (fun e _ => by simp only [Claim.orderKey, hidx e])]
    exact h.2.2.2.1
  · intro e' he'
    obtain ⟨e, he, rfl⟩ := List.mem_map.1 (show e' ∈ c.table.map _ from he')
    rw [hidx]
    split
    · next hye =>
      intro _
      have := hy e hye
      unfold Claim.fromIdx at this
      cases hx : e.idx <;> simp_all
    · exact h.2.2.2.2.1 e he
  · intro e' he' hr
    obtain ⟨e, he, rfl⟩ := List.mem_map.1 (show e' ∈ c.table.map _ from he')
    split at hr
    · rw [(hn e).2] at hr; cases hr
    · next hye =>
      rw [if_neg hye]
      obtain ⟨ho, a, b, hab, ha⟩ := Cle.front_eq_some.1 (h.2.2.2.2.2 e he hr)
      refine Cle.front_eq_some.2 ⟨ho, a.map (fun e => if y e then f e else e), b.map (fun e => if y e then f e else e), ?_, ?_⟩
      · show c.table.map _ = _
        rw [hab, List.map_append, List.map_cons, if_neg hye]
      · intro x hx
        obtain ⟨z, hz, rfl⟩ := List.mem_map.1 hx
        split
        · next hyz =>
          exfalso
          have hk := h.2.2.2.1
          rw [hab] at hk
          simp only [List.map_append, List.map_cons, List.pairwise_append, List.mem_map, List.mem_cons] at hk
          have hle := hk.2.2 _ ⟨z, hz, rfl⟩ _ (.inl rfl)
          simp only [Claim.isOpen, Bool.and_eq_true, Bool.not_eq_true'] at ho
          have h1 := hy z hyz
          have h2 : e.fromIdx k = true := by
            unfold Claim.fromIdx at h1 ⊢
            unfold Claim.orderKey at hle
            cases hz' : z.idx <;> cases he' : e.idx <;> simp_all
            omega
          exact hye (hy' e ho.2 h2)
        · exact ha z hz

/-! ### Joining -/

/-- An entry put into the table where its order key goes, its section being new. -/
theorem Cle.ok_join {c : Cle} (x : Claim) (a b : List Claim) (hab : c.table = a ++ b) (hlen : c.table.length < Config.maxClaims)
    (hx : ∀ y ∈ c.table, y.sec ≠ x.sec) (hk : ((a ++ x :: b).map Claim.orderKey).Pairwise (· ≤ ·))
    (hx' : x.isHeld = true ∨ b = [] ∧ x.idx.isSome = true ∧ x.tried = false) (h : c.ok) :
    ({ c with table := a ++ x :: b } : Cle).ok := by
  have hp : (a ++ x :: b).Perm (x :: c.table) := by rw [hab]; exact List.perm_middle
  have hmem : ∀ e, e ∈ a ++ x :: b → e = x ∨ e ∈ c.table := fun e he => by simpa using hp.mem_iff.1 he
  refine ⟨?_, ?_, h.2.2.1, hk, ?_, ?_⟩
  · have := hp.length_eq
    simp only [List.length_cons] at this
    show (a ++ x :: b).length ≤ _
    omega
  · show ((a ++ x :: b).map _).Nodup
    rw [(hp.map (·.sec)).nodup_iff]
    simp only [List.map_cons, List.nodup_cons, List.mem_map, not_exists, not_and]
    exact ⟨fun y hy => hx y hy, h.2.1⟩
  · intro e he hn
    rcases hmem e he with rfl | he'
    · rcases hx' with hh | hh
      · rw [hh] at hn; cases hn
      · exact hh.2.1
    · exact h.2.2.2.2.1 e he' hn
  · intro e he hr
    rcases hmem e he with rfl | he'
    · rcases hx' with hh | hh
      · rw [Claim.not_tried_of_held hh] at hr; cases hr
      · rw [hh.2.2] at hr; cases hr
    · obtain ⟨ho, a', b', hab', ha'⟩ := Cle.front_eq_some.1 (h.2.2.2.2.2 e he' hr)
      rw [Cle.front_eq_some]
      refine ⟨ho, ?_⟩
      rcases hx' with hh | ⟨hb, _⟩
      · have hxo : x.isOpen = false := by simp [Claim.isOpen, hh]
        rw [hab, List.append_eq_append_iff] at hab'
        rcases hab' with ⟨m, h1, h2⟩ | ⟨m, h1, h2⟩
        · refine ⟨a ++ x :: m, b', by rw [h2]; simp, ?_⟩
          intro y hy
          rcases List.mem_append.1 hy with hy | hy
          · exact ha' y (by rw [h1]; simp [hy])
          · rcases List.mem_cons.1 hy with rfl | hy
            · exact hxo
            · exact ha' y (by rw [h1]; simp [hy])
        · cases m with
          | nil =>
            simp only [List.append_nil, List.nil_append] at h1 h2
            refine ⟨a ++ [x], b', by rw [← h2]; simp, ?_⟩
            intro y hy
            rcases List.mem_append.1 hy with hy | hy
            · exact ha' y (by rw [← h1]; exact hy)
            · simp only [List.mem_singleton] at hy
              rw [hy]; exact hxo
          | cons z m =>
            simp only [List.cons_append, List.cons.injEq] at h2
            obtain ⟨rfl, h2⟩ := h2
            exact ⟨a', m ++ x :: b, by rw [h1]; simp, ha'⟩
      · subst hb
        rw [List.append_nil] at hab
        refine ⟨a', b' ++ [x], ?_, ha'⟩
        show a ++ [x] = _
        rw [← hab, hab']; simp

/-- An entry whose order key is 0 may stand anywhere among such entries. -/
theorem pairwise_join_zero {x : Claim} {a b : List Claim} (hx : x.orderKey = 0) (ha : ∀ y ∈ a, y.orderKey = 0)
    (h : ((a ++ b).map Claim.orderKey).Pairwise (· ≤ ·)) : ((a ++ x :: b).map Claim.orderKey).Pairwise (· ≤ ·) := by
  simp only [List.map_append, List.map_cons, List.pairwise_append, List.pairwise_cons, List.mem_map, List.mem_cons] at h ⊢
  refine ⟨h.1, ⟨fun y _ => by omega, h.2.1⟩, ?_⟩
  rintro y ⟨z, hz, rfl⟩ w hw
  rw [ha z hz]; exact Nat.zero_le _

/-- Before an entry with no route index every entry of a table in order has the order key 0. -/
theorem keys_zero_before {a b : List Claim} {y : Claim} (h : ((a ++ y :: b).map Claim.orderKey).Pairwise (· ≤ ·)) (hy : y.idx = none) :
    ∀ z ∈ a, z.orderKey = 0 := by
  intro z hz
  simp only [List.map_append, List.map_cons, List.pairwise_append, List.mem_map, List.mem_cons] at h
  have := h.2.2 _ ⟨z, hz, rfl⟩ _ (.inl rfl)
  simp only [Claim.orderKey, hy, Option.getD_none, Nat.le_zero_eq] at this ⊢
  exact this

/-- Up to the last entry of a test that takes entries with no route index alone, every order key is 0. -/
theorem keys_zero_last {q : Claim → Bool} (hq : ∀ e, q e = true → e.idx = none) {l : List Claim}
    (h : (l.map Claim.orderKey).Pairwise (· ≤ ·)) :
    ∀ z ∈ l.take (l.length - (l.reverse.takeWhile (fun e => !q e)).length), z.orderKey = 0 := by
  obtain ⟨rest, hrest⟩ : ∃ rest, rest = l.reverse.dropWhile (fun e => !q e) := ⟨_, rfl⟩
  have hsplit : l.reverse.takeWhile (fun e => !q e) ++ rest = l.reverse := by rw [hrest, List.takeWhile_append_dropWhile]
  generalize l.reverse.takeWhile (fun e => !q e) = w at hsplit ⊢
  have hl : l = rest.reverse ++ w.reverse := by
    have := congrArg List.reverse hsplit
    simpa using this.symm
  have htake : l.take (l.length - w.length) = rest.reverse := by
    rw [hl]
    simp
  rw [htake]
  cases hr : rest with
  | nil => intro z hz; simp at hz
  | cons z rest' =>
    have hz : q z = true := by
      have hne : l.reverse.dropWhile (fun e => !q e) ≠ [] := by rw [← hrest, hr]; simp
      have := List.head_dropWhile_not (p := fun e => !q e) (l := l.reverse) hne
      simp only [← hrest, hr, List.head_cons] at this
      simpa using this
    have hl' : l = rest'.reverse ++ z :: w.reverse := by rw [hl, hr]; simp
    rw [hl'] at h
    intro u hu
    simp only [List.reverse_cons, List.mem_append, List.mem_singleton] at hu
    rcases hu with hu | rfl
    · exact keys_zero_before h (hq z hz) u hu
    · simp [Claim.orderKey, hq u hz]

/-- Up to the first entry of such a test too, where there is one. -/
theorem keys_zero_first {q : Claim → Bool} (hq : ∀ e, q e = true → e.idx = none) {l : List Claim} (hany : l.any q = true)
    (h : (l.map Claim.orderKey).Pairwise (· ≤ ·)) :
    ∀ z ∈ l.take (l.takeWhile (fun e => !q e)).length, z.orderKey = 0 := by
  have hne : l.dropWhile (fun e => !q e) ≠ [] := by
    intro hnil
    obtain ⟨y, hy, hya⟩ := List.any_eq_true.1 hany
    have := List.dropWhile_eq_nil_iff.1 hnil y hy
    simp [hya] at this
  have hz := List.head_dropWhile_not (p := fun e => !q e) (l := l) hne
  have hsplit := List.takeWhile_append_dropWhile (p := fun e => !q e) (l := l)
  obtain ⟨z, r, hzr⟩ := List.exists_cons_of_ne_nil hne
  simp only [hzr, List.head_cons, Bool.not_eq_false'] at hz
  rw [hzr] at hsplit
  generalize l.takeWhile (fun e => !q e) = w at hsplit ⊢
  subst hsplit
  rw [List.take_left]
  exact keys_zero_before h (hq z hz)

/-- The place along the footprint lies among the entries with the order key 0. -/
theorem placeFootprint_split (pos : Nat → Option Nat) (x : Claim) (l : List Claim) (h : (l.map Claim.orderKey).Pairwise (· ≤ ·)) :
    ∃ a b, l = a ++ b ∧ placeFootprint pos x l = a ++ x :: b ∧ ∀ y ∈ a, y.orderKey = 0 := by
  unfold placeFootprint
  simp only
  refine ⟨_, _, (List.take_append_drop _ l).symm, rfl, ?_⟩
  split
  · exact keys_zero_last (fun e he => by simp only [Bool.and_eq_true, Option.isNone_iff_eq_none] at he; exact he.1) h
  · split
    · next hany =>
      exact keys_zero_first (fun e he => by simp only [Bool.and_eq_true, Option.isNone_iff_eq_none] at he; exact he.1) hany h
    · intro z hz
      have hsplit := List.takeWhile_append_dropWhile (p := fun (e : Claim) => e.idx.isNone) (l := l)
      have hw : ∀ z ∈ l.takeWhile (fun (e : Claim) => e.idx.isNone), z.idx.isNone = true := fun z hz => List.mem_takeWhile_imp (p := fun (e : Claim) => e.idx.isNone) hz
      generalize l.takeWhile (fun (e : Claim) => e.idx.isNone) = w at hsplit hw hz
      rw [← hsplit, List.take_left] at hz
      have := hw z hz
      simp only [Option.isNone_iff_eq_none] at this
      simp [Claim.orderKey, this]

/-- A HELD entry joins. -/
theorem Cle.ok_insertHeld {c : Cle} (pos : Nat → Option Nat) (x : Claim) (hx : x.isHeld = true) (h : c.ok) : (c.insert pos x).ok := by
  unfold Cle.insert
  split
  · exact h
  · next hn =>
    simp only [Bool.or_eq_true, decide_eq_true_eq, not_or, Nat.not_le] at hn
    have hsec : ∀ y ∈ c.table, y.sec ≠ x.sec := fun y hy he => hn.2 (List.find?_isSome.2 ⟨y, hy, by simp [he]⟩)
    split
    · obtain ⟨a, b, hab, hi⟩ := insertSorted_split Claim.orderKey x c.table
      have hk := insertSorted_sorted Claim.orderKey x c.table h.2.2.2.1
      rw [hi] at hk ⊢
      exact Cle.ok_join x a b hab hn.1 hsec hk (.inl hx) h
    · next hidx =>
      obtain ⟨a, b, hab, hi, ha⟩ := placeFootprint_split pos x c.table h.2.2.2.1
      rw [hi]
      refine Cle.ok_join x a b hab hn.1 hsec (pairwise_join_zero (by simp [Claim.orderKey, hidx]) ha ?_) (.inl hx) h
      rw [← hab]; exact h.2.2.2.1

/-- A WANTED entry joins behind every other. -/
theorem Cle.ok_insertLast {c : Cle} (pos : Nat → Option Nat) (x : Claim) {k : Nat} (hi : x.idx = some k) (hr : x.tried = false)
    (hk : ∀ y ∈ c.table, y.orderKey ≤ k) (h : c.ok) : (c.insert pos x).ok := by
  unfold Cle.insert
  split
  · exact h
  · next hn =>
    simp only [Bool.or_eq_true, decide_eq_true_eq, not_or, Nat.not_le] at hn
    have hsec : ∀ y ∈ c.table, y.sec ≠ x.sec := fun y hy he => hn.2 (List.find?_isSome.2 ⟨y, hy, by simp [he]⟩)
    have hkey : ∀ y ∈ c.table, Claim.orderKey y ≤ Claim.orderKey x := fun y hy => by
      have := hk y hy
      simpa [Claim.orderKey, hi] using this
    rw [hi]
    have hs := insertSorted_sorted Claim.orderKey x c.table h.2.2.2.1
    simp only [insertSorted_last Claim.orderKey x c.table hkey] at hs ⊢
    exact Cle.ok_join x c.table [] (by simp) hn.1 hsec hs (.inr ⟨rfl, by simp [hi], hr⟩) h

@[simp] theorem Cle.insert_active (c : Cle) (pos : Nat → Option Nat) (x : Claim) : (c.insert pos x).active = c.active := by
  unfold Cle.insert; split; rfl; split <;> rfl

theorem Cle.mem_insert {c : Cle} {pos : Nat → Option Nat} {x y : Claim} (hy : y ∈ (c.insert pos x).table) : y = x ∨ y ∈ c.table := by
  unfold Cle.insert at hy
  split at hy
  · exact .inr hy
  · split at hy
    · exact (mem_insertSorted _ _ _ _).1 hy
    · have : y ∈ placeFootprint pos x c.table := hy
      unfold placeFootprint at this
      simp only [List.mem_append, List.mem_cons] at this
      rcases this with h | h | h
      · exact .inr (List.mem_of_mem_take h)
      · exact .inl h
      · exact .inr (List.mem_of_mem_drop h)

/-- No entry has a higher route index than the highest. -/
theorem Cle.orderKey_le_lastIdx {c : Cle} {k : Nat} (h : c.lastIdx = some k) : ∀ y ∈ c.table, y.orderKey ≤ k := by
  have key : ∀ (l : List Nat) (m : Option Nat) (k : Nat), l.foldl (fun m j => some (max j (m.getD 0))) m = some k →
      (∀ j ∈ l, j ≤ k) ∧ m.getD 0 ≤ k := by
    intro l
    induction l with
    | nil => intro m k hk; exact ⟨by simp, by simp only [List.foldl_nil] at hk; simp [hk]⟩
    | cons j l ih =>
      intro m k hk
      obtain ⟨h1, h2⟩ := ih _ k hk
      simp only [Option.getD_some] at h2
      exact ⟨fun i hi => (List.mem_cons.1 hi).elim (fun e => by omega) (h1 i), by omega⟩
  intro y hy
  unfold Claim.orderKey
  cases hi : y.idx with
  | none => exact Nat.zero_le _
  | some j => exact (key _ _ k h).1 j (List.mem_filterMap.2 ⟨y, hy, hi⟩)

/-! ### The order along the footprint -/

/-- Filling the places of a test with as many other entries keeps the rest. -/
theorem refill_perm (p : Claim → Bool) : ∀ (l ys : List Claim), ys.length = (l.filter p).length →
    (refill p l ys).Perm (ys ++ l.filter (fun e => !p e))
  | [], ys, h => by
    have : ys = [] := by simpa using h
    subst this; exact List.Perm.refl _
  | x :: xs, [], h => by
    have hn : (x :: xs).filter p = [] := List.length_eq_zero_iff.1 h.symm
    have : (x :: xs).filter (fun e => !p e) = x :: xs := by
      rw [List.filter_eq_self]
      intro e he
      simpa using List.filter_eq_nil_iff.1 hn e he
    rw [this]; exact List.Perm.refl _
  | x :: xs, y :: ys, h => by
    unfold refill
    by_cases hp : p x
    · rw [if_pos hp, List.filter_cons_of_neg (by simp [hp])]
      rw [List.filter_cons_of_pos hp] at h
      exact (refill_perm p xs ys (by simpa using h)).cons y
    · rw [if_neg hp, List.filter_cons_of_pos (by simp [hp])]
      rw [List.filter_cons_of_neg hp] at h
      exact ((refill_perm p xs (y :: ys) h).cons x).trans List.perm_middle.symm

/-- A key that the places and the entries that fill them share stays as it is. -/
theorem refill_map {α : Type} (p : Claim → Bool) (key : Claim → α) (v : α) : ∀ (l ys : List Claim),
    (∀ x ∈ l, p x = true → key x = v) → (∀ y ∈ ys, key y = v) → (refill p l ys).map key = l.map key
  | [], _, _, _ => by simp [refill]
  | _ :: _, [], _, _ => by simp [refill]
  | x :: xs, y :: ys, hx, hy => by
    unfold refill
    split
    · next hp =>
      simp only [List.map_cons]
      rw [refill_map p key v xs ys (fun z hz => hx z (by simp [hz])) (fun z hz => hy z (by simp [hz])),
        hy y (by simp), hx x (by simp) hp]
    · simp only [List.map_cons]
      rw [refill_map p key v xs (y :: ys) (fun z hz => hx z (by simp [hz])) hy]

/-- The first entry of another kind than the places filled stays the first. -/
theorem refill_find (p q : Claim → Bool) (hpq : ∀ e, p e = true → q e = false) : ∀ (l ys : List Claim), (∀ y ∈ ys, q y = false) →
    (refill p l ys).find? q = l.find? q
  | [], _, _ => by simp [refill]
  | _ :: _, [], _ => by simp [refill]
  | x :: xs, y :: ys, hy => by
    unfold refill
    split
    · next hp =>
      simp only [List.find?_cons, hy y (by simp), hpq x hp]
      exact refill_find p q hpq xs ys (fun z hz => hy z (by simp [hz]))
    · simp only [List.find?_cons]
      rw [refill_find p q hpq xs (y :: ys) hy]

theorem Cle.ok_realign {c : Cle} (order : List Nat) (h : c.ok) : (c.realign order).ok := by
  have hperm : (c.realign order).table.Perm c.table := by
    refine (refill_perm _ _ _ (sortBy_perm _ _).length_eq).trans ?_
    exact ((sortBy_perm _ _).append_right _).trans (List.filter_append_perm _ _)
  have hidx : ∀ y ∈ sortBy (fun (e : Claim) => (placeIn order e.sec).getD 0)
      (c.table.filter (fun e => e.idx.isNone && (placeIn order e.sec).isSome)), y.idx = none := by
    intro y hy
    have := (List.mem_filter.1 ((sortBy_perm _ _).mem_iff.1 hy)).2
    simp only [Bool.and_eq_true, Option.isNone_iff_eq_none] at this
    exact this.1
  have hkeys : (c.realign order).table.map Claim.orderKey = c.table.map Claim.orderKey := by
    refine refill_map _ _ 0 _ _ (fun x _ hp => ?_) (fun y hy => by simp [Claim.orderKey, hidx y hy])
    simp only [Bool.and_eq_true, Option.isNone_iff_eq_none] at hp
    simp [Claim.orderKey, hp.1]
  have hfront : (c.realign order).front = c.front := by
    refine refill_find _ _ (fun e he => ?_) _ _ (fun y hy => by simp [hidx y hy])
    simp only [Bool.and_eq_true, Option.isNone_iff_eq_none] at he
    simp [he.1]
  refine ⟨by rw [hperm.length_eq]; exact h.1, (hperm.map _).nodup_iff.2 h.2.1, h.2.2.1, by rw [hkeys]; exact h.2.2.2.1,
    fun e he => h.2.2.2.2.1 e (hperm.mem_iff.1 he), fun e he hr => ?_⟩
  rw [hfront]
  exact h.2.2.2.2.2 e (hperm.mem_iff.1 he) hr

@[simp] theorem Cle.realign_active (c : Cle) (order : List Nat) : (c.realign order).active = c.active := rfl

/-- A table of HELD entries after the end of an order (R79). -/
theorem Cle.ok_afterOrder {c : Cle} (order : List Nat) (hh : c.allHeld) (h : c.ok) : (c.afterOrder order).ok := by
  refine Cle.ok_realign order (Cle.ok_held (c := c) ?_ (.inr (Nat.zero_le _)) ?_ ?_ h)
  · simp only [List.map_map]
    rw [List.map_congr_left (f := (·.sec) ∘ Claim.afterOrder) (g := (·.sec)) (fun e _ => rfl)]
  · simp only [List.map_map]
    rw [List.map_congr_left (f := Claim.orderKey ∘ Claim.afterOrder) (g := fun _ => 0) (fun e _ => rfl)]
    rw [List.map_const', List.pairwise_replicate]
    simp
  · intro e he
    obtain ⟨x, hx, rfl⟩ := List.mem_map.1 he
    exact hh x hx

end Sys2Proof.Machine
end

