-- ==== Sys2Proof/Laws/Inner.lean ====
section
/-! SUPPORT. What the blocks do to one another inside a step, said once. `Inner P` says that `P` outlives each elementary change
that the shared operations make; the lemmas then carry `P` through every operation of the blocks, so that an invariant or a frame
is proved by its elementary changes alone. -/

namespace Sys2Proof.Machine

/-- What of the Odometer only a tachometer edge, a sample or a pad edge changes. -/
def Odo.sensed (o : Odo) : Bool × TachChannel × TachChannel × Timer × List Nat × Nat × Bool × Bool × BitVec 7 :=
  (o.active, o.chA, o.chB, o.sampleTimer, o.history, o.zeroRun, o.standstill, o.padPresence, o.padLines)

/-- `P` outlives each elementary change of the shared operations. -/
structure Inner (P : Dev → Prop) : Prop where
  counters : ∀ {d : Dev} (cs : List (BitVec 16)), P d → P { d with counters := cs }
  freeCount : ∀ {d : Dev} (n : Nat), P d → P { d with freeCount := n }
  enqueue : ∀ {d : Dev} (k : FrameKind) (dst : Nat) (b : List Byte) (t : Option Nat), P d → P (d.enqueue k dst b t).1
  withdraw : ∀ {d : Dev} (t : Nat), P d → P (d.withdraw t)
  faults : ∀ {d : Dev} (l : List FaultEntry), (faultsAscend d.faults → faultsAscend l) → P d → P { d with faults := l }
  cle : ∀ {d : Dev} (c : Cle), c.active = d.cle.active → (d.cle.ok → c.ok) → P d → P { d with cle := c }
  odo : ∀ {d : Dev} (o : Odo), o.sensed = d.odo.sensed → o.pos.dir = d.odo.pos.dir → P d → P { d with odo := o }
  place : ∀ {d : Dev} (p : PositionRec), P d → P (d.placeRecord p)
  orderSpeed : ∀ {d : Dev}, P d → P { d with sup := { d.sup with vOrder := none } }
  dkc : ∀ {d : Dev} (k : Dkc), k.active = d.dkc.active → P d → P { d with dkc := k }
  stc : ∀ {d : Dev} (x : Stc), x.state = d.stc.state → P d → P { d with stc := x }
  settle : ∀ {d : Dev}, P d → P d.settle
  zeroDemand : ∀ {d : Dev}, P d → P d.zeroDemand
  stopTrain : ∀ {d : Dev}, P d → P d.stopTrain
  setLatch : ∀ {d : Dev} (l : Latch), P d → P (d.setLatch l)
  clamps : ∀ {d : Dev} (down up : Bool), (down && up) = false → P d →
    P ({ d with bdu := { d.bdu with clampDown := down, clampUp := up } } : Dev).settle
  turn : ∀ {d : Dev} (o : Odo), o.sensed = d.odo.sensed → P d →
    P { d with odo := o, bdu := { d.bdu with duty := 0, dirLine := o.pos.dir } }
  enterState : ∀ {d : Dev} (s : StationState), P d → P (d.enterState s)

/-- `P` outlives the loss of the position too: SUP's items at their values for an UNKNOWN record (R90). -/
structure InnerLoss (P : Dev → Prop) : Prop extends Inner P where
  superviseUnknown : ∀ {d : Dev}, P d → P d.superviseUnknown

variable {P : Dev → Prop}

/-- A fold of steps that each keep `P` keeps it. -/
theorem foldl_keeps {α : Type} {f : Dev → α → Dev} (hf : ∀ d x, P d → P (f d x)) :
    ∀ (l : List α) (d : Dev), P d → P (l.foldl f d)
  | [], _, hd => hd
  | x :: l, d, hd => foldl_keeps hf l (f d x) (hf d x hd)

/-- A choice of two parts that both keep `P`. -/
theorem ite_keeps {c : Prop} [Decidable c] {a b : Dev} (ha : c → P a) (hb : ¬c → P b) : P (if c then a else b) := by
  split
  · exact ha ‹_›
  · exact hb ‹_›

/-! ### The elementary changes of lists -/

theorem faultsAscend_map {l : List FaultEntry} {f : FaultEntry → FaultEntry} (hf : ∀ x, (f x).kind = x.kind)
    (h : faultsAscend l) : faultsAscend (l.map f) := by
  unfold faultsAscend at *
  rw [List.map_map]
  have : ((fun (x : FaultEntry) => x.kind.code) ∘ f) = (fun x => x.kind.code) := by funext x; simp [hf]
  rwa [this]

theorem faultsAscend_filter {l : List FaultEntry} (p : FaultEntry → Bool) (h : faultsAscend l) :
    faultsAscend (l.filter p) :=
  h.sublist (List.filter_sublist.map _)

theorem FaultKind.code_inj {k k' : FaultKind} (h : k.code = k'.code) : k = k' := by
  revert h; cases k <;> cases k' <;> decide

theorem faultsAscend_insert {l : List FaultEntry} {e : FaultEntry} (hn : l.any (fun x => x.kind == e.kind) = false)
    (h : faultsAscend l) : faultsAscend (faultInsert e l) := by
  refine insertSorted_ascends _ _ _ h (fun y hy he => ?_)
  have := List.any_eq_false.1 hn y hy
  simp [FaultKind.code_inj he] at this

/-! ### What leaves the claim table as it is -/

@[simp] theorem Dev.enqueue_cle (d : Dev) (k : FrameKind) (dst : Nat) (b : List Byte) (t : Option Nat) : (d.enqueue k dst b t).1.cle = d.cle := by
  unfold Dev.enqueue
  simp only
  split
  · rfl
  · split
    · rfl
    · split
      · rfl
      · split <;> rfl

@[simp] theorem Dev.send_cle (d : Dev) (k : FrameKind) (dst : Nat) (b : List Byte) : (d.send k dst b).cle = d.cle :=
  Dev.enqueue_cle ..

@[simp] theorem Dev.sendPointsRequest_cle (d : Dev) (c : Claim) : (d.sendPointsRequest c).cle = d.cle := by
  unfold Dev.sendPointsRequest
  split <;> simp

@[simp] theorem Dev.causeEnded_cle (d : Dev) (k : FaultKind) : (d.causeEnded k).cle = d.cle := by
  unfold Dev.causeEnded
  split <;> rfl

@[simp] theorem Dev.abandon_cle (d : Dev) (c : Claim) : (d.abandon c).cle = d.cle := by
  unfold Dev.abandon
  split <;> rfl

@[simp] theorem Dev.foldl_abandon_cle (l : List Claim) : ∀ d : Dev, (l.foldl Dev.abandon d).cle = d.cle := by
  induction l with
  | nil => exact fun _ => rfl
  | cons c l ih => exact fun d => (ih _).trans (Dev.abandon_cle d c)

@[simp] theorem Dev.tidyDeadlock_table (d : Dev) : d.tidyDeadlock.cle.table = d.cle.table := by
  unfold Dev.tidyDeadlock
  split <;> simp

@[simp] theorem Dev.endDeadlock_table (d : Dev) : d.endDeadlock.cle.table = d.cle.table := by
  unfold Dev.endDeadlock
  split <;> simp

@[simp] theorem Dev.raiseLoss_table (d : Dev) : d.raiseLoss.cle.table = d.cle.table := rfl

theorem Dev.dropUnheld_allHeld (d : Dev) : d.dropUnheld.cle.allHeld := by
  intro e he
  unfold Dev.dropUnheld Dev.dropClaims at he
  simp only [Dev.tidyDeadlock_table, Dev.foldl_abandon_cle] at he
  simpa using (List.mem_filter.1 he).2

/-! ### Counters, frames, outputs -/

namespace Inner

theorem bump (h : Inner P) {d : Dev} (c : Counter) (hd : P d) : P (d.bump c) := h.counters _ hd
theorem bumpBy (h : Inner P) {d : Dev} (c : Counter) (n : Nat) (hd : P d) : P (d.bumpBy c n) := h.counters _ hd
theorem drawn (h : Inner P) {d : Dev} (hd : P d) : P d.drawn := h.freeCount _ hd

theorem send (h : Inner P) {d : Dev} (k : FrameKind) (dst : Nat) (b : List Byte) (hd : P d) : P (d.send k dst b) :=
  h.enqueue _ _ _ _ hd

theorem orderReport (h : Inner P) {d : Dev} (c : Nat) (r : ReportRequest) (n : Nat) (o : ReportOutcome) (hd : P d) :
    P (d.orderReport c r n o) :=
  h.send _ _ _ hd

theorem watchClamps (h : Inner P) {d : Dev} (hd : P d) : P d.watchClamps := by
  unfold Dev.watchClamps
  split
  · split
    · exact hd
    · exact h.dkc _ rfl hd
  · exact h.dkc _ rfl hd

theorem requestClampDown (h : Inner P) {d : Dev} (hd : P d) : P d.requestClampDown :=
  h.watchClamps (h.clamps true false rfl hd)

theorem requestClampUp (h : Inner P) {d : Dev} (hd : P d) : P d.requestClampUp :=
  h.watchClamps (h.clamps false true rfl hd)

theorem dropClampCommands (h : Inner P) {d : Dev} (hd : P d) : P d.dropClampCommands :=
  h.watchClamps (h.clamps false false rfl hd)

theorem takeTurn (h : Inner P) {d : Dev} (dir : Direction) (hd : P d) : P (d.turn dir) := by
  unfold Dev.turn
  refine ite_keeps (fun _ => hd) (fun _ => ?_)
  have h1 := h.turn (d := d) { d.odo with
    pos := { d.odo.pos with dir := dir }
    pUp := !d.odo.pUp
    window := d.odo.window.map (fun (w : PairWindow) => w.turned ((d.advance).getD (0, 0)).1) } rfl hd
  exact ite_keeps (fun _ => h1) (fun _ => h.bump _ h1)

/-! ### Faults -/

theorem reportFault (h : Inner P) {d : Dev} (e : FaultEntry) (hd : P d) : P (d.reportFault e) :=
  h.bump _ (h.send _ _ _ (h.faults _ (faultsAscend_map (fun x => by split <;> rfl)) hd))

theorem enterFault (h : Inner P) {d : Dev} (k : FaultKind) (hd : P d) : P (d.enterFault k) := by
  have hd := h.bump k.cls.total hd
  unfold Dev.enterFault
  generalize d.bump k.cls.total = d at hd ⊢
  simp only
  split
  · exact h.faults _ (faultsAscend_map (fun x => by split <;> rfl)) hd
  · next hn =>
    have h2 := h.bump .kindsEntered (h.faults (faultInsert
      { kind := k, repeats := 0, sec := d.odo.beaconPlace.1, offset := d.odo.beaconPlace.2, clearBlocked := false
        reported := false } d.faults) (faultsAscend_insert (by simpa [Dev.faultActive] using hn)) hd)
    exact ite_keeps (fun _ => h.reportFault _ h2) (fun _ => h2)

theorem causeEnded (h : Inner P) {d : Dev} (k : FaultKind) (hd : P d) : P (d.causeEnded k) :=
  ite_keeps (fun _ => h.bump _ (h.faults _ (faultsAscend_filter _) hd)) (fun _ => hd)

theorem reportHeld (h : Inner P) {d : Dev} (hd : P d) : P d.reportHeld :=
  foldl_keeps (fun _ e hd => h.reportFault e hd) _ _ hd

theorem clearFaultSet (h : Inner P) {d : Dev} (x : Bool) (hd : P d) : P (d.clearFaultSet x) := by
  unfold Dev.clearFaultSet
  simp only
  refine h.faults _ (fun hf => faultsAscend_map (fun e => by split <;> rfl) (faultsAscend_filter _ ?_)) ?_
  · revert hf; repeat' split
    all_goals exact fun hf => hf
  · exact ite_keeps (fun _ => h.bump _ (h.bump _ hd)) (fun _ => h.bump _ hd)

theorem reportRefused (h : Inner P) {d : Dev} (hd : P d) : P d.reportRefused :=
  h.bump _ (h.send _ _ _ hd)

/-! ### The claim table without faults -/

/-- The Claim Engine's items beside the table change. -/
theorem beside (h : Inner P) {d : Dev} (c : Cle) (ha : c.active = d.cle.active) (ht : c.table = d.cle.table)
    (hl : c.lossCount ≤ d.cle.lossCount ∨ c.lossCount ≤ 15) (hd : P d) : P { d with cle := c } :=
  h.cle c ha (Cle.ok_same ht hl) hd

/-- The points of an entry change. -/
theorem updatePoints (h : Inner P) {d : Dev} (sec : Nat) {f : Claim → Claim} (hs : ∀ e, (f e).sec = e.sec)
    (hi : ∀ e, (f e).idx = e.idx) (hst : ∀ e, (f e).state = e.state) (hd : P d) : P (d.updateClaim sec f) := by
  have hh : ∀ e, (if e.sec = sec then f e else e).state = e.state := fun e => by split <;> simp [hst]
  refine h.cle _ rfl (fun hok => Cle.ok_map (f := fun e => if e.sec = sec then f e else e) rfl (.inl le_rfl) hok
    (fun e _ => by split <;> simp [hs]) (fun e _ => by split <;> simp [hi]) (fun e _ => ?_) (fun e _ => ?_)) hd
  · simp only [Claim.isHeld, hh e]
  · simp only [Claim.tried, Claim.isContending, Claim.isBlocked, hh e]; exact fun hx => hx

/-- The front entry changes without becoming HELD. -/
theorem updateFront (h : Inner P) {d : Dev} {x : Claim} {sec : Nat} (hf : d.cle.front = some x) (hx : x.sec = sec)
    {f : Claim → Claim} (hs : ∀ e, (f e).sec = e.sec) (hi : ∀ e, (f e).idx = e.idx) (hn : (f x).isHeld = false) (hd : P d) :
    P (d.updateClaim sec f) := by
  subst hx
  exact h.cle _ rfl (Cle.ok_front hf hs hi hn) hd

/-- An entry becomes HELD. -/
theorem updateHeld (h : Inner P) {d : Dev} (sec : Nat) {f : Claim → Claim} (hs : ∀ e, (f e).sec = e.sec)
    (hi : ∀ e, (f e).idx = e.idx) (hh : ∀ e, (f e).isHeld = true) (hd : P d) : P (d.updateClaim sec f) :=
  h.cle _ rfl (Cle.ok_hold sec hs hi hh) hd

theorem filterClaims (h : Inner P) {d : Dev} (p : Claim → Bool) (hd : P d) :
    P { d with cle := { d.cle with table := d.cle.table.filter p } } :=
  h.cle _ rfl (Cle.ok_filter p) hd

theorem abandon (h : Inner P) {d : Dev} (c : Claim) (hd : P d) : P (d.abandon c) := by
  unfold Dev.abandon
  split
  · exact h.withdraw _ hd
  · exact hd
  · exact hd
  · exact hd

theorem endDeadlock (h : Inner P) {d : Dev} (hd : P d) : P d.endDeadlock :=
  ite_keeps (fun _ => h.causeEnded _ (h.beside _ rfl rfl (.inl le_rfl) hd)) (fun _ => hd)

theorem tidyDeadlock (h : Inner P) {d : Dev} (hd : P d) : P d.tidyDeadlock :=
  ite_keeps (fun _ => h.causeEnded _ (h.beside _ rfl rfl (.inl le_rfl) hd)) (fun _ => hd)

theorem dropClaims (h : Inner P) {d : Dev} (p : Claim → Bool) (hd : P d) : P (d.dropClaims p) :=
  h.tidyDeadlock (h.filterClaims _ (foldl_keeps (fun _ c hd => h.abandon c hd) _ _ hd))

theorem dropUnheld (h : Inner P) {d : Dev} (hd : P d) : P d.dropUnheld :=
  h.dropClaims _ hd

theorem sendRelease (h : Inner P) {d : Dev} (secs : List Nat) (hd : P d) : P (d.sendRelease secs) :=
  ite_keeps (fun _ => hd)
    (fun _ => h.bumpBy _ _ (h.enqueue _ _ _ _ (h.beside _ rfl rfl (.inl le_rfl) hd)))

theorem announceRelease (h : Inner P) {d : Dev} (secs : List Nat) (hd : P d) : P (d.announceRelease secs) := by
  unfold Dev.announceRelease
  split
  · exact h.beside _ rfl rfl (.inl le_rfl) hd
  · exact h.sendRelease _ hd

theorem eventAt (h : Inner P) {d : Dev} {act : Dev → Dev}
    (ha : P { d with cle := { d.cle with gathering := some [] } } → P (act { d with cle := { d.cle with gathering := some [] } }))
    (hd : P d) : P (Dev.event act d) :=
  h.sendRelease _ (h.sendRelease _ (h.beside _ rfl rfl (.inl le_rfl) (ha (h.beside _ rfl rfl (.inl le_rfl) hd))))

theorem event (h : Inner P) {d : Dev} {act : Dev → Dev} (ha : ∀ d, P d → P (act d)) (hd : P d) : P (Dev.event act d) :=
  h.eventAt (ha _) hd

theorem realign (h : Inner P) {d : Dev} (order : List Nat) (hd : P d) : P { d with cle := d.cle.realign order } :=
  h.cle _ rfl (Cle.ok_realign order) hd

theorem releaseClaims (h : Inner P) {d : Dev} (p : Claim → Bool) (hd : P d) : P (d.releaseClaims p) :=
  h.tidyDeadlock (h.announceRelease _ (h.filterClaims _ hd))

theorem releaseOutside (h : Inner P) {d : Dev} (hd : P d) : P d.releaseOutside :=
  h.releaseClaims _ hd

theorem settleAbort (h : Inner P) {d : Dev} (hd : P d) : P d.settleAbort :=
  ite_keeps (fun _ => h.beside _ rfl rfl (.inl le_rfl) (h.releaseOutside hd)) (fun _ => hd)

theorem claimsAbort (h : Inner P) {d : Dev} (hd : P d) : P d.claimsAbort :=
  h.event (fun _ hd => h.settleAbort (h.beside _ rfl rfl (.inl le_rfl) (h.dropUnheld hd))) hd

theorem claimsUnknown (h : Inner P) {d : Dev} (hd : P d) : P d.claimsUnknown :=
  h.dropUnheld hd

theorem claimsAtStandstill (h : Inner P) {d : Dev} (hd : P d) : P d.claimsAtStandstill :=
  ite_keeps (fun _ => h.dropUnheld (h.releaseOutside hd)) (fun _ => hd)

theorem claimsOrderEnd (h : Inner P) {d : Dev} (hd : P d) : P d.claimsOrderEnd := by
  refine h.event (fun d hd => ?_) hd
  have h2 := h.cle (d.dropUnheld.endDeadlock.cle.afterOrder
      (if d.dropUnheld.endDeadlock.odo.known then d.dropUnheld.endDeadlock.footprint.sections else [])) rfl
    (Cle.ok_afterOrder _ (fun e he => d.dropUnheld_allHeld e (by rwa [Dev.endDeadlock_table] at he))) (h.endDeadlock (h.dropUnheld hd))
  exact ite_keeps (fun _ => h.claimsAtStandstill h2) (fun _ => h2)

theorem sendPointsRequest (h : Inner P) {d : Dev} (c : Claim) (hd : P d) : P (d.sendPointsRequest c) := by
  unfold Dev.sendPointsRequest
  split
  · exact h.send _ _ _ hd
  · exact hd

theorem requestPoints (h : Inner P) {d : Dev} (c : Claim) (k : Bool) (hd : P d) : P (d.requestPoints c k) :=
  h.updatePoints _ (fun _ => rfl) (fun _ => rfl) (fun _ => rfl) (h.sendPointsRequest c hd)

theorem surrenderFrom (h : Inner P) {d : Dev} (k : Nat) (hd : P d) : P (d.surrenderFrom k) := by
  unfold Dev.surrenderFrom
  simp only
  have h1 : P ((d.cle.table.filter (d.yields k)).foldl Dev.abandon d) := foldl_keeps (fun _ c hd => h.abandon c hd) _ _ hd
  generalize (d.cle.table.filter (d.yields k)).foldl Dev.abandon d = d' at h1 ⊢
  refine h.tidyDeadlock (h.announceRelease _ (h.cle _ rfl (fun hok => Cle.ok_surrender k (d.yields k)
    (fun e => { e with state := .wanted false, points := .unrequested, pointsTimer := none, rerequestTimer := none })
    (fun _ => rfl) (fun _ => rfl) (fun _ => ⟨rfl, rfl⟩) (fun e he => ?_) (fun e hn he => ?_) hok) h1))
  · unfold Dev.yields at he
    simp only [Bool.and_eq_true] at he
    exact he.1
  · unfold Dev.yields
    simp [hn, he]

/-! ### The station state, raising, losing the position -/

theorem dockOrderEnd (h : Inner P) {d : Dev} (hd : P d) : P d.dockOrderEnd := by
  unfold Dev.dockOrderEnd
  have h1 := h.dkc { d.dkc with clampTimer := none, corrTimer := none } rfl hd
  refine h.dkc _ ?_ (ite_keeps (fun _ => h.dropClampCommands h1) (fun _ => h1))
  rfl

theorem endOrder (h : Inner P) {d : Dev} (o : OrderOutcome) (k : Option FaultKind) (hd : P d) : P (d.endOrder o k) := by
  unfold Dev.endOrder
  split
  · exact hd
  · next ord _ =>
    simp only
    have h1 := h.bump o.counter (h.orderReport ord.console .moveOrder ord.id (o.report k) hd)
    generalize (d.orderReport ord.console .moveOrder ord.id (o.report k)).bump o.counter = d at h1 ⊢
    exact h.stc _ rfl (h.dockOrderEnd (h.claimsOrderEnd (h.orderSpeed (h.odo d.odo.offRoute rfl rfl h1))))

theorem leaveSafeStop (h : Inner P) {d : Dev} (hd : P d) : P d.leaveSafeStop :=
  ite_keeps (fun _ => h.enterState _ (h.stc _ rfl hd)) (fun _ => hd)

theorem enterHalted (h : Inner P) {d : Dev} (r : Remembered) (hd : P d) : P (d.enterHalted r) :=
  h.bump _ (h.enterState _ (h.stc _ rfl hd))

theorem enterSafeStop (h : Inner P) {d : Dev} (k : FaultKind) (hd : P d) : P (d.enterSafeStop k) := by
  unfold Dev.enterSafeStop
  simp only
  have h1 := h.claimsAbort (h.bump .entriesSafeStop (h.enterState .safeStop
    (h.stc { d.stc with listenTimer := none, remembered := none, stopKind := some k } rfl hd)))
  exact ite_keeps (fun _ => h1) (fun _ => ite_keeps (fun _ => h.endOrder _ _ h1) (fun _ => h.endOrder _ _ h1))

theorem takeHalt (h : Inner P) {d : Dev} (hd : P d) : P d.takeHalt := by
  unfold Dev.takeHalt
  split <;> first | exact hd | exact h.enterHalted _ hd | exact h.stc _ rfl hd

theorem takeRaise (h : Inner P) {d : Dev} (k : FaultKind) (hd : P d) : P (d.takeRaise k) := by
  unfold Dev.takeRaise
  split
  · exact hd
  · exact h.takeHalt hd
  · split <;> first | exact hd | exact h.enterSafeStop _ hd

theorem raise (h : Inner P) {d : Dev} (k : FaultKind) (hd : P d) : P (d.raise k) :=
  h.takeRaise _ (h.enterFault _ hd)

theorem raiseTimes (h : Inner P) (k : FaultKind) : ∀ (n : Nat) {d : Dev}, P d → P (d.raiseTimes k n)
  | 0, _, hd => hd
  | n + 1, _, hd => raiseTimes h k n (h.raise k hd)

theorem stateAfterFailure (h : Inner P) {d : Dev} (hd : P d) : P d.stateAfterFailure := by
  unfold Dev.stateAfterFailure
  split <;> first
    | exact hd | exact h.enterHalted _ hd | exact h.stc _ rfl hd | exact h.enterState _ hd | exact h.leaveSafeStop hd

theorem failOrder (h : Inner P) {d : Dev} (k : FaultKind) (hd : P d) : P (d.failOrder k) :=
  ite_keeps (fun _ => h.stateAfterFailure (h.endOrder _ _ hd)) (fun _ => hd)

theorem failDocking (h : Inner P) {d : Dev} (c : DockCause) (k : FaultKind) (hd : P d) : P (d.failDocking c k) := by
  unfold Dev.failDocking
  have h1 := h.dkc { d.dkc with clampTimer := none, corrTimer := none } rfl hd
  exact h.failOrder _ (h.bump _ (h.dkc _ rfl (ite_keeps (fun _ => h.dropClampCommands h1) (fun _ => h1))))

theorem completeAbort (h : Inner P) {d : Dev} (hd : P d) : P d.completeAbort := by
  unfold Dev.completeAbort
  refine ite_keeps (fun _ => ?_) (fun _ => hd)
  exact ite_keeps (fun _ => h.leaveSafeStop (h.endOrder _ _ hd)) (fun _ => h.enterState _ (h.endOrder _ _ hd))

theorem dockUnknown (h : Inner P) {d : Dev} (k : FaultKind) (hd : P d) : P (d.dockUnknown k) := by
  unfold Dev.dockUnknown
  split <;> first | exact hd | exact h.failDocking _ _ hd

theorem stationUnknown (h : Inner P) {d : Dev} (k : FaultKind) (hd : P d) : P (d.stationUnknown k) := by
  unfold Dev.stationUnknown
  have h1 := h.stc { d.stc with parkedPad := none } rfl hd
  generalize ({ d with stc := { d.stc with parkedPad := none } } : Dev) = d at h1 ⊢
  refine ite_keeps (fun _ => h.failOrder _ h1) (fun _ => ?_)
  split <;> first | exact h1 | exact h.enterState _ h1

theorem sendHeldReport (h : Inner P) {d : Dev} (o : Order) (hd : P d) : P (d.sendHeldReport o) :=
  h.orderReport _ _ _ _ (h.stc _ rfl hd)

theorem judgeHeldReport (h : Inner P) {d : Dev} (x : Bool) (hd : P d) : P (d.judgeHeldReport x) := by
  unfold Dev.judgeHeldReport
  split
  · refine ite_keeps (fun _ => ?_) (fun _ => hd)
    split
    · exact ite_keeps (fun _ => h.sendHeldReport _ hd) (fun _ => hd)
    · exact ite_keeps (fun _ => h.sendHeldReport _ hd) (fun _ => hd)
  · exact hd

end Inner

namespace InnerLoss

theorem losePosition (h : InnerLoss P) {d : Dev} (k : FaultKind) (hd : P d) : P (d.losePosition k) :=
  ite_keeps (fun _ => h.toInner.stationUnknown _ (h.toInner.dockUnknown _ (h.superviseUnknown (h.toInner.claimsUnknown (h.odo _ rfl rfl hd)))))
    (fun _ => hd)

theorem loseWith (h : InnerLoss P) {d : Dev} (k : FaultKind) (hd : P d) : P (d.loseWith k) :=
  h.losePosition _ (h.toInner.raise _ hd)

end InnerLoss

end Sys2Proof.Machine
end

