-- ==== Sys2Proof/Laws/Blocks.lean ====
section
/-! SUPPORT. A predicate carried through every operation of the blocks and every command, from its elementary changes alone. -/

namespace Sys2Proof.Machine

variable {P : Dev → Prop}

theorem whileDue {d : Dev} (t : Timer) {act : Dev → Dev} (ha : ∀ d, P d → P (act d)) (hd : P d) : P (d.whileDue t act) :=
  ite_keeps (fun _ => ha _ hd) (fun _ => hd)

theorem match_front_keeps {α : Type} {o : Option α} {f : α → Dev} {a : Dev} (hs : ∀ x, o = some x → P (f x)) (hn : P a) :
    P (match o with | some x => f x | none => a) := by
  cases o with
  | some x => exact hs x rfl
  | none => exact hn

/-! ### The Claim Engine -/

namespace Inner

theorem raiseLoss (h : Inner P) {d : Dev} (hd : P d) : P d.raiseLoss :=
  h.beside _ rfl rfl (.inr (Nat.min_le_left _ _)) hd

theorem mutualYield (h : Inner P) {d : Dev} (t : Claim) (p : Nat) (hd : P d) : P (d.mutualYield t p) := by
  unfold Dev.mutualYield
  split
  · exact h.bump _ (h.raiseLoss (h.releaseClaims _ hd))
  · have h1 := fun k => h.endDeadlock (h.bump .mutualYields (h.raiseLoss (h.surrenderFrom k hd)))
    refine ite_keeps (fun hc => ?_) (fun _ => h1 _)
    simp only [beq_iff_eq, Option.map_eq_some_iff] at hc
    obtain ⟨x, hx, hs⟩ := hc
    exact h.updateFront hx hs (fun _ => rfl) (fun _ => rfl) rfl (h1 _)

theorem examineMutual (h : Inner P) {d : Dev} (hd : P d) : P d.examineMutual := by
  unfold Dev.examineMutual
  split
  · next p b x _ =>
    simp only
    have h1 : P (if d.cle.deadlock.any (fun q => q != p) then d.endDeadlock else d) :=
      ite_keeps (fun _ => h.endDeadlock hd) (fun _ => hd)
    generalize (if d.cle.deadlock.any (fun q => q != p) then d.endDeadlock else d) = d at h1 ⊢
    split
    · exact ite_keeps (fun _ => h.endDeadlock h1) (fun _ => h1)
    · refine ite_keeps (fun _ => h1) (fun _ => ite_keeps (fun _ => ?_) (fun _ => ite_keeps (fun _ => h.mutualYield _ _ h1) (fun _ => h1)))
      exact h.raise _ (h.beside _ rfl rfl (.inl le_rfl) h1)
  · exact hd

theorem contend (h : Inner P) {d : Dev} {c : Claim} (hc : d.cle.front = some c) (hd : P d) : P (d.contend c) := by
  unfold Dev.contend
  simp only
  have h1 := h.bump .contentionsStarted (h.beside { d.cle with nextTag := d.cle.nextTag + 1 } rfl rfl (.inl le_rfl) hd)
  have h2 := h.enqueue .intent 0 (ticketPayload c.sec d.currentTicket) (some d.cle.nextTag) h1
  refine ite_keeps (fun _ => h.updateFront (x := c) ?_ rfl (fun _ => rfl) (fun _ => rfl) rfl h2)
    (fun _ => h.bump _ (h.updateFront (x := c) ?_ rfl (fun _ => rfl) (fun _ => rfl) rfl h2))
  all_goals
    rw [Dev.enqueue_cle]
    exact hc

theorem examineFront (h : Inner P) {d : Dev} (hd : P d) : P d.examineFront := by
  unfold Dev.examineFront
  split
  · exact h.tidyDeadlock hd
  · next c hc =>
    refine ite_keeps (fun _ => h.dropClaims _ hd) (fun _ => ite_keeps (fun _ => ?_) (fun _ => ?_))
    · exact h.tidyDeadlock (h.updateFront hc rfl (fun _ => rfl) (fun _ => rfl) rfl hd)
    · split
      · exact hd
      · exact hd
      · exact hd
      all_goals
        split
        · exact ite_keeps (fun _ => hd) (fun _ => h.examineMutual (h.updateFront hc rfl (fun _ => rfl) (fun _ => rfl) rfl hd))
        · exact h.tidyDeadlock (h.contend hc hd)

theorem examineBlocked (h : Inner P) {d : Dev} (hd : P d) : P d.examineBlocked := by
  unfold Dev.examineBlocked
  split
  · exact h.examineFront hd
  · exact hd

theorem onViewChanged (h : Inner P) {d : Dev} (hd : P d) : P d.onViewChanged :=
  h.event (fun _ hd => h.examineBlocked hd) hd

theorem refront (h : Inner P) {d : Dev} (old : Option (Option Nat)) (hd : P d) : P (d.refront old) :=
  ite_keeps (fun _ => h.examineFront hd) (fun _ => hd)

theorem loseContention (h : Inner P) {d : Dev} {c : Claim} (hc : c ∈ d.cle.table) (hr : c.isContending = true) (p : Nat)
    (b : BlockBasis) (hd : P d) : P (d.loseContention c p b) := by
  refine h.examineMutual (h.tidyDeadlock (h.cle _ rfl (fun hok => ?_) (h.bump .contentionsLost (h.raiseLoss (h.abandon c hd)))))
  have hm : c ∈ ((d.abandon c).raiseLoss.bump .contentionsLost).cle.table := by simpa using hc
  have one : ∀ e ∈ ((d.abandon c).raiseLoss.bump .contentionsLost).cle.table, e.sec = c.sec → e = c :=
    fun e he hs => Cle.sec_inj hok he hm hs
  have held : c.isHeld = false := by
    unfold Claim.isContending at hr
    unfold Claim.isHeld
    split at hr <;> simp_all
  refine Cle.ok_map rfl (.inl le_rfl) hok (fun e _ => by split <;> rfl) (fun e _ => by split <;> rfl) (fun e he => ?_) (fun e he => ?_)
  · split
    · next hs => rw [one e he hs, held]; rfl
    · rfl
  · split
    · next hs => rw [one e he hs]; simp [Claim.tried, hr]
    · exact fun hx => hx

theorem announceTaken (h : Inner P) {d : Dev} (sec : Nat) (t : Ticket) (hd : P d) : P (d.announceTaken sec t) :=
  h.send _ _ _ hd

theorem afterHeld (h : Inner P) {d : Dev} (sec : Nat) (hd : P d) : P (d.afterHeld sec) := by
  unfold Dev.afterHeld
  split
  · exact ite_keeps (fun _ => ite_keeps (fun _ => h.requestPoints _ _ hd) (fun _ => hd))
      (fun _ => ite_keeps (fun _ => h.judgeHeldReport _ hd) (fun _ => hd))
  · exact hd

theorem clashYield (h : Inner P) {d : Dev} (c : Claim) (hd : P d) : P (d.clashYield c) := by
  unfold Dev.clashYield
  have h0 := h.bump .clashYields hd
  have h1 : P (match c.idx with
      | none => (d.bump .clashYields).releaseClaims (fun e => e.sec == c.sec)
      | some k => ((d.bump .clashYields).surrenderFrom k).examineFront) := by
    split
    · exact h.releaseClaims _ h0
    · exact h.examineFront (h.surrenderFrom _ h0)
  exact ite_keeps (fun _ => h.raise _ h1) (fun _ => h1)

theorem clash (h : Inner P) {d : Dev} (c : Claim) (p : Nat) (hd : P d) : P (d.clash c p) := by
  unfold Dev.clash
  split
  · refine ite_keeps (fun _ => hd) (fun _ => ?_)
    have h0 := h.bump .clashesFound hd
    generalize d.bump .clashesFound = d at h0 ⊢
    exact ite_keeps (fun _ => h.announceTaken _ _ (h.raise _ h0)) (fun _ => ite_keeps (fun _ => h.announceTaken _ _ h0)
      (fun _ => ite_keeps (fun _ => h.clashYield _ h0) (fun _ => ite_keeps (fun _ => h.announceTaken _ _ h0)
        (fun _ => h.clashYield _ h0))))
  · exact hd

theorem onIntent (h : Inner P) {d : Dev} (p sec : Nat) (t : Ticket) (hd : P d) : P (d.onIntent p sec t) := by
  refine h.event (fun d hd => ?_) hd
  split
  · exact hd
  · next c hc =>
    have hm := (Cle.entry_mem hc).1
    split
    · exact h.bump _ (h.send _ _ _ hd)
    · next hs =>
      exact ite_keeps (fun _ => h.loseContention hm (by simp [Claim.isContending, hs]) _ _ hd) (fun _ => h.bump _ (h.send _ _ _ hd))
    · exact h.examineBlocked hd
    · exact hd

theorem onObjection (h : Inner P) {d : Dev} (p sec : Nat) (x : Bool) (hd : P d) : P (d.onObjection p sec x) := by
  refine h.event (fun d hd => ?_) hd
  split
  · exact h.bump _ hd
  · next c hc =>
    have hm := (Cle.entry_mem hc).1
    split
    · exact ite_keeps (fun _ => h.clash _ _ hd) (fun _ => h.bump _ hd)
    · next hs => exact h.loseContention hm (by simp [Claim.isContending, hs]) _ _ hd
    · exact h.bump _ hd
    · exact h.bump _ hd

theorem onTaking (h : Inner P) {d : Dev} (p sec : Nat) (hd : P d) : P (d.onTaking p sec) := by
  refine h.event (fun d hd => ?_) hd
  split
  · exact h.examineBlocked hd
  · next c hc =>
    have hm := (Cle.entry_mem hc).1
    split
    · exact h.examineBlocked (h.clash _ _ hd)
    · next hs => exact h.loseContention hm (by simp [Claim.isContending, hs]) _ _ hd
    · exact h.examineBlocked hd
    · exact h.examineBlocked hd

theorem contendBeacon (h : Inner P) {d : Dev} (r : PeerRec) (hd : P d) : P (d.contendBeacon r) := by
  unfold Dev.contendBeacon
  split
  · exact hd
  · next c hc =>
    have hm := List.mem_of_find?_eq_some hc
    have hr := List.find?_some hc
    exact ite_keeps (fun _ => h.loseContention hm hr _ _ hd)
      (fun _ => ite_keeps (fun _ => h.loseContention hm hr _ _ hd) (fun _ => hd))

theorem clashBeacon (h : Inner P) {d : Dev} (r : PeerRec) (hd : P d) : P (d.clashBeacon r) := by
  refine foldl_keeps (fun d c hd => ?_) _ _ hd
  split
  · exact h.clash _ _ hd
  · exact hd

theorem onBeacon (h : Inner P) {d : Dev} (r : PeerRec) (hd : P d) : P (d.onBeacon r) := by
  refine h.event (fun d hd => ?_) hd
  simp only
  have h1 := h.examineBlocked (h.clashBeacon r (h.contendBeacon r hd))
  split
  · split
    · exact ite_keeps (fun _ => h.examineMutual h1) (fun _ => h1)
    all_goals exact h1
  · exact h1

theorem junctionSilent (h : Inner P) {d : Dev} (n : Nat) (hd : P d) : P (d.junctionSilent n) := by
  refine foldl_keeps (fun d c hd => ?_) _ _ hd
  split
  · exact h.requestPoints _ _ (h.bump _ hd)
  · exact h.requestPoints _ _ (h.bump _ hd)
  · exact hd
  · exact hd

theorem onFreshness (h : Inner P) {d : Dev} (r : PeerRec) (hd : P d) : P (d.onFreshness r) :=
  h.event (fun _ hd => h.examineBlocked (ite_keeps (fun _ => h.junctionSilent _ hd) (fun _ => hd))) hd

theorem onPoints (h : Inner P) {d : Dev} (sec : Nat) (leg : Leg) (l : Bool) (n : Nat) (hd : P d) : P (d.onPoints sec leg l n) := by
  unfold Dev.onPoints
  split
  · exact hd
  · simp only
    split
    · refine ite_keeps (fun _ => ?_) (fun _ => hd)
      have h1 := h.updatePoints sec (f := fun e => { e with points := .locked, pointsTimer := none, rerequestTimer := none })
        (fun _ => rfl) (fun _ => rfl) (fun _ => rfl) hd
      exact ite_keeps (fun _ => h.judgeHeldReport _ h1) (fun _ => h1)
    · exact ite_keeps (fun _ => hd) (fun _ => h.requestPoints _ _ (h.bump _ hd))
    · exact hd
    · exact hd

theorem removeClaim (h : Inner P) {d : Dev} (c : Claim) (hd : P d) : P (d.removeClaim c) :=
  h.tidyDeadlock (h.filterClaims _ (h.abandon c hd))

theorem makeRoom (h : Inner P) {d d' : Dev} {l : List Nat} (hr : d.makeRoom = some (d', l)) (hd : P d) : P d' := by
  unfold Dev.makeRoom at hr
  split at hr
  · cases hr; exact h.removeClaim _ hd
  · split at hr
    · cases hr; exact h.removeClaim _ hd
    · split at hr
      · cases hr
        exact ite_keeps (fun _ => h.raise _ (h.removeClaim _ hd)) (fun _ => h.removeClaim _ hd)
      · split at hr
        · cases hr; exact h.removeClaim _ hd
        · cases hr

theorem occupy (h : Inner P) {d : Dev} (sec : Nat) (hd : P d) : P (d.occupy sec) := by
  unfold Dev.occupy
  split
  · exact hd
  · next c _ =>
    simp only
    have h1 : P ((d.abandon c).updateClaim sec (fun e => { e with state := .held .occupancy { d.currentTicket with occupancy := true } })).tidyDeadlock :=
      h.tidyDeadlock (h.updateHeld sec (fun _ => rfl) (fun _ => rfl) (fun _ => rfl) (h.abandon c hd))
    generalize ((d.abandon c).updateClaim sec (fun e => { e with state := .held .occupancy { d.currentTicket with occupancy := true } })).tidyDeadlock = d' at h1 ⊢
    refine h.afterHeld _ (h.announceTaken _ _ ?_)
    split
    · exact h.raise _ h1
    · exact h.raise _ h1
    · exact h1
    · exact h1

theorem horizonFrom (h : Inner P) (v : RouteView) : ∀ (l : List RouteEntry) (k : Nat) {d : Dev},
    (∀ y ∈ d.cle.table, y.orderKey ≤ k) → P d → P (d.horizonFrom v k l)
  | [], _, _, _, hd => hd
  | e :: rest, k, d, hk, hd => by
    refine ite_keeps (fun _ => h.horizonFrom v rest (k + 1) (fun y hy => ?_)
      (h.cle _ (Cle.insert_active _ _ _) (Cle.ok_insertLast (fun _ => none) _ rfl rfl hk) hd)) (fun _ => hd)
    rcases Cle.mem_insert (pos := fun _ => none)
      (x := Claim.fresh e.sec (some k) (if d.isPoints e.sec then some e.leg else none)) hy with rfl | hy
    · exact Nat.le_succ k
    · exact (hk y hy).trans (Nat.le_succ k)

theorem horizonWalk (h : Inner P) {d : Dev} (hd : P d) : P d.horizonWalk := by
  unfold Dev.horizonWalk
  split
  · next v k _ hk =>
    exact ite_keeps (fun _ => hd) (fun _ => h.refront _ (h.horizonFrom _ _ _
      (fun y hy => (Cle.orderKey_le_lastIdx hk y hy).trans (Nat.le_succ k)) hd))
  · exact hd

theorem releaseBehind (h : Inner P) {d : Dev} (hd : P d) : P d.releaseBehind :=
  ite_keeps (fun _ => h.releaseClaims _ hd) (fun _ => hd)

theorem retryWanted (h : Inner P) {d : Dev} (n : Option Nat) (hd : P d) : P (d.retryWanted n) := by
  unfold Dev.retryWanted
  split
  · exact ite_keeps (fun _ => h.examineFront hd) (fun _ => hd)
  · exact hd

theorem unmarkRetry (h : Inner P) {d : Dev} (hd : P d) : P d.unmarkRetry := by
  unfold Dev.unmarkRetry
  split
  · next n hn =>
    unfold Dev.retrySection at hn
    obtain ⟨c, hc, hs⟩ := Option.bind_eq_some_iff.1 hn
    split at hs
    · cases hs
      exact h.updateFront hc rfl (fun _ => rfl) (fun _ => rfl) rfl hd
    · cases hs
  · exact hd

theorem claimsStandstill (h : Inner P) {d : Dev} (hd : P d) : P d.claimsStandstill :=
  h.event (fun _ hd => h.claimsAtStandstill (h.settleAbort hd)) hd

theorem windowExpiry (h : Inner P) {d : Dev} (hd : P d) : P d.windowExpiry := by
  unfold Dev.windowExpiry
  split
  · next c _ =>
    split
    · next t x y _ =>
      refine ite_keeps (fun _ => hd) (fun _ => h.event (fun d hd => ?_) hd)
      have h1 := h.updateHeld c.sec (f := fun e => { e with state := .held .route t }) (fun _ => rfl) (fun _ => rfl) (fun _ => rfl) hd
      have h2 := h.bump .contentionsWon (h.beside { (d.updateClaim c.sec (fun e => { e with state := .held .route t })).cle with
        lossCount := 0 } rfl rfl (.inr (Nat.zero_le _)) h1)
      exact h.examineFront (h.afterHeld _ (h.announceTaken _ _ h2))
    all_goals exact hd
  · exact hd

theorem backoffExpiry (h : Inner P) {d : Dev} (hd : P d) : P d.backoffExpiry := by
  unfold Dev.backoffExpiry
  split
  · next c hc =>
    split
    · exact ite_keeps (fun _ => h.eventAt (fun hd => h.examineFront
        (h.updateFront (d := { d with cle := { d.cle with gathering := some [] } }) (x := c) hc rfl
          (fun _ => rfl) (fun _ => rfl) rfl hd)) hd) (fun _ => hd)
    all_goals exact hd
  · exact hd

theorem pointsTimeout (h : Inner P) {d : Dev} (sec : Nat) (hd : P d) : P (d.pointsTimeout sec) := by
  unfold Dev.pointsTimeout
  split
  · exact ite_keeps (fun _ => h.raise _ (h.updatePoints _ (fun _ => rfl) (fun _ => rfl) (fun _ => rfl) hd)) (fun _ => hd)
  · exact hd

theorem rerequest (h : Inner P) {d : Dev} (sec : Nat) (hd : P d) : P (d.rerequest sec) := by
  unfold Dev.rerequest
  split
  · exact ite_keeps (fun _ => h.updatePoints _ (fun _ => rfl) (fun _ => rfl) (fun _ => rfl) (h.sendPointsRequest _ hd)) (fun _ => hd)
  · exact hd

theorem intentSent (h : Inner P) {d : Dev} (tag : Nat) (hd : P d) : P (d.intentSent tag) := by
  refine h.cle _ rfl (fun hok => Cle.ok_map rfl (.inl le_rfl) hok ?_ ?_ ?_ ?_) hd
  all_goals
    intro e _
    cases hs : e.state with
    | contending t g w => simp only; split <;> simp [Claim.isHeld, Claim.tried, Claim.isContending, hs]
    | _ => simp

theorem intentDropped (h : Inner P) {d : Dev} (tag : Nat) (hd : P d) : P (d.intentDropped tag) := by
  refine h.event (fun d hd => ?_) hd
  refine ite_keeps (fun _ => ?_) (fun _ => hd)
  refine h.examineFront (h.bump _ (h.cle _ rfl (fun hok => Cle.ok_map rfl (.inl le_rfl) hok ?_ ?_ ?_ ?_) hd))
  all_goals
    intro e _
    cases hs : e.state <;> simp [hs]
    split <;> simp [Claim.isHeld, Claim.tried, Claim.isContending, hs]

theorem quietCleared (h : Inner P) {d : Dev} (hd : P d) : P d.quietCleared := by
  refine h.event (fun d hd => ?_) hd
  split
  · exact h.examineFront hd
  · exact h.examineFront hd
  · exact hd

end Inner

namespace InnerLoss

theorem joinOccupied (h : InnerLoss P) {d : Dev} (x : Covered) (hd : P d) : P (d.joinOccupied x) :=
  h.toInner.occupy _ (h.toInner.cle _ (Cle.insert_active _ _ _) (Cle.ok_insertHeld _ _ rfl) hd)

theorem checkCovered (h : InnerLoss P) {d : Dev} (x : Covered) (hd : P d) : P (d.checkCovered x) := by
  have hi := h.toInner
  unfold Dev.checkCovered
  refine ite_keeps (fun _ => hd) (fun _ => ?_)
  split
  · exact ite_keeps (fun _ => hd) (fun _ => hi.occupy _ hd)
  · refine ite_keeps (fun _ => h.joinOccupied _ hd) (fun _ => ?_)
    split
    · next hr => exact hi.announceRelease _ (h.joinOccupied _ (hi.makeRoom hr hd))
    · exact h.loseWith _ hd

theorem footprintCheck (h : InnerLoss P) {d : Dev} (hd : P d) : P d.footprintCheck :=
  ite_keeps (fun _ => h.toInner.refront _ (foldl_keeps (fun _ x hd => h.checkCovered x hd) _ _ (h.toInner.realign _ hd)))
    (fun _ => hd)

theorem claimsAnchored (h : InnerLoss P) {d : Dev} (hd : P d) : P d.claimsAnchored :=
  h.toInner.event (fun _ hd => h.footprintCheck hd) hd

theorem claimsLocated (h : InnerLoss P) {d : Dev} (hd : P d) : P d.claimsLocated :=
  h.toInner.event (fun _ hd => ite_keeps
    (fun _ => h.toInner.beside _ rfl rfl (.inl le_rfl) (h.toInner.releaseOutside (h.footprintCheck hd)))
    (fun _ => h.footprintCheck hd)) hd

theorem buildView (h : InnerLoss P) {d : Dev} (v : RouteView) (n : Nat) (hd : P d) : P (d.buildView v n) := by
  have hi := h.toInner
  refine hi.event (fun d hd => ?_) hd
  refine hi.horizonWalk (h.footprintCheck (foldl_keeps (fun _ c hd => hi.requestPoints c false hd) _ _ (hi.releaseClaims _ ?_)))
  refine hi.cle _ rfl (fun hok => Cle.ok_held (c := d.dropUnheld.cle) ?_ (.inl le_rfl) (sortBy_sorted _ _) (fun e he => ?_) hok)
    (hi.dropUnheld hd)
  · refine (((sortBy_perm _ _).trans (sortBy_perm _ _)).map _).trans ?_
    rw [map_keep (fun e _ => ?_)]
    simp only [RouteView.take]
    split <;> rfl
  · have he := (sortBy_perm _ _).mem_iff.1 ((sortBy_perm _ _).mem_iff.1 he)
    obtain ⟨x, hx, rfl⟩ := List.mem_map.1 he
    have := d.dropUnheld_allHeld x hx
    simp only [RouteView.take]
    split <;> exact this

theorem claimsSample (h : InnerLoss P) {d : Dev} (n : Option Nat) (hd : P d) : P (d.claimsSample n) :=
  h.toInner.event (fun _ hd => ite_keeps (fun _ => h.toInner.releaseBehind (h.toInner.retryWanted _
    (h.toInner.horizonWalk (h.footprintCheck hd)))) (fun _ => hd)) hd

end InnerLoss

/-! ### The Odometer -/

theorem Dev.turn_dir (d : Dev) (dir : Direction) : (d.turn dir).odo.pos.dir = dir := by
  unfold Dev.turn
  split
  · assumption
  · unfold Dev.reverseLine
    simp only
    split <;> rfl

namespace Inner

theorem withPos (h : Inner P) {d : Dev} (p : PositionRec) (hp : p.dir = d.odo.pos.dir) (hd : P d) : P (d.withPos p) :=
  h.odo _ rfl hp hd

theorem halved (h : Inner P) {d : Dev} (n : Nat) (hd : P d) : P (d.halved n).1 := by
  unfold Dev.halved
  split
  · exact hd
  · exact h.drawn hd

theorem findDue (h : Inner P) {d : Dev} (hd : P d) : P d.findDue :=
  h.odo _ rfl rfl hd

theorem missMarker (h : Inner P) {d : Dev} (hd : P d) : P d.missMarker :=
  ite_keeps (fun _ => h.raise _ (h.odo _ rfl rfl (h.bump _ hd))) (fun _ => h.odo _ rfl rfl (h.bump _ hd))

theorem judgeDue (h : Inner P) {d : Dev} (hd : P d) : P d.judgeDue := by
  unfold Dev.judgeDue
  split
  · exact ite_keeps (fun _ => h.missMarker (h.odo _ rfl rfl hd)) (fun _ => hd)
  · exact hd

theorem judgeBefore (h : Inner P) {d : Dev} (n : MarkerDue) (p : Point) (x : Int) (hd : P d) : P (d.judgeBefore n p x) :=
  foldl_keeps (fun _ _ hd => ite_keeps (fun _ => h.missMarker hd) (fun _ => hd)) _ _ hd

theorem countDetection (h : Inner P) {d : Dev} (x : Detection) (hd : P d) : P (d.countDetection x) := by
  unfold Dev.countDetection
  refine ite_keeps (fun _ => h.odo _ rfl rfl hd) (fun _ => ?_)
  have h0 := h.bump (sideCounter (otherSide x.side)) hd
  refine ite_keeps (fun _ => ?_) (fun _ => h.odo _ rfl rfl h0)
  exact ite_keeps (fun _ => h.raise _ (h.odo _ rfl rfl h0)) (fun _ => h.odo _ rfl rfl h0)

theorem matched (h : Inner P) {d : Dev} (l : List MarkerAt) (hd : P d) : P (d.matched l).1 := by
  unfold Dev.matched
  split
  · exact hd
  · exact hd
  · split
    · exact h.drawn hd
    · exact hd

theorem carrySign (h : Inner P) {d : Dev} (x : Detection) (hd : P d) : P (d.carrySign x).1 := by
  unfold Dev.carrySign
  split
  · exact hd
  · split
    · exact hd
    · split
      · exact hd
      · exact h.drawn hd

theorem passMarker (h : Inner P) {d : Dev} (p : Point) (hd : P d) : P (d.passMarker p) := by
  unfold Dev.passMarker
  split
  · exact ite_keeps (fun _ => h.odo _ rfl rfl hd) (fun _ => hd)
  · exact hd

theorem midpoint (h : Inner P) {d : Dev} (p q : Point) (n : Int) (hd : P d) : P (d.midpoint p q n).1 :=
  h.halved _ hd

theorem openWindow (h : Inner P) {d : Dev} (s : ReaderSide) (p : Point) (n : Int) (hd : P d) : P (d.openWindow s p n) :=
  ite_keeps (fun _ => h.odo _ rfl rfl hd) (fun _ => hd)

theorem takeDirection (h : Inner P) {d d' : Dev} (dir : Direction) (hr : d.takeDirection dir = some d') (hd : P d) : P d' := by
  unfold Dev.takeDirection at hr
  split at hr
  · cases hr
  · split at hr
    · cases hr; exact hd
    · cases hr; exact h.findDue (h.takeTurn _ hd)

theorem odoOrderStart (h : Inner P) {d : Dev} (r : Route) (hd : P d) : P (d.odoOrderStart r) := by
  unfold Dev.odoOrderStart
  split
  · next e _ =>
    have h1 := h.odo (d := d.turn e.dir) { (d.turn e.dir).odo with
      pos := { (d.turn e.dir).odo.pos with idx := some 1, leg := e.leg }
      window := (d.turn e.dir).odo.window.map (fun (w : PairWindow) => { w with snap := w.snap.onRoute r.entries }) } rfl rfl
      (h.takeTurn e.dir hd)
    exact ite_keeps (fun _ => h.findDue h1) (fun _ => h.odo _ rfl rfl h1)
  · exact hd

theorem slipTest (h : Inner P) {d : Dev} (x : Bool) (hd : P d) : P (d.slipTest x) := by
  unfold Dev.slipTest
  refine ite_keeps (fun _ => ?_) (fun _ => h.odo _ rfl rfl hd)
  exact ite_keeps (fun _ => h.raise _ (h.odo _ rfl rfl (h.bump _ hd))) (fun _ => h.odo _ rfl rfl (h.bump _ hd))

end Inner

namespace InnerLoss

theorem recompute (h : InnerLoss P) {d : Dev} (x y : Nat) (hd : P d) : P (d.recompute x y) := by
  unfold Dev.recompute
  exact ite_keeps (fun _ => ite_keeps (fun _ => h.loseWith _ (h.toInner.withPos _ rfl hd)) (fun _ => h.toInner.withPos _ rfl hd)) (fun _ => hd)

theorem anchorAt (h : InnerLoss P) {d : Dev} (p : Point) (x : Int) (t u : Nat) (hd : P d) : P (d.anchorAt p x t u) :=
  ite_keeps (fun _ => h.loseWith _ hd) (fun _ => h.recompute _ _ (h.place _ hd))

theorem anchorMarker (h : InnerLoss P) {d : Dev} (x : Detection) (m : MarkerAt) (hd : P d) : P (d.anchorMarker x m) := by
  have hi := h.toInner
  unfold Dev.anchorMarker
  simp only
  have h1 := hi.bump .markerAnchors (h.anchorAt m.point (d.carrySign x).2 x.travel
    (max (if x.paired then d.tmp.carriage.markerTol * 1000 else 2 * d.tmp.carriage.markerTol * 1000) (d.tmp.carriage.padTol * 1000))
    (hi.carrySign x hd))
  refine ite_keeps (fun _ => ?_) (fun _ => h1)
  refine h.claimsAnchored (hi.passMarker _ (hi.findDue ?_))
  split
  · exact hi.judgeBefore _ _ _ (hi.odo _ rfl rfl h1)
  · exact hi.odo _ rfl rfl h1

theorem unexpectedMarker (h : InnerLoss P) {d : Dev} (u x y : Nat) (hd : P d) : P (d.unexpectedMarker u x y) :=
  ite_keeps (fun _ => h.recompute _ _ (h.toInner.withPos _ rfl (h.toInner.raise _ (h.toInner.bump _ hd))))
    (fun _ => h.toInner.raise _ (h.toInner.bump _ hd))

theorem detect (h : InnerLoss P) {d : Dev} (x : Detection) (hd : P d) : P (d.detect x) := by
  have hi := h.toInner
  unfold Dev.detect
  refine ite_keeps (fun _ => hd) (fun _ => ?_)
  have h1 := hi.countDetection x hd
  generalize d.countDetection x = d at h1 ⊢
  simp only
  refine ite_keeps (fun _ => h1) (fun _ => ?_)
  split
  · exact h.anchorMarker _ _ (hi.matched _ h1)
  · exact h.unexpectedMarker _ _ _ (hi.matched _ h1)

theorem closeSingle (h : InnerLoss P) {d : Dev} (w : PairWindow) (hd : P d) : P (d.closeSingle w) :=
  h.detect _ (h.toInner.odo _ rfl rfl hd)

theorem closePaired (h : InnerLoss P) {d : Dev} (w : PairWindow) (p : Point) (hd : P d) : P (d.closePaired w p) :=
  h.detect _ (h.toInner.odo _ rfl rfl (h.toInner.halved _ (h.toInner.midpoint _ _ _ hd)))

theorem markerEdge (h : InnerLoss P) {d : Dev} (s : ReaderSide) (hd : P d) : P (d.markerEdge s) := by
  have hi := h.toInner
  unfold Dev.markerEdge
  refine ite_keeps (fun _ => ?_) (fun _ => hd)
  simp only
  split
  · exact hi.openWindow _ _ _ hd
  · exact ite_keeps (fun _ => hi.openWindow _ _ _ (hi.judgeDue (h.closeSingle _ hd))) (fun _ => hi.judgeDue (h.closePaired _ _ hd))

theorem anchorPad (h : InnerLoss P) {d d' : Dev} (o : Order) (hr : d.anchorPad o = some d') (hd : P d) : P d' := by
  unfold Dev.anchorPad at hr
  split at hr
  · split at hr
    · cases hr
    · cases hr
      exact h.claimsAnchored (h.toInner.findDue (h.anchorAt _ _ _ _ hd))
  · cases hr

theorem startPosition (h : InnerLoss P) {d : Dev} (hd : P d) : P d.startPosition.1 := by
  have hi := h.toInner
  unfold Dev.startPosition
  split
  · exact (hi.raise .padCode hd : P (d.raise .padCode))
  · split
    · exact hd
    · simp only
      have h1 := hi.odo { d.odo with padCode := padNumber d.odo.padLines } rfl rfl hd
      split
      · split
        · exact hi.findDue (h.recompute _ _ (h.place _ h1))
        · exact h1
      · exact h1

theorem locate (h : InnerLoss P) {d d' : Dev} (s o : Nat) (dir : Direction) (hr : d.locate s o dir = .ok d') (hd : P d) : P d' := by
  have hi := h.toInner
  unfold Dev.locate at hr
  split at hr
  · cases hr
  · split at hr
    · cases hr
    · split at hr
      · cases hr
      · split at hr
        · cases hr
        · cases hr
          exact h.claimsLocated (hi.findDue (h.recompute _ _ (hi.withPos _ (Dev.turn_dir d dir).symm (hi.takeTurn _ hd))))

theorem carrySample (h : InnerLoss P) {d : Dev} (x : Int) (y : Nat) (hd : P d) : P (d.carrySample x y) := by
  unfold Dev.carrySample
  refine ite_keeps (fun _ => ite_keeps (fun _ => h.loseWith _ hd) (fun _ => ?_)) (fun _ => hd)
  exact h.recompute _ _ (h.place _ (h.toInner.odo _ rfl rfl hd))

theorem windowSample (h : InnerLoss P) {d : Dev} (x : Int) (b : Bool) (hd : P d) : P (d.windowSample x b) := by
  unfold Dev.windowSample
  split
  · exact ite_keeps (fun _ => h.closeSingle _ (h.toInner.odo _ rfl rfl hd)) (fun _ => h.toInner.odo _ rfl rfl hd)
  · exact hd

end InnerLoss

/-! ### The Dock Controller -/

namespace Inner

theorem setDock (h : Inner P) {d : Dev} (s : DockState) (hd : P d) : P (d.setDock s) := h.dkc _ rfl hd

theorem clampFault (h : Inner P) {d : Dev} (c : Counter) (hd : P d) : P (d.clampFault c) := h.raise _ (h.bump _ hd)

theorem clampedReport (h : Inner P) {d : Dev} (hd : P d) : P d.clampedReport := by
  unfold Dev.clampedReport
  split
  · exact hd
  · next o _ =>
    simp only
    have h1 := h.endOrder (if d.dkc.abortTaken then .aborted else .arrived) none
      (h.stc { d.stc with parkedPad := some o.pad } rfl hd)
    split
    · exact h.enterState _ h1
    · exact h.stc _ rfl h1
    · exact h.leaveSafeStop h1
    all_goals exact h1

theorem unclampedReport (h : Inner P) {d : Dev} (hd : P d) : P d.unclampedReport := by
  unfold Dev.unclampedReport
  split
  · exact hd
  · next o _ =>
    simp only
    have h1 := h.stc { d.stc with order := some { o with departing := false }, parkedPad := none } rfl hd
    exact ite_keeps (fun _ => h.leaveSafeStop (h.endOrder _ _ h1))
      (fun _ => ite_keeps (fun _ => h.enterHalted _ h1) (fun _ => h.enterState _ h1))

theorem startClamping (h : Inner P) {d : Dev} (hd : P d) : P d.startClamping :=
  h.dkc _ rfl (h.requestClampDown (h.zeroDemand (h.setDock _ hd)))

theorem clampingDone (h : Inner P) {d : Dev} (hd : P d) : P d.clampingDone :=
  h.clampedReport (h.dkc _ rfl (h.bump _ (h.dropClampCommands (h.dkc _ rfl hd))))

theorem startDeparture (h : Inner P) {d : Dev} (hd : P d) : P d.startDeparture :=
  h.dkc _ rfl (h.requestClampUp (h.dkc _ rfl hd))

theorem departureDone (h : Inner P) {d : Dev} (hd : P d) : P d.departureDone :=
  h.unclampedReport (h.dkc _ rfl (h.bump _ (h.dropClampCommands (h.dkc _ rfl hd))))

theorem dockOrderStart (h : Inner P) {d : Dev} (n : Nat) (hd : P d) : P (d.dockOrderStart n) :=
  ite_keeps (fun _ => h.startDeparture (h.dkc _ rfl hd)) (fun _ => h.setDock _ (h.dkc _ rfl hd))

theorem clampTimeout (h : Inner P) {d : Dev} (hd : P d) : P d.clampTimeout := by
  unfold Dev.clampTimeout
  have h1 := h.dkc { d.dkc with clampTimer := none } rfl hd
  simp only
  split <;> first | exact h1 | exact h.failDocking _ _ (h.raise _ h1)

theorem judgeCorrection (h : Inner P) {d : Dev} (o : Order) (e : Int) (hd : P d) : P (d.judgeCorrection o e) := by
  unfold Dev.judgeCorrection
  refine ite_keeps (fun _ => ?_) (fun _ => h.failDocking _ _ (h.raise _ hd))
  split
  · next hr => exact h.bump _ (h.dkc _ rfl (h.takeDirection _ hr hd))
  · exact hd

theorem stopCheck (h : Inner P) {d : Dev} (hd : P d) : P d.stopCheck := by
  unfold Dev.stopCheck
  split
  · exact hd
  · simp only
    have h1 := fun e => h.bump .stopChecks (h.dkc { d.dkc with stopError := e } rfl hd)
    exact ite_keeps (fun _ => h.startClamping (h1 _)) (fun _ => ite_keeps (fun _ => h.failDocking _ _ (h.raise _ (h1 _)))
      (fun _ => h.judgeCorrection _ _ (h1 _)))

theorem enterCheck (h : Inner P) {d : Dev} (hd : P d) : P d.enterCheck :=
  h.stopCheck (ite_keeps (fun _ => h.enterState _ (h.setDock _ hd)) (fun _ => h.setDock _ hd))

theorem endOfApproach (h : Inner P) {d : Dev} (hd : P d) : P d.endOfApproach := by
  unfold Dev.endOfApproach
  refine ite_keeps (fun _ => ?_) (fun _ => hd)
  split
  · exact h.enterCheck hd
  · exact ite_keeps (fun _ => h.failDocking _ _ (h.raise _ hd)) (fun _ => hd)
  all_goals exact hd

theorem dockApproach (h : Inner P) {d : Dev} (hd : P d) : P d.dockApproach := h.bump _ (h.setDock _ hd)

theorem recheck (h : Inner P) {d : Dev} (hd : P d) : P d.recheck := ite_keeps (fun _ => h.stopCheck hd) (fun _ => hd)

theorem endOfCorrection (h : Inner P) {d : Dev} (hd : P d) : P d.endOfCorrection :=
  ite_keeps (fun _ => h.enterCheck (h.dkc _ rfl hd)) (fun _ => hd)

theorem dockStandstill (h : Inner P) {d : Dev} (hd : P d) : P d.dockStandstill := by
  unfold Dev.dockStandstill
  split <;> first | exact hd | exact h.endOfApproach hd | exact h.recheck hd | exact h.endOfCorrection hd

theorem dockMotion (h : Inner P) {d : Dev} (hd : P d) : P d.dockMotion :=
  ite_keeps (fun _ => h.dkc _ rfl hd) (fun _ => hd)

theorem dockResume (h : Inner P) {d : Dev} (hd : P d) : P d.dockResume := by
  unfold Dev.dockResume
  split
  · exact h.endOfApproach hd
  · exact h.endOfApproach hd
  · exact h.recheck hd
  · exact ite_keeps (fun _ => h.endOfCorrection (h.dkc _ rfl hd)) (fun _ => hd)
  all_goals exact hd

theorem dockAbort (h : Inner P) {d : Dev} (hd : P d) : P d.dockAbort := by
  unfold Dev.dockAbort
  split <;> first | exact hd | exact h.dkc _ rfl hd | exact h.setDock _ (h.dropClampCommands (h.dkc _ rfl hd))

theorem correctionTimeout (h : Inner P) {d : Dev} (hd : P d) : P d.correctionTimeout :=
  ite_keeps (fun _ => h.failDocking _ _ (h.raise _ (h.dkc _ rfl hd))) (fun _ => h.dkc _ rfl hd)

theorem clampWatchTimeout (h : Inner P) {d : Dev} (hd : P d) : P d.clampWatchTimeout :=
  h.clampFault _ (h.dkc _ rfl hd)

theorem otherEdge (h : Inner P) {d : Dev} (o : Order) (n : Nat) (p : Point) (hd : P d) : P (d.otherEdge o n p) :=
  ite_keeps (fun _ => h.bump _ hd) (fun _ => h.failDocking _ _ (h.raise _ (h.bump _ hd)))

theorem judgeClampsUp (h : Inner P) {d : Dev} (n : Nat) (hd : P d) : P (d.judgeClampsUp n) :=
  ite_keeps (fun _ => ite_keeps (fun _ => h.raise _ (h.setLatch _ hd)) (fun _ => h.setLatch _ hd)) (fun _ => hd)

theorem clampsDownChanged (h : Inner P) {d : Dev} (x : Bool) (hd : P d) : P (d.clampsDownChanged x) := by
  unfold Dev.clampsDownChanged
  refine ite_keeps (fun _ => ?_) (fun _ => ite_keeps (fun _ => ?_) (fun _ => hd))
  · have h1 : P (if d.bdu.inClampsUp then d.clampFault .clampBoth else d) := ite_keeps (fun _ => h.clampFault _ hd) (fun _ => hd)
    exact ite_keeps (fun _ => h.clampingDone (ite_keeps (fun _ => h.clampFault _ h1) (fun _ => h1)))
      (fun _ => ite_keeps (fun _ => h.clampFault _ h1) (fun _ => h1))
  · exact ite_keeps (fun _ => h.departureDone (h.dkc _ rfl hd)) (fun _ => h.dkc _ rfl hd)

theorem clampsUpChanged (h : Inner P) {d : Dev} (x : Bool) (hd : P d) : P (d.clampsUpChanged x) := by
  unfold Dev.clampsUpChanged
  refine ite_keeps (fun _ => ?_) (fun _ => ite_keeps (fun _ => h.clampingDone hd) (fun _ => hd))
  have h1 : P (if d.bdu.inClampsDown then d.clampFault .clampBoth else d) := ite_keeps (fun _ => h.clampFault _ hd) (fun _ => hd)
  exact ite_keeps (fun _ => h.departureDone h1) (fun _ => h1)

end Inner

namespace InnerLoss

theorem acceptEdge (h : InnerLoss P) {d : Dev} (o : Order) (p : Point) (hd : P d) : P (d.acceptEdge o p) := by
  unfold Dev.acceptEdge
  simp only
  split
  · next hr =>
    have h1 := h.toInner.bump .anchorsAccepted (h.anchorPad o hr (h.toInner.dkc _ rfl hd))
    exact ite_keeps (fun _ => h.toInner.bump _ h1) (fun _ => h1)
  · exact h.toInner.bump _ hd

theorem dockEdge (h : InnerLoss P) {d : Dev} (n : Nat) (p : Option Point) (hd : P d) : P (d.dockEdge n p) := by
  have hi := h.toInner
  unfold Dev.dockEdge
  split
  · refine ite_keeps (fun _ => hi.bump _ hd) (fun _ => ?_)
    simp only
    split
    · exact ite_keeps (fun _ => h.acceptEdge _ _ hd) (fun _ => hi.bump _ hd)
    · exact ite_keeps (fun _ => h.acceptEdge _ _ hd) (fun _ => hi.otherEdge _ _ _ hd)
    · exact ite_keeps (fun _ => h.acceptEdge _ _ hd) (fun _ => hi.otherEdge _ _ _ hd)
    · exact ite_keeps (fun _ => hi.bump _ hd) (fun _ => hi.otherEdge _ _ _ hd)
    all_goals exact hi.bump _ hd
  · exact hi.bump _ hd

theorem padEdge (h : InnerLoss P) {d : Dev} (l : BitVec 7) (hd : P d) : P (d.padEdge l) :=
  ite_keeps (fun _ => hd) (fun _ => ite_keeps (fun _ => h.toInner.raise _ hd)
    (fun _ => h.dockEdge _ _ (h.toInner.odo _ rfl rfl hd)))

end InnerLoss

/-! ### Every command -/

/-- `P` outlives each elementary change of any command. -/
structure Outer (P : Dev → Prop) : Prop extends InnerLoss P where
  reset : ∀ (b : Bool) (n : Nat), P { Dev.afterReset b with freeCount := n }
  now : ∀ {d : Dev} (n : Nat), P d → P { d with now := n }
  tmp : ∀ {d : Dev} (t : Tmp), P d → P { d with tmp := t }
  btl : ∀ {d : Dev} (b : Btl), P d → P { d with btl := b }
  mnp : ∀ {d : Dev} (m : Mnp), P d → P { d with mnp := m }
  odoAll : ∀ {d : Dev} (o : Odo), o.pos.dir = d.odo.pos.dir → P d → P { d with odo := o }
  dkcAll : ∀ {d : Dev} (k : Dkc), P d → P { d with dkc := k }
  cleAll : ∀ {d : Dev} (c : Cle), (d.cle.ok → c.ok) → P d → P { d with cle := c }
  peers : ∀ {d : Dev} (l : List PeerRec),
    ((d.peers.map (·.station)).Pairwise (· < ·) → (l.map (·.station)).Pairwise (· < ·)) → P d → P { d with peers := l }
  lif : ∀ {d : Dev} (l : Lif), (queueOk d.lif.queue → queueOk l.queue) →
    (d.lif.mailbox.length ≤ Config.maxMailbox → l.mailbox.length ≤ Config.maxMailbox) → P d → P { d with lif := l }
  sup : ∀ {d : Dev} (x : Sup), (d.sup.demandOk → x.demandOk) → P d → P { d with sup := x }
  inputs : ∀ {d : Dev} (ls dr sl up : Bool), P d → P { d with bdu := { d.bdu with
    inLocalStop := ls, inDriveReady := dr, inSupplyLow := sl, inClampsUp := up } }
  downQuiet : ∀ {d : Dev} (x : Bool), d.bdu.active = false → P d → P { d with bdu := { d.bdu with inClampsDown := x } }
  bdu : ∀ {d : Dev} (b : Bdu), b.clampDown = d.bdu.clampDown → b.clampUp = d.bdu.clampUp →
    (b.latched = true → d.bdu.latched = true) → b.trainRunning = d.bdu.trainRunning → b.trainLevel = d.bdu.trainLevel →
    b.trainTimer = d.bdu.trainTimer → b.dirLine = d.bdu.dirLine → P d → P ({ d with bdu := b } : Dev).settle
  handed : ∀ {d : Dev} (n : Nat), P d → P { d with bdu := { d.bdu with demandHanded := n } }
  duty : ∀ {d : Dev} (n : Nat), ((d.outputsHeld || d.bdu.forced) = true → n = 0) → P d → P { d with bdu := { d.bdu with duty := n } }
  train : ∀ {d : Dev} (r l : Bool) (t : Timer), d.bdu.latched = false → P d →
    P { d with bdu := { d.bdu with trainRunning := r, trainLevel := l, trainTimer := t } }

namespace Outer

/-! #### Supervision -/

theorem min_ramp (a b c d p : Nat) : rampDemand a b c d p ≤ p := Nat.min_le_right _ _

theorem evaluated_demandOk (d : Dev) : d.evaluated.demandOk := by
  unfold Dev.evaluated Sup.demandOk
  simp only
  split
  · exact Nat.zero_le _
  · exact min_ramp _ _ _ _ _

theorem countEvaluation (h : Outer P) {d : Dev} (s : Sup) (hd : P d) : P (d.countEvaluation s) := by
  have hi := h.toInner
  unfold Dev.countEvaluation
  simp only
  have h1 := hi.bump .evaluationsTaken hd
  generalize d.bump .evaluationsTaken = d1 at h1 ⊢
  have step : ∀ (c : Prop) [Decidable c] (k : Counter) (d : Dev), P d → P (if c then d.bump k else d) :=
    fun c _ k d hd => ite_keeps (fun _ => hi.bump k hd) (fun _ => hd)
  exact step _ _ _ (step _ _ _ (step _ _ _ (step _ _ _ h1)))

theorem handOver (h : Outer P) {d : Dev} (n : Nat) (hd : P d) : P (d.handOver n) := by
  unfold Dev.handOver
  refine ite_keeps (fun _ => h.toInner.judgeClampsUp _ (h.handed n hd)) (fun _ => ?_)
  refine h.duty _ (fun hf => ?_) (h.handed n hd)
  have hf' : (d.outputsHeld || d.bdu.forced) = true := hf
  rw [if_pos hf']

theorem trainNotice (h : Outer P) {d : Dev} (hd : P d) : P d.trainNotice := by
  unfold Dev.trainNotice
  refine ite_keeps (fun _ => hd) (fun hn => h.train _ _ _ ?_ hd)
  simp only [Bool.or_eq_true, not_or, Bool.not_eq_true] at hn
  exact hn.1

theorem stationHandOver (h : Outer P) {d : Dev} (x : Option Int) (b : Bool) (hd : P d) : P (d.stationHandOver x b) := by
  have hi := h.toInner
  unfold Dev.stationHandOver
  simp only
  split
  · exact ite_keeps (fun _ => hi.endOfApproach (hi.dockApproach (hi.enterState _ (hi.stc _ rfl hd)))) (fun _ => hi.stc _ rfl hd)
  · exact ite_keeps (fun _ => hi.dockApproach (hi.stc _ rfl hd)) (fun _ => hd)
  all_goals exact hd

theorem supervise (h : Outer P) {d : Dev} (hd : P d) : P d.supervise := by
  have hi := h.toInner
  unfold Dev.supervise
  refine ite_keeps (fun _ => hi.bump _ (h.sup _ (fun x => x) hd)) (fun _ => ?_)
  have h1 := h.countEvaluation d.sup (h.sup d.evaluated (fun _ => evaluated_demandOk d) hd)
  simp only
  generalize ({ d with sup := d.evaluated } : Dev).countEvaluation d.sup = a at h1 ⊢
  generalize d.evaluated = s
  have h2 := ite_keeps (c := (decide (s.dAuth < 0) && !d.odo.standstill) = true)
    (fun _ => hi.raise .authorityOverrun h1) (fun _ => h1)
  generalize (if (decide (s.dAuth < 0) && !d.odo.standstill) = true then a.raise .authorityOverrun else a) = b at h2 ⊢
  have h3 := ite_keeps (c := (s.band == .overspeed) = true) (fun _ => hi.raise .overspeed h2) (fun _ => h2)
  generalize (if (s.band == .overspeed) = true then b.raise .overspeed else b) = c at h3 ⊢
  have h4 := h.bdu { c.bdu with srcServiceBand := s.serviceBand } rfl rfl (fun x => x) rfl rfl rfl rfl h3
  have h5 := h.trainNotice (h.handOver c.sup.demand h4)
  exact h.stationHandOver _ _ (h.dkcAll { ((({ c with bdu := { c.bdu with srcServiceBand := s.serviceBand } } : Dev).settle.handOver
    c.sup.demand).trainNotice).dkc with dStop := s.dStop } h5)

/-! #### The Peer Table -/

theorem setPeer (h : Outer P) {d : Dev} (r : PeerRec) (hd : P d) : P (d.setPeer r) := by
  refine h.peers _ (fun hp => ?_) hd
  rw [List.map_map]
  have : (fun (x : PeerRec) => x.station) ∘ (fun (x : PeerRec) => if x.station = r.station then r else x) = (·.station) := by
    funext x
    simp only [Function.comp]
    split
    · next e => exact e.symm
    · rfl
  rwa [this]

theorem addPeer (h : Outer P) {d : Dev} (r : PeerRec) (hd : P d) : P (d.addPeer r) := by
  unfold Dev.addPeer
  refine ite_keeps (fun _ => hd) (fun hn => h.toInner.bump _ (h.peers _ (fun hp => ?_) hd))
  refine insertSorted_ascends _ _ _ hp (fun y hy he => hn ?_)
  unfold Dev.peer
  rw [List.find?_isSome]
  exact ⟨y, hy, by simp [he]⟩

theorem foreignChanged (h : Outer P) {d : Dev} (n : Nat) (hd : P d) : P (d.foreignChanged n) :=
  ite_keeps (fun _ => h.toInner.raise _ hd) (fun _ => ite_keeps (fun _ => h.toInner.causeEnded _ hd) (fun _ => hd))

theorem setPeerCounted (h : Outer P) {d : Dev} (r : PeerRec) (hd : P d) : P (d.setPeerCounted r) :=
  h.foreignChanged _ (h.setPeer _ hd)

theorem intake (h : Outer P) {d : Dev} (f : Frame) (hd : P d) : P (d.intake f).dev := by
  have hi := h.toInner
  unfold Dev.intake
  split
  · exact hi.bump _ hd
  · split
    · exact (hi.raise .echoId (hi.bump .echoFrames hd) : P ((d.bump .echoFrames).raise .echoId))
    · split
      · exact h.addPeer _ hd
      · simp only
        split
        · exact h.setPeerCounted _ hd
        · exact ite_keeps (fun _ => hi.bump _ (hi.bump _ (h.setPeerCounted _ hd))) (fun _ => hi.bump _ (h.setPeerCounted _ hd))

theorem news (h : Outer P) (i : Intake) {d : Dev} (n : Nat) (hd : P d) : P (i.news d n) := by
  unfold Intake.news
  refine ite_keeps (fun _ => ?_) (fun _ => hd)
  split
  · exact h.toInner.onFreshness _ hd
  · exact hd

theorem only (h : Outer P) {i : Intake} (n : Nat) (hd : P i.dev) : P (i.only n) := h.news _ _ hd

theorem takeBeacon (h : Outer P) {d : Dev} (f : Frame) (hd : P d) : P (d.takeBeacon f) := by
  have h1 := h.intake f hd
  unfold Dev.takeBeacon
  simp only
  split
  · exact h1
  · exact ite_keeps (fun _ => h.toInner.bump _ h1) (fun _ => h.toInner.onBeacon _ (h.news _ _ (h.setPeerCounted _ h1)))

theorem takeTaken (h : Outer P) {d : Dev} (f : Frame) (hd : P d) : P (d.takeTaken f) := by
  have h1 := h.intake f hd
  unfold Dev.takeTaken
  simp only
  split
  · exact h1
  · exact h.toInner.onTaking _ _ (h.news _ _ (ite_keeps (fun _ => h.toInner.bump _ (h.setPeer _ h1)) (fun _ => h.setPeer _ h1)))

theorem takeRelease (h : Outer P) {d : Dev} (f : Frame) (hd : P d) : P (d.takeRelease f) := by
  have h1 := h.intake f hd
  unfold Dev.takeRelease
  simp only
  split
  · exact h1
  · exact ite_keeps (fun _ => h.news _ _ (h.setPeer _ h1)) (fun _ => h.toInner.onViewChanged (h.news _ _ (h.setPeer _ h1)))

theorem takeIntent (h : Outer P) {d : Dev} (f : Frame) (hd : P d) : P (d.takeIntent f) := by
  have h1 := h.intake f hd
  unfold Dev.takeIntent
  simp only
  split
  · exact h1
  · exact h.toInner.onIntent _ _ _ (h.news _ _ (h.setPeer _ h1))

theorem takeObject (h : Outer P) {d : Dev} (f : Frame) (hd : P d) : P (d.takeObject f) := by
  have h1 := h.intake f hd
  unfold Dev.takeObject
  simp only
  split
  · exact h1
  · exact ite_keeps (fun _ => h.toInner.onObjection _ _ _ (h.only _ h1)) (fun _ => h.only _ h1)

theorem takePoints (h : Outer P) {d : Dev} (n : Nat) (e : PointsEntry) (hd : P d) : P (d.takePoints n e) := by
  unfold Dev.takePoints
  simp only
  split
  · exact ite_keeps (fun _ => h.toInner.onPoints _ _ _ _ (h.setPeer _ hd)) (fun _ => h.toInner.bump _ hd)
  · exact hd

theorem takePointsState (h : Outer P) {d : Dev} (f : Frame) (hd : P d) : P (d.takePointsState f) := by
  have h1 := h.intake f hd
  unfold Dev.takePointsState
  simp only
  split
  · exact h1
  · exact foldl_keeps (fun _ e hd => h.takePoints _ e hd) _ _ (h.only _ h1)

theorem takePeerReport (h : Outer P) {d : Dev} (f : Frame) (hd : P d) : P (d.takePeerReport f) := by
  have h1 := h.intake f hd
  unfold Dev.takePeerReport
  simp only
  split
  · exact h1
  · exact h.only _ h1

theorem peerStale (h : Outer P) {d : Dev} (n : Nat) (hd : P d) : P (d.peerStale n) := by
  unfold Dev.peerStale
  split
  · exact whileDue _ (fun _ hd => h.toInner.onFreshness _ (h.setPeerCounted _ hd)) hd
  · exact hd

theorem peerLost (h : Outer P) {d : Dev} (n : Nat) (hd : P d) : P (d.peerLost n) := by
  unfold Dev.peerLost
  split
  · exact whileDue _ (fun _ hd => h.toInner.onFreshness _ (h.setPeerCounted _ hd)) hd
  · exact hd

theorem peerIntentExpiry (h : Outer P) {d : Dev} (n : Nat) (hd : P d) : P (d.peerIntentExpiry n) := by
  unfold Dev.peerIntentExpiry
  split
  · exact whileDue _ (fun _ hd => h.toInner.onViewChanged (h.setPeer _ hd)) hd
  · exact hd

theorem freeStation (h : Outer P) {d : Dev} (n : Nat) (hd : P d) : P (d.freeStation n) := by
  have hi := h.toInner
  unfold Dev.freeStation
  split
  · exact hi.bump _ hd
  · exact ite_keeps (fun _ => hi.bump _ hd) (fun _ => ite_keeps (fun _ => hi.bump _ hd) (fun _ => ite_keeps (fun _ => hi.bump _ hd)
      (fun _ => hi.onViewChanged (h.setPeer _ hd))))

/-! #### Console frames -/

theorem fromConsole (h : Outer P) {d : Dev} (f : Frame) {act : Dev → Dev} (ha : ∀ d, P d → P (act d)) (hd : P d) :
    P (d.fromConsole f act) := by
  unfold Dev.fromConsole
  simp only
  split
  · exact h.intake f hd
  · exact ha _ (h.only _ (h.intake f hd))

theorem answer (h : Outer P) {d : Dev} (b : Bool) (c : Nat) (r : ReportRequest) (n : Nat) (o : ReportOutcome) (hd : P d) :
    P (d.answer b c r n o) :=
  ite_keeps (fun _ => hd) (fun _ => h.toInner.orderReport _ _ _ _ hd)

theorem refuseOrder (h : Outer P) {d : Dev} (c n : Nat) (r : RefuseReason) (hd : P d) : P (d.refuseOrder c n r) := by
  unfold Dev.refuseOrder
  simp only
  split
  · exact h.toInner.bump _ (h.toInner.orderReport _ _ _ _ hd)
  · exact h.toInner.orderReport _ _ _ _ hd

theorem testOff (h : Outer P) {d : Dev} (t : Option LinkTest) (hd : P d) : P { d with lif := { d.lif with test := t } } :=
  h.lif _ (fun x => x) (fun x => x) hd

theorem startOrder (h : Outer P) {d : Dev} (o : Order) (b : Bool) (hd : P d) : P (d.startOrder o b) := by
  have hi := h.toInner
  have begin' : ∀ e : Dev, P e → P { e with
      stc := { e.stc with order := some o, heldReport := b }, lif := { e.lif with test := none } } := fun e he =>
    h.testOff (d := { e with stc := { e.stc with order := some o, heldReport := b } }) none (hi.stc _ rfl he)
  have report : ∀ e : Dev, P e → P (if b then e else e.orderReport o.console .moveOrder o.id .accepted) := fun e he =>
    ite_keeps (fun _ => he) (fun _ => hi.orderReport _ _ _ _ he)
  have speed : ∀ e : Dev, P e → P { e with sup := { e.sup with vOrder := some o.vOrder } } := fun e he =>
    h.sup _ (fun x => x) he
  have go : ∀ e : Dev, P e → P (if e.dkc.sub == .unclamping then
        let e := { e with stc := { e.stc with order := some { o with departing := true } } }
        if e.stc.state == .parked then e else e.enterState .parked
      else ({ e with stc := { e.stc with parkedPad := none } }).enterState .running) := fun e he =>
    ite_keeps (fun _ => ite_keeps (fun _ => hi.stc _ rfl he) (fun _ => hi.enterState _ (hi.stc _ rfl he)))
      (fun _ => hi.enterState _ (hi.stc _ rfl he))
  have view := h.toInnerLoss.buildView { route := o.route, pad := o.pad, priority := o.priority } o.vOrder
    (speed _ (hi.odoOrderStart o.route (report _ (begin' _ (hi.bump .ordersAccepted hd)))))
  exact ite_keeps (fun _ => view) (fun _ => hi.judgeHeldReport true (go _ (hi.dockOrderStart o.pad view)))

theorem judgeOrder (h : Outer P) {d : Dev} (c : Nat) (m : MoveFields) (hd : P d) : P (d.judgeOrder c m) := by
  unfold Dev.judgeOrder
  split
  · exact h.refuseOrder _ _ _ hd
  · refine ite_keeps (fun _ => h.toInner.bump _ (h.toInner.orderReport _ _ _ _ hd)) (fun _ => ite_keeps (fun _ => h.refuseOrder _ _ _ hd) (fun _ => ?_))
    split
    · exact h.refuseOrder _ _ _ hd
    · exact h.startOrder _ _ hd

theorem takeMoveOrder (h : Outer P) {d : Dev} (f : Frame) (hd : P d) : P (d.takeMoveOrder f) :=
  h.fromConsole f (fun _ hd => ite_keeps (fun _ => h.toInner.bump _ hd) (fun _ => h.judgeOrder _ _ hd)) hd

theorem consoleHalt (h : Outer P) {d : Dev} (hd : P d) : P d.consoleHalt := by
  have hi := h.toInner
  unfold Dev.consoleHalt
  split <;> first | exact hd | exact hi.bump _ hd | exact hi.bump _ (hi.stc _ rfl hd) | exact hi.bump _ (hi.takeHalt hd)

theorem refuseResume (h : Outer P) {d : Dev} (b : Bool) (c : Nat) (r : RefuseReason) (hd : P d) : P (d.refuseResume b c r) :=
  h.toInner.bump _ (h.answer _ _ _ _ _ hd)

theorem returnFromHalted (h : Outer P) {d : Dev} (hd : P d) : P d.returnFromHalted := by
  have hi := h.toInner
  unfold Dev.returnFromHalted
  simp only
  have h1 := hi.stc { d.stc with remembered := none } rfl hd
  split
  · exact hi.enterState _ h1
  · exact hi.dockResume (hi.enterState _ h1)
  · exact hi.dockResume (hi.enterState _ h1)
  · exact hi.enterState _ h1
  · exact hi.enterState _ h1

theorem resume (h : Outer P) {d : Dev} (b : Bool) (c : Nat) (hd : P d) : P (d.resume b c) := by
  have hi := h.toInner
  unfold Dev.resume
  refine ite_keeps (fun _ => h.refuseResume _ _ _ hd) (fun _ => ite_keeps (fun _ => h.refuseResume _ _ _ hd) (fun _ =>
    ite_keeps (fun _ => h.refuseResume _ _ _ hd) (fun _ => ?_)))
  simp only
  have h1 := hi.bump .resumesAccepted (hi.orderReport c .resume d.orderId .accepted hd)
  generalize (d.orderReport c .resume d.orderId .accepted).bump .resumesAccepted = d at h1 ⊢
  have h2 := hi.stc { d.stc with haltHold := false } rfl h1
  exact ite_keeps (fun _ => hi.completeAbort (h.returnFromHalted h2)) (fun _ => h2)

theorem refuseAbort (h : Outer P) {d : Dev} (b : Bool) (c : Nat) (r : RefuseReason) (hd : P d) : P (d.refuseAbort b c r) :=
  h.toInner.bump _ (h.answer _ _ _ _ _ hd)

theorem abortDeparture (h : Outer P) {d : Dev} (hd : P d) : P d.abortDeparture :=
  h.toInner.enterState _ (h.toInner.endOrder _ _ (h.toInner.dockAbort hd))

theorem abort (h : Outer P) {d : Dev} (b : Bool) (c : Nat) (hd : P d) : P (d.abort b c) := by
  have hi := h.toInner
  unfold Dev.abort
  refine ite_keeps (fun _ => hi.bump _ hd) (fun _ => ite_keeps (fun _ => h.refuseAbort _ _ _ hd) (fun _ => ?_))
  split <;> first
    | exact h.abortDeparture hd | exact h.refuseAbort _ _ _ hd
    | exact hi.completeAbort (hi.dockAbort (hi.claimsAbort (hi.stc _ rfl hd)))

theorem takeLocateFields (h : Outer P) {d : Dev} (c s o : Nat) (dir : Direction) (hd : P d) : P (d.takeLocateFields c s o dir) := by
  have hi := h.toInner
  have key : P (match (d.bump .locatesHanded).locate s o dir with
      | .error r => (d.bump .locatesHanded).orderReport c .locate 0 (.refused r)
      | .ok d => (if d.stc.state == .noPosition && d.odo.known then d.enterState .standing else d).orderReport c .locate 0 .accepted) := by
    split
    · exact hi.orderReport _ _ _ _ (hi.bump _ hd)
    · next hr =>
      have h1 := h.toInnerLoss.locate _ _ _ hr (hi.bump _ hd)
      exact hi.orderReport _ _ _ _ (ite_keeps (fun _ => hi.enterState _ h1) (fun _ => h1))
  unfold Dev.takeLocateFields
  split <;> first | exact hi.orderReport _ _ _ _ hd | exact key

theorem takeLocate (h : Outer P) {d : Dev} (f : Frame) (hd : P d) : P (d.takeLocate f) :=
  h.fromConsole f (fun _ hd => ite_keeps (fun _ => h.toInner.bump _ hd) (fun _ => h.takeLocateFields _ _ _ _ hd)) hd

/-- A clear at standstill changes the latches as `releaseLatch` gives, none of them set. -/
theorem releaseLatch_eq (d : Dev) (l : Latch) : ∃ (b : Bdu) (cs : List (BitVec 16)), d.releaseLatch l = { d with bdu := b, counters := cs } ∧
    b.clampDown = d.bdu.clampDown ∧ b.clampUp = d.bdu.clampUp ∧ (b.latched = true → d.bdu.latched = true) ∧
    b.trainRunning = d.bdu.trainRunning ∧ b.trainLevel = d.bdu.trainLevel ∧ b.trainTimer = d.bdu.trainTimer ∧
    b.dirLine = d.bdu.dirLine := by
  unfold Dev.releaseLatch
  split
  · refine ⟨d.bdu.withLatch l false, d.counters.modify Counter.latchReleases.index satInc, rfl, ?_⟩
    cases l <;> refine ⟨rfl, rfl, ?_, rfl, rfl, rfl, rfl⟩ <;> simp only [Bdu.withLatch, Bdu.latched] <;>
      cases d.bdu.latchSafeStop <;> cases d.bdu.latchClampsNotUp <;> cases d.bdu.latchSupplyLow <;> decide
  · exact ⟨d.bdu, d.counters, rfl, rfl, rfl, fun x => x, rfl, rfl, rfl, rfl⟩

theorem releaseLatches (h : Outer P) {d : Dev} (hd : P d) :
    P (((d.releaseLatch .safeStop).releaseLatch .clampsNotUp).releaseLatch .supplyLow).settle := by
  obtain ⟨b1, c1, e1, p1, q1, l1, r1, s1, t1, u1⟩ := releaseLatch_eq d .safeStop
  rw [e1]
  obtain ⟨b2, c2, e2, p2, q2, l2, r2, s2, t2, u2⟩ := releaseLatch_eq { d with bdu := b1, counters := c1 } .clampsNotUp
  rw [e2]
  obtain ⟨b3, c3, e3, p3, q3, l3, r3, s3, t3, u3⟩ := releaseLatch_eq { d with bdu := b2, counters := c2 } .supplyLow
  have e3' : ({ d with bdu := b2, counters := c2 } : Dev).releaseLatch .supplyLow = { d with bdu := b3, counters := c3 } := e3
  show P (({ d with bdu := b2, counters := c2 } : Dev).releaseLatch .supplyLow).settle
  rw [e3']
  exact h.bdu (d := { d with counters := c3 }) b3 (p3.trans (p2.trans p1)) (q3.trans (q2.trans q1)) (fun x => l1 (l2 (l3 x)))
    (r3.trans (r2.trans r1)) (s3.trans (s2.trans s1)) (t3.trans (t2.trans t1)) (u3.trans (u2.trans u1)) (h.counters c3 hd)

theorem clearFaults (h : Outer P) {d : Dev} (hd : P d) : P d.clearFaults := by
  have hi := h.toInner
  unfold Dev.clearFaults
  refine ite_keeps (fun _ => ?_) (fun _ => ?_)
  · exact hi.leaveSafeStop (h.releaseLatches (hi.clearFaultSet _ hd))
  · exact ite_keeps (fun _ => hi.bump _ (hi.reportRefused (hi.clearFaultSet _ hd))) (fun _ => hi.clearFaultSet _ hd)

theorem testStart (h : Outer P) {d : Dev} (f : Frame) (hd : P d) : P (d.testStart f) :=
  ite_keeps (fun _ => h.testOff _ hd) (fun _ => h.toInner.bump _ hd)

theorem testData (h : Outer P) {d : Dev} (f : Frame) (hd : P d) : P (d.testData f) := by
  unfold Dev.testData
  split
  · exact ite_keeps (fun _ => h.testOff _ hd) (fun _ => h.toInner.bump _ hd)
  · exact h.toInner.bump _ hd

theorem testStop (h : Outer P) {d : Dev} (f : Frame) (hd : P d) : P (d.testStop f) := by
  unfold Dev.testStop
  split
  · exact ite_keeps (fun _ => h.testOff _ (h.toInner.send _ _ _ hd)) (fun _ => h.toInner.bump _ hd)
  · exact h.toInner.bump _ hd

theorem listenExpiry (h : Outer P) {d : Dev} (hd : P d) : P d.listenExpiry :=
  ite_keeps (fun _ => h.toInner.enterState _ (h.toInner.stc _ rfl hd)) (fun _ => hd)

/-! #### The trackside line -/

theorem follow_queue (l : Lif) : l.follow.queue = l.queue := by
  unfold Lif.follow; split <;> first | rfl | (split <;> rfl)

theorem follow_mailbox (l : Lif) : l.follow.mailbox = l.mailbox := by
  unfold Lif.follow; split <;> first | rfl | (split <;> rfl)

/-- A queue whose entries keep their kinds, or that loses some, keeps its limits. -/
theorem queueOk_map {q : List TxEntry} {f : TxEntry → TxEntry} (hf : ∀ e, (f e).kind = e.kind) (hq : queueOk q) :
    queueOk (q.map f) := by
  refine ⟨by simpa using hq.1, ?_, ?_⟩
  · rw [List.countP_map]
    have : (fun (e : TxEntry) => e.kind == FrameKind.beacon) ∘ f = fun e => e.kind == FrameKind.beacon := by
      funext e; simp [hf]
    rw [this]; exact hq.2.1
  · rw [List.map_map]
    have : (fun (e : TxEntry) => e.kind.txClass) ∘ f = fun e => e.kind.txClass := by
      funext e; simp [hf]
    rw [this]; exact hq.2.2

theorem queueOk_filter {q : List TxEntry} (p : TxEntry → Bool) (hq : queueOk q) : queueOk (q.filter p) :=
  ⟨(List.length_filter_le _ _).trans hq.1, (List.Sublist.countP_le List.filter_sublist).trans hq.2.1,
    hq.2.2.sublist (List.filter_sublist.map _)⟩

theorem transmitStart (h : Outer P) {d : Dev} (hd : P d) : P d.transmitStart := by
  unfold Dev.transmitStart
  split
  · next e rest _ hq =>
    refine h.lif _ (fun hk => ?_) (fun x => x) hd
    rw [hq] at hk
    exact ⟨hk.1, by have h2 := hk.2.1; simp only [List.countP_cons] at h2 ⊢; exact h2, hk.2.2⟩
  · exact h.lif _ (fun x => x) (fun x => x) hd
  all_goals exact hd

theorem collision (h : Outer P) {d : Dev} (hd : P d) : P d.collision := by
  have hi := h.toInner
  unfold Dev.collision
  split
  · next e _ _ =>
    simp only
    have h0 := hi.bump .collisions hd
    generalize d.bump .collisions = d at h0 ⊢
    have h1 := h.lif { d.lif with
        tx := .backoff, lfsr := lfsrStep d.lif.lfsr
        backoffTimer := d.timerUs (lfsrSlots (lfsrStep d.lif.lfsr) * Config.slotUs), sending := []
        queue := if decide (3 ≤ e.attempts) then withoutSending d.lif.queue else collided d.lif.queue }
      (fun hq => by
        show queueOk (if _ then _ else _)
        split
        · exact queueOk_filter _ hq
        · exact queueOk_map (fun e => by split <;> rfl) hq) (fun x => x) h0
    refine ite_keeps (fun _ => ?_) (fun _ => h1)
    split
    · exact hi.intentDropped _ (hi.bump _ h1)
    · exact hi.bump _ h1
  · exact hd

theorem frameSent (h : Outer P) {d : Dev} (hd : P d) : P d.frameSent := by
  have hi := h.toInner
  unfold Dev.frameSent
  split
  · simp only
    have h1 := h.lif ({ (d.bump .framesSent).lif with tx := .idle, rx := .idle, sending := []
                                                      queue := withoutSending (d.bump .framesSent).lif.queue } : Lif).follow
      (fun hq => by rw [follow_queue]; exact queueOk_filter _ hq) (fun x => by rw [follow_mailbox]; exact x) (hi.bump .framesSent hd)
    split
    · exact hi.intentSent _ h1
    · exact h1
  · exact hd

theorem txBackoffExpiry (h : Outer P) {d : Dev} (hd : P d) : P d.txBackoffExpiry := by
  refine whileDue _ (fun d hd => ?_) hd
  split
  · exact h.lif _ (fun hq => by rw [follow_queue]; exact hq) (fun x => by rw [follow_mailbox]; exact x) hd
  all_goals exact hd

theorem beaconTimerExpiry (h : Outer P) {d : Dev} (hd : P d) : P d.beaconTimerExpiry :=
  whileDue _ (fun _ hd => h.toInner.send _ _ _ (h.lif _ (fun x => x) (fun x => x) hd)) hd

theorem lineQuietExpiry (h : Outer P) {d : Dev} (hd : P d) : P d.lineQuietExpiry :=
  whileDue _ (fun _ hd => h.toInner.raise _ (h.lif _ (fun x => x) (fun x => x) hd)) hd

theorem validHeard (h : Outer P) {d : Dev} (hd : P d) : P d.validHeard := by
  have h1 := h.lif { d.lif with quietTimer := d.timerMs d.tmp.plan.quietTime, quiet := false } (fun x => x) (fun x => x) hd
  exact ite_keeps (fun _ => h.toInner.quietCleared (h.toInner.causeEnded _ h1)) (fun _ => h1)

theorem abandonFrame (h : Outer P) {d : Dev} (hd : P d) : P d.abandonFrame :=
  h.toInner.bump _ (h.lif _ (fun x => x) (fun x => x) hd)

theorem placeFrame (h : Outer P) {d : Dev} (f : Frame) (hd : P d) : P (d.placeFrame f) := by
  unfold Dev.placeFrame
  refine ite_keeps (fun _ => hd) (fun _ => ite_keeps (fun hl => ?_) (fun _ => h.toInner.bump _ hd))
  refine h.lif _ (fun x => x) (fun _ => ?_) hd
  show (d.lif.mailbox ++ [f]).length ≤ _
  rw [List.length_append]
  exact hl

theorem checkFrame (h : Outer P) {d : Dev} (b : List Byte) (hd : P d) : P (d.checkFrame b) := by
  have hi := h.toInner
  unfold Dev.checkFrame
  refine ite_keeps (fun _ => hi.bump _ hd) (fun _ => ?_)
  split
  · exact hi.bump _ hd
  · exact ite_keeps (fun _ => hi.bump _ hd) (fun _ => h.placeFrame _ (h.validHeard (hi.bump _ hd)))

theorem frameReceive (h : Outer P) {d : Dev} (b : List Byte) (hd : P d) : P (d.frameReceive b) :=
  ite_keeps (fun _ => hd) (fun _ => ite_keeps (fun _ => h.abandonFrame hd)
    (fun _ => h.checkFrame _ (h.lif _ (fun x => x) (fun x => x) hd)))

theorem frameAbandoned (h : Outer P) {d : Dev} (hd : P d) : P d.frameAbandoned :=
  ite_keeps (fun _ => hd) (fun _ => h.abandonFrame hd)

theorem lineIdle (h : Outer P) {d : Dev} (hd : P d) : P d.lineIdle := by
  have h1 := h.lif { d.lif with awaitIdle := false } (fun x => x) (fun x => x) hd
  exact ite_keeps (fun _ => h.lif (d := d.setLif { d.lif with awaitIdle := false }) _ (fun x => x) (fun x => x) h1) (fun _ => h1)

theorem dispatch (h : Outer P) {d : Dev} (p : Frame → Bool) {take : Dev → Frame → Dev} (ht : ∀ d f, P d → P (take d f)) (hd : P d) :
    P (d.dispatch p take) := by
  unfold Dev.dispatch
  split
  · exact hd
  · next f rest hm =>
    refine ite_keeps (fun _ => ht _ _ (h.lif _ (fun x => x) (fun hl => ?_) hd)) (fun _ => hd)
    rw [hm] at hl
    exact (Nat.le_succ _).trans hl

/-! #### Inputs, start-up, the sample -/

theorem localStopOn (h : Outer P) {d : Dev} (hd : P d) : P d.localStopOn :=
  h.toInner.raise _ (h.toInner.bump _ (h.bdu _ rfl rfl (fun x => x) rfl rfl rfl rfl hd))

theorem localStopChange (h : Outer P) {d : Dev} (x : Bool) (hd : P d) : P (d.localStopChange x) := by
  unfold Dev.localStopChange
  refine ite_keeps (fun _ => hd) (fun _ => ?_)
  have h1 := h.inputs x d.bdu.inDriveReady d.bdu.inSupplyLow d.bdu.inClampsUp hd
  exact ite_keeps (fun _ => h1) (fun _ => ite_keeps (fun _ => h.localStopOn h1)
    (fun _ => h.toInner.causeEnded _ (h.bdu _ rfl rfl (fun x => x) rfl rfl rfl rfl h1)))

theorem driveSource (h : Outer P) {d : Dev} (hd : P d) : P d.driveSource := by
  have h1 := h.bdu { d.bdu with srcDriveNotReady := !d.bdu.inDriveReady } rfl rfl (fun x => x) rfl rfl rfl rfl hd
  exact ite_keeps (fun _ => h.toInner.bump _ h1) (fun _ => h1)

theorem driveReadyChange (h : Outer P) {d : Dev} (x : Bool) (hd : P d) : P (d.driveReadyChange x) := by
  unfold Dev.driveReadyChange
  refine ite_keeps (fun _ => hd) (fun _ => ?_)
  have h1 := h.inputs d.bdu.inLocalStop x d.bdu.inSupplyLow d.bdu.inClampsUp hd
  exact ite_keeps (fun _ => h.driveSource h1) (fun _ => h1)

theorem supplyLowOn (h : Outer P) {d : Dev} (hd : P d) : P d.supplyLowOn :=
  h.toInner.raise _ (h.setLatch _ hd)

theorem supplyChange (h : Outer P) {d : Dev} (x : Bool) (hd : P d) : P (d.supplyChange x) := by
  unfold Dev.supplyChange
  refine ite_keeps (fun _ => hd) (fun _ => ?_)
  have h1 := h.inputs d.bdu.inLocalStop d.bdu.inDriveReady x d.bdu.inClampsUp hd
  exact ite_keeps (fun _ => h.supplyLowOn h1) (fun _ => h1)

theorem clampSensor (h : Outer P) {d : Dev} (s : ClampSensor) (x : Bool) (hd : P d) : P (d.clampSensor s x) := by
  have hi := h.toInner
  unfold Dev.clampSensor
  split
  · refine ite_keeps (fun _ => hd) (fun _ => ?_)
    simp only
    refine ite_keeps (fun ha => ?_) (fun _ => ?_)
    · exact h.downQuiet x (by simpa using ha) hd
    · have h1 := h.bdu { d.bdu with inClampsDown := x } rfl rfl (fun x => x) rfl rfl rfl rfl hd
      exact hi.clampsDownChanged _ (hi.watchClamps (ite_keeps (fun _ => hi.zeroDemand h1) (fun _ => h1)))
  · refine ite_keeps (fun _ => hd) (fun _ => ?_)
    have h1 := h.inputs d.bdu.inLocalStop d.bdu.inDriveReady d.bdu.inSupplyLow x hd
    refine ite_keeps (fun _ => h1) (fun _ => ?_)
    exact hi.clampsUpChanged _ (hi.watchClamps (ite_keeps (fun _ => h1) (fun _ => hi.judgeClampsUp _ h1)))

theorem bduActivate (h : Outer P) {d : Dev} (hd : P d) : P d.bduActivate := by
  unfold Dev.bduActivate
  simp only
  have h1 := h.driveSource (h.bdu { d.bdu with active := true } rfl rfl (fun x => x) rfl rfl rfl rfl hd)
  generalize (({ d with bdu := { d.bdu with active := true } } : Dev).settle).driveSource = d at h1 ⊢
  have h2 := ite_keeps (c := d.bdu.inLocalStop = true) (fun _ => h.localStopOn h1) (fun _ => h1)
  exact ite_keeps (fun _ => h.supplyLowOn h2) (fun _ => h2)

theorem trainWatchExpiry (h : Outer P) {d : Dev} (hd : P d) : P d.trainWatchExpiry :=
  whileDue _ (fun _ hd => h.stopTrain hd) hd

theorem enterListen (h : Outer P) {d : Dev} (hd : P d) : P d.enterListen := by
  have hi := h.toInner
  unfold Dev.enterListen
  simp only
  have h1 := hi.enterState .listen (h.btl { d.btl with phase := .done, blockTimer := none } hd)
  generalize (({ d with btl := { d.btl with phase := .done, blockTimer := none } } : Dev).enterState .listen) = d at h1 ⊢
  have h2 := hi.stc { d.stc with listenTimer := d.timerMs d.tmp.plan.lostTime } rfl h1
  refine h.toInnerLoss.claimsAnchored (h.cleAll _ (Cle.ok_same rfl (.inl le_rfl)) ?_)
  have odo : ∀ d : Dev, P d → P d.odoActivate := fun d hd =>
    hi.stc _ rfl (h.toInnerLoss.startPosition (h.odoAll _ rfl hd))
  have sup : ∀ d : Dev, P d → P d.supActivate := fun d hd => h.sup _ (fun x => x) hd
  have dock : ∀ d : Dev, P d → P d.dockActivate := fun d hd =>
    ite_keeps (fun _ => hi.clampFault _ (hi.watchClamps (h.dkcAll _ hd))) (fun _ => hi.watchClamps (h.dkcAll _ hd))
  have line : ∀ d : Dev, P d → P d.lifActivate := fun d hd => h.lif _ (fun x => x) (fun x => x) hd
  exact dock _ (sup _ (odo _ (h.bduActivate (hi.reportHeld (line _ h2)))))

theorem failBoot (h : Outer P) {d : Dev} (r : BootReason) (x : Option BootDetail) (hd : P d) : P (d.failBoot r x) :=
  h.toInner.enterState _ (h.btl _ (h.tmp _ hd))

theorem lockMap (h : Outer P) {d : Dev} (hd : P d) : P d.lockMap :=
  h.toInner.raiseTimes _ _ (h.tmp _ hd)

theorem finishBoot (h : Outer P) {d : Dev} (hd : P d) : P d.finishBoot := by
  unfold Dev.finishBoot
  split
  · exact h.failBoot _ _ hd
  · exact h.enterListen (h.lockMap hd)

theorem takeBlock (h : Outer P) {d : Dev} (b : List Byte) (hd : P d) : P (d.takeBlock b).1 := by
  unfold Dev.takeBlock
  simp only
  split
  · split
    · exact hd
    · exact h.tmp _ hd
  · exact h.btl _ (h.tmp _ hd)
  · exact h.tmp _ hd

theorem blockTaken (h : Outer P) {d : Dev} (hd : P d) : P d.blockTaken := by
  have h1 := h.btl { d.btl with next := d.btl.next + 1, blockTimer := d.timerMs Config.blockMs } hd
  exact ite_keeps (fun _ => h.finishBoot h1) (fun _ => h1)

theorem bootBlock (h : Outer P) {d : Dev} (b : List Byte) (hd : P d) : P (d.bootBlock b) := by
  unfold Dev.bootBlock
  refine ite_keeps (fun _ => hd) (fun _ => ite_keeps (fun _ => h.failBoot _ _ hd) (fun _ => ?_))
  simp only
  split
  · exact h.failBoot _ _ (h.takeBlock b hd)
  · exact h.blockTaken (h.takeBlock b hd)

theorem blockTimeout (h : Outer P) {d : Dev} (hd : P d) : P d.blockTimeout :=
  ite_keeps (fun _ => h.failBoot _ _ hd) (fun _ => hd)

theorem odoSample (h : Outer P) {d : Dev} (hd : P d) : P d.odoSample := by
  have hi := h.toInner
  unfold Dev.odoSample
  simp only
  have h0 := h.odoAll { d.odo with
    sampleTimer := d.timerMs Config.sampleMs
    chA := { d.odo.chA with net := 0, seen := false }
    chB := { d.odo.chB with net := 0, seen := false } } rfl hd
  have stand : ∀ (d : Dev) (z : Bool), P d → P (d.standstillTest z) := fun d z hd => h.odoAll _ rfl hd
  have speed : ∀ (d : Dev) (x : Int), P d → P (d.speedTest x) := fun d x hd => h.odoAll _ rfl hd
  refine hi.judgeDue ?_
  split
  all_goals
    refine ite_keeps (fun _ => h.toInnerLoss.losePosition _ (h.toInnerLoss.windowSample _ _ (stand _ _ ?_)))
      (fun _ => h.toInnerLoss.windowSample _ _ (stand _ _ ?_))
  · exact speed _ _ (hi.slipTest _ (h.toInnerLoss.carrySample _ _ h0))
  · exact speed _ _ (hi.slipTest _ (h.toInnerLoss.carrySample _ _ h0))
  · exact hi.slipTest _ h0
  · exact hi.slipTest _ h0

theorem standstillChanged (h : Outer P) {d : Dev} (b : Bool) (hd : P d) : P (d.standstillChanged b) :=
  ite_keeps (fun _ => h.toInner.completeAbort (h.toInner.dockStandstill (h.toInner.claimsStandstill hd)))
    (fun _ => ite_keeps (fun _ => h.toInner.dockMotion hd) (fun _ => hd))

theorem sample (h : Outer P) {d : Dev} (hd : P d) : P d.sample :=
  ite_keeps (fun _ => h.standstillChanged _ (h.toInnerLoss.claimsSample _ (h.odoSample (h.toInner.unmarkRetry hd)))) (fun _ => hd)

theorem withChannel_dir (o : Odo) (ch : Channel) (c : TachChannel) : (o.withChannel ch c).pos.dir = o.pos.dir := by
  cases ch <;> rfl

theorem tach (h : Outer P) {d : Dev} (c : Channel) (p q : Bool) (hd : P d) : P (d.tach c p q) := by
  have hi := h.toInner
  have put := fun x : TachChannel => h.odoAll (d.odo.withChannel c x) (withChannel_dir d.odo c x) hd
  unfold Dev.tach
  refine ite_keeps (fun _ => put _) (fun _ => ?_)
  split
  · exact hd
  · simp only
    refine ite_keeps (fun _ => ?_) (fun _ => hi.bump _ (put _))
    have h1 := fun x : TachChannel => hi.raise .tachChannel (hi.bump (channelErrors c) (put x))
    exact ite_keeps (fun _ => h.toInnerLoss.loseWith _ (h1 _)) (fun _ => h1 _)
  · exact put _

theorem padLinesChange (h : Outer P) {d : Dev} (x : Bool) (l : BitVec 7) (hd : P d) : P (d.padLinesChange x l) :=
  ite_keeps (fun _ => h.toInnerLoss.padEdge _ (h.odoAll _ rfl hd)) (fun _ => h.odoAll _ rfl hd)

/-! #### The maintenance port -/

theorem respond (h : Outer P) {d : Dev} (r : PortResult) (b : List Byte) (hd : P d) : P (d.respond r b) := h.mnp _ hd

theorem badCommand (h : Outer P) {d : Dev} (hd : P d) : P d.badCommand := h.mnp _ (h.mnp _ hd)

theorem readCounters (h : Outer P) {d : Dev} (hd : P d) : P d.readCounters := h.mnp _ (h.mnp _ hd)

theorem readCountersComplete (h : Outer P) {d : Dev} (hd : P d) : P d.readCountersComplete := by
  unfold Dev.readCountersComplete
  split
  · next vs _ => exact h.mnp (d := { d with counters := d.counters.zipWith reduced vs }) { d.mnp with reported := none } (h.counters _ hd)
  · exact hd

theorem setWindow (h : Outer P) {d : Dev} (t : Byte) (i : BitVec 16) (a : Byte) (hd : P d) : P (d.setWindow t i a) := by
  unfold Dev.setWindow
  split
  · exact h.mnp _ (h.mnp _ hd)
  · exact h.badCommand hd

theorem readWindow (h : Outer P) {d : Dev} (hd : P d) : P d.readWindow := by
  unfold Dev.readWindow
  simp only
  split
  · exact ite_keeps (fun _ => h.mnp _ (h.respond _ _ hd)) (fun _ => h.respond _ _ hd)
  · exact h.respond _ _ hd

theorem writeBoot (h : Outer P) {d : Dev} (n : BitVec 16) (b : List Byte) (hd : P d) : P (d.writeBoot n b) :=
  ite_keeps (fun _ => h.respond _ _ hd) (fun _ => ite_keeps (fun _ => h.respond _ _ hd)
    (fun _ => ite_keeps (fun _ => h.respond _ _ hd) (fun _ => h.respond _ _ (h.mnp _ hd))))

theorem endWrite (h : Outer P) {d : Dev} (x : WriteEnd) (hd : P d) : P (d.endWrite x) :=
  ite_keeps (fun _ => h.mnp _ hd) (fun _ => hd)

/-- Every command that answers a next state keeps `P`. -/
theorem exec (h : Outer P) (i : Instr) (s t : State) (hr : Sys2Proof.Machine.exec i s = .next t) (hs : P s.dev) : P t.dev := by
  have hi := h.toInner
  have key : ∀ d : Dev, P d → s.becomes d = .next t → P t.dev := by
    intro d hd he
    cases he
    exact hd
  cases i <;> refine key _ ?_ hr
  all_goals first
    | exact h.reset _ _
    | exact h.bootBlock _ hs
    | exact h.blockTimeout hs
    | exact h.tach _ _ _ hs
    | exact h.sample hs
    | exact h.toInnerLoss.markerEdge _ hs
    | exact h.padLinesChange _ _ hs
    | exact h.frameReceive _ hs
    | exact h.frameAbandoned hs
    | exact h.lineIdle hs
    | exact h.dispatch _ (fun _ f hd => h.takeBeacon f hd) hs
    | exact h.dispatch _ (fun _ f hd => h.takeTaken f hd) hs
    | exact h.dispatch _ (fun _ f hd => h.takeRelease f hd) hs
    | exact h.dispatch _ (fun _ f hd => h.takeIntent f hd) hs
    | exact h.dispatch _ (fun _ f hd => h.takeObject f hd) hs
    | exact h.dispatch _ (fun _ f hd => h.takePointsState f hd) hs
    | exact h.dispatch _ (fun _ f hd => h.takePeerReport f hd) hs
    | exact h.dispatch _ (fun _ f hd => h.takeMoveOrder f hd) hs
    | exact h.dispatch _ (fun _ f hd => h.takeLocate f hd) hs
    | exact h.dispatch _ (fun _ f hd => h.fromConsole f (fun _ hd => h.consoleHalt hd) hd) hs
    | exact h.dispatch _ (fun _ f hd => h.fromConsole f (fun _ hd => h.resume _ _ hd) hd) hs
    | exact h.dispatch _ (fun _ f hd => h.fromConsole f (fun _ hd => h.abort _ _ hd) hd) hs
    | exact h.dispatch _ (fun _ f hd => h.fromConsole f (fun _ hd => h.freeStation _ hd) hd) hs
    | exact h.dispatch _ (fun _ f hd => h.fromConsole f (fun _ hd => h.clearFaults hd) hd) hs
    | exact h.dispatch _ (fun _ f hd => h.fromConsole f (fun _ hd => h.testStart _ hd) hd) hs
    | exact h.dispatch _ (fun _ f hd => h.fromConsole f (fun _ hd => h.testData _ hd) hd) hs
    | exact h.dispatch _ (fun _ f hd => h.fromConsole f (fun _ hd => h.testStop _ hd) hd) hs
    | exact h.peerStale _ hs
    | exact h.peerLost _ hs
    | exact h.peerIntentExpiry _ hs
    | exact h.transmitStart hs
    | exact h.collision hs
    | exact h.frameSent hs
    | exact h.txBackoffExpiry hs
    | exact h.beaconTimerExpiry hs
    | exact h.lineQuietExpiry hs
    | exact hi.windowExpiry hs
    | exact hi.backoffExpiry hs
    | exact hi.pointsTimeout _ hs
    | exact hi.rerequest _ hs
    | exact whileDue _ (fun _ hd => h.supervise hd) hs
    | exact h.trainWatchExpiry hs
    | exact h.localStopChange _ hs
    | exact h.driveReadyChange _ hs
    | exact h.supplyChange _ hs
    | exact h.clampSensor _ _ hs
    | exact whileDue _ (fun _ hd => hi.clampTimeout hd) hs
    | exact whileDue _ (fun _ hd => hi.correctionTimeout hd) hs
    | exact whileDue _ (fun _ hd => hi.clampWatchTimeout hd) hs
    | exact h.listenExpiry hs
    | exact h.respond _ _ hs
    | exact h.readCounters hs
    | exact h.readCountersComplete hs
    | exact h.setWindow _ _ _ hs
    | exact h.readWindow hs
    | exact h.writeBoot _ _ hs
    | exact h.endWrite _ hs
    | exact whileDue _ (fun _ hd => h.endWrite _ hd) hs
    | exact h.badCommand hs

/-- Every step that answers a next state keeps `P`, the passage of time too. -/
theorem step (h : Outer P) (s t : State) (hr : Sys2Proof.Machine.step s = .next t) (hs : P s.dev) : P t.dev := by
  unfold Sys2Proof.Machine.step at hr
  split at hr
  · cases hr; exact h.now _ hs
  · exact h.exec _ _ _ hr hs

end Outer

end Sys2Proof.Machine
end

