-- ==== Sys2Proof/Tests/Slice0.lean ====
section
/-! SUPPORT. Tests of the model: the operand checks, worked examples of the spec, and for each statement of the certificates with
hypotheses a state and operands that meet them together, each with an effect or two that the rules give there. -/

namespace Sys2Proof.Tests

/- The tests one after another: at once, the kernel's threads take more memory than the check allows. -/
set_option Elab.async false

open Sys2Proof Sys2Proof.Machine

/-! ### Small states -/

/-- The part after a command; the reset part when the command answers no next state. -/
def after (c : Instr) (d : Dev) : Dev :=
  match exec c { dev := d, pending := [] } with
  | .next s => s.dev
  | .fault _ | .refused _ => Dev.reset

/-- A plain section 20 m long. -/
def plain (n : Nat) (a b : Option (Nat × TrackEnd)) (markers : List Marker) : SectionRec :=
  { number := n, kind := .plain, length := 20000, diverge := 0, nbrA := a, nbrB := b, nbrC := none, speedLimit := 1000
    grade := 0, junction := 0, markers := markers }

/-- Three sections in a line with buffers at both ends, pad 7 in the third, and a points section 4 of junction 9. -/
def lineMap : Tmp :=
  { Tmp.reset with
    phase := .locked
    sections := [plain 1 none (some (2, .a)) [], plain 2 (some (1, .b)) (some (3, .a)) [⟨10000, .plain⟩],
      plain 3 (some (2, .b)) none [], { plain 4 none none [] with kind := .points, diverge := 20000, junction := 9 }]
    pads := [⟨7, 3, .plain, 15000⟩]
    plan := ⟨250, 150, 2000, 1500, 500, 10000, 1000, 200, 400, 700, 1000, 5000⟩
    carriage := ⟨5, 4000, 500, 500, 10, 5, 1, 3, 200, 300, 3000, 100, 25, 2500, 30, 100, 20000, 2000⟩ }

/-- The part in STANDING with every block active, the position UNKNOWN, and every timer at rest. -/
def standing : Dev :=
  { Dev.reset with
    tmp := lineMap
    odo := { Odo.reset with active := true, standstill := true }
    cle := { Cle.reset with active := true }
    bdu := { Bdu.reset with active := true, traction := true, serviceBrake := false, inDriveReady := true, inClampsUp := true }
    dkc := { Dkc.reset with active := true }
    stc := { Stc.reset with state := .standing }
    lif := { Lif.reset with active := true }
    now := 5000000 }

/-- A position held in the middle of section 2. -/
def placed (d : Dev) : Dev :=
  { d with odo := { d.odo with pos := { PositionRec.reset with
      validity := .known, sec := 2, offset := 10000000, uAnchor := 1000, unc := 1000 } } }

/-- A HELD entry of a section. -/
def heldClaim (n : Nat) (idx : Option Nat) : Claim :=
  { Claim.fresh n idx none with state := .held .occupancy ⟨true, 0, 0, 5⟩ }

/-- The claim table given. -/
def withTable (d : Dev) (l : List Claim) : Dev :=
  { d with cle := { d.cle with table := l } }

/-- A validated route from section 2 to the pad. -/
def route23 : Route :=
  { entries := [⟨2, .towardB, .plain, .a, .b, 0, 20000000⟩, ⟨3, .towardB, .plain, .a, .b, 20000000, 40000000⟩]
    padCoord := 35000000, padIdx := 2, total := 40000000 }

/-- An order along it from console 20. -/
def order23 : Order :=
  { id := 77, console := 20, route := route23, pad := 7, speedClass := 1, vOrder := 400, priority := 1, onAuthority := false
    departing := false }

/-- The carriage under that order in a state, its footprint HELD. -/
def ordered (st : StationState) : Dev :=
  let d := placed standing
  { d with
    odo := { d.odo with pos := { d.odo.pos with idx := some 1 } }
    cle := { d.cle with table := [heldClaim 2 (some 1)], view := some ⟨route23, 7, 1⟩ }
    sup := { d.sup with vOrder := some 400 }
    dkc := { d.dkc with dest := some 7 }
    stc := { d.stc with state := st, order := some order23 } }

/-- The same, moving. -/
def moving (st : StationState) : Dev :=
  let d := ordered st
  { d with odo := { d.odo with standstill := false } }

/-- A record of a peer. -/
def peerOf (n : Nat) (k : PeerKind) : PeerRec :=
  PeerRec.fresh n k 0

/-- A frame of a kind from a station, to this one. -/
def frameOf (k : FrameKind) (src : Nat) (p : List Byte) : Frame :=
  { dest := 5, src := src, kind := k, payload := p, check := 0 }

/-- The part with a frame at the mailbox's head, the sender's record given. -/
def mailed (d : Dev) (f : Frame) (peers : List PeerRec) : Dev :=
  { d with lif := { d.lif with mailbox := [f] }, peers := peers }

/-- A console's frame. -/
def fromConsole (d : Dev) (k : FrameKind) (p : List Byte) : Dev :=
  mailed d (frameOf k 20 p) [peerOf 20 .console]

/-! ### The operand checks -/

theorem test_wellFormed_refuses :
    (Instr.bootBlockRead (List.replicate 31 0)).wellFormed = false ∧ (Instr.bootBlockRead (List.replicate 32 0)).wellFormed = true
    ∧ (Instr.writeBoot 0 (List.replicate 33 0)).wellFormed = false ∧ (Instr.bootWriteReadback []).wellFormed = false
    ∧ (Instr.frameReceive [1, 2, 3, 0, 5]).wellFormed = false ∧ (Instr.frameReceive [1, 2, 3, 61, 5, 6]).wellFormed = false
    ∧ (Instr.frameReceive [1, 2, 3, 1, 5, 6]).wellFormed = false ∧ (Instr.frameReceive [1, 2, 3, 1, 9, 5, 6]).wellFormed = true := by
  decide +kernel

theorem test_wellFormed_refuses_numbers :
    (Instr.peerStale 0).wellFormed = false ∧ (Instr.peerStale 33).wellFormed = false ∧ (Instr.peerStale 32).wellFormed = true
    ∧ (Instr.peerLost 0).wellFormed = false ∧ (Instr.peerLost 33).wellFormed = false
    ∧ (Instr.peerIntentExpiry 0).wellFormed = false ∧ (Instr.peerIntentExpiry 33).wellFormed = false
    ∧ (Instr.pointsTimerExpiry 0).wellFormed = false ∧ (Instr.pointsTimerExpiry 241).wellFormed = false
    ∧ (Instr.rerequestTimerExpiry 0).wellFormed = false ∧ (Instr.rerequestTimerExpiry 241).wellFormed = false
    ∧ (Instr.rerequestTimerExpiry 240).wellFormed = true := by
  decide +kernel

/-! ### Worked examples of the spec -/

/-- R165's check value: the CRC of the characters 1 to 9. -/
theorem test_crc16_check : crc16 [0x31, 0x32, 0x33, 0x34, 0x35, 0x36, 0x37, 0x38, 0x39] = 0x29B1#16 := by
  decide +kernel

/-- R105's example: v 700, a_eff 180 and Tr 300 ms give Rd 210 and Sd 1,572. -/
theorem test_stopping_distance : ceilDiv (700 * 300) 1000 = 210 ∧ ceilDiv (700 * 700) (2 * 180) + 210 = 1572 := by
  decide +kernel

/-- R21's example: pitches of 500 µm, 20 and 17 counts and 100 ‰ make a slip sample. -/
theorem test_slip_example : ({ standing with tmp := lineMap } : Dev).isSlip 10000 8500 1500 = true := by
  decide +kernel

/-- R91 and R75: against the route's sense, 8 m short of the upper end of the section behind on the route, that section's entry end lies
within a stopping distance of 8 m and beyond one of 7,998 mm. -/
theorem test_entry_end_against_the_route :
    let e := ordered .docking
    let d := { e with
      odo := { e.odo with pos := { e.odo.pos with sec := 3, offset := 30000000 - 20000000, dir := .towardA, idx := some 2 } } }
    let at' (n : Nat) : Dev := { d with sup := { d.sup with sd := n } }
    d.withRoute = false ∧ d.frontCoord route23 = 27999000 ∧ (at' 8000).withinStopping (heldClaim 2 (some 1)) = true
      ∧ (at' 7998).withinStopping (heldClaim 2 (some 1)) = false ∧ (at' 7998).beyondStopping (heldClaim 2 (some 1)) = true := by
  decide +kernel

/-- No row of the table has bits. -/
theorem test_no_word_spells_a_command : decodeTableWord 8 0x10 = none ∧ decodeTableWord 16 0 = none := by
  decide +kernel

/-! ### Reset and start-up -/

theorem test_step_takes_the_front : ({ dev := standing, pending := [.readIdent, .lineIdle] } : State).pending
    = Instr.readIdent :: [.lineIdle] := rfl

/-- With no command waiting the timer that has run out by the next microsecond is queued, and a later one is not (R1). -/
theorem test_step_passes_time :
    let d : Dev := { standing with odo := { standing.odo with sampleTimer := some 5000001 }, sup := { standing.sup with evalTimer := some 5000002 } };
    (match step { dev := d, pending := [] } with
      | .next s => s.pending == [.odometrySample] && s.dev.now == 5000001
      | .fault _ | .refused _ => false) = true := by
  decide +kernel

/-- A boot loader at a block. -/
def booting (next : Nat) : Dev :=
  { Dev.afterReset false with btl := { Btl.reset with phase := .reading, next := next, blockTimer := some 10000 } }

/-- A block of 30 data bytes with its check. -/
def block (data : List Byte) : List Byte :=
  data ++ beBytes 2 (crc16 data).toNat

/-- A carriage block with a station number, the rest at the defaults. -/
def carriageBlock (n : Nat) : List Byte :=
  block (BitVec.ofNat 8 n :: List.replicate 29 0xFF)

/-- A plan block of counts with its parameters at the defaults. -/
def planBlock (secs pads : Nat) (markers : Nat) : List Byte :=
  block (BitVec.ofNat 8 secs :: BitVec.ofNat 8 pads :: (beBytes 2 markers ++ List.replicate 26 0xFF))

theorem test_boot_takes_blocks :
    (let d := booting 0; let b := carriageBlock 32;
      d.btl.phase = .reading ∧ crc16 (b.take 30) = BitVec.ofNat 16 (beAt b 30 2) ∧ d.btl.next = 0 ∧ byteAt (b.take 30) 0 = 32
        ∧ d.btl.total ≠ 1 ∧ (after (.bootBlockRead b) d).btl.next = 1)
    ∧ (let d := booting 1; let b := planBlock 240 63 1024;
      crc16 (b.take 30) = BitVec.ofNat 16 (beAt b 30 2) ∧ d.btl.next = 1 ∧ byteAt (b.take 30) 0 = 240 ∧ byteAt (b.take 30) 1 = 63
        ∧ beAt (b.take 30) 2 2 = 1024 ∧ (after (.bootBlockRead b) d).btl.total = 304)
    ∧ (let d := { booting 2 with btl := { (booting 2).btl with total := 4 } }; let b := block (List.replicate 30 7);
      crc16 (b.take 30) = BitVec.ofNat 16 (beAt b 30 2) ∧ 2 ≤ d.btl.next ∧ d.btl.next + 1 ≠ d.btl.total
        ∧ (after (.bootBlockRead b) d).btl.blockTimer = some 10000) := by
  decide +kernel

theorem test_boot_read_fails :
    (let d := booting 0; let b := List.replicate 32 0;
      d.btl.phase = .reading ∧ crc16 (b.take 30) ≠ BitVec.ofNat 16 (beAt b 30 2)
        ∧ (after (.bootBlockRead b) d).btl.reason = .blockCheck)
    ∧ (let d := booting 0; let b := carriageBlock 33;
      crc16 (b.take 30) = BitVec.ofNat 16 (beAt b 30 2) ∧ d.btl.next = 0 ∧ 32 < byteAt (b.take 30) 0
        ∧ (after (.bootBlockRead b) d).stc.state = .bootFailed)
    ∧ (let d := booting 1; let b := planBlock 1 64 4;
      crc16 (b.take 30) = BitVec.ofNat 16 (beAt b 30 2) ∧ d.btl.next = 1 ∧ 63 < byteAt (b.take 30) 1
        ∧ (after (.bootBlockRead b) d).btl.detail = some (.check .counts 0) ∧ (after (.bootBlockRead b) d).btl.total = 16)
    ∧ (let d := { booting 3 with now := 10000 };
      d.due d.btl.blockTimer = true ∧ (after .blockTimerExpiry d).btl.detail = some (.block 3)
        ∧ after .blockTimerExpiry (booting 3) = booting 3) := by
  decide +kernel

/-- An image of one plain section between buffers, its length from the bytes given, waiting for its last block. -/
def lastBlock : Dev :=
  { booting 2 with
    tmp := { (booting 2).tmp with
      carriageData := (carriageBlock 5).take 30, planData := (planBlock 1 0 0).take 30 }
    btl := { (booting 2).btl with total := 3 } }

/-- The record of section 1: PLAIN, a length in mm, buffers, limit 1,000 mm/s, level, no marker. -/
def sectionBlock (len : Nat) : List Byte :=
  block ([1, 1] ++ beBytes 3 len ++ List.replicate 9 0 ++ beBytes 2 1000 ++ List.replicate 14 0)

theorem test_last_block_locks :
    (let d := lastBlock; let b := sectionBlock 20000;
      d.btl.phase = .reading ∧ crc16 (b.take 30) = BitVec.ofNat 16 (beAt b 30 2) ∧ 2 ≤ d.btl.next ∧ d.btl.next + 1 = d.btl.total
        ∧ (readImage d.tmp.planData (d.tmp.recordData ++ b.take 30)).check (byteAt d.tmp.carriageData 0) = none
        ∧ (after (.bootBlockRead b) d).stc.state = .listen ∧ (after (.bootBlockRead b) d).odo.active = true)
    ∧ (let d := lastBlock; let b := sectionBlock 999;
      crc16 (b.take 30) = BitVec.ofNat 16 (beAt b 30 2)
        ∧ (readImage d.tmp.planData (d.tmp.recordData ++ b.take 30)).check (byteAt d.tmp.carriageData 0) = some (.sectionFields, 1)
        ∧ (after (.bootBlockRead b) d).btl.detail = some (.check .sectionFields 1)) := by
  decide +kernel

/-- The plan block of an empty map with a beacon period out of its range: the last block. -/
def emptyPlan : List Byte :=
  block ([0, 0, 0, 0, 0, 1] ++ List.replicate 24 0xFF)

theorem test_empty_map_locks :
    let d := { booting 1 with tmp := { (booting 1).tmp with carriageData := (carriageBlock 5).take 30 } }; let p := emptyPlan.take 30;
    d.btl.phase = .reading ∧ crc16 p = BitVec.ofNat 16 (beAt emptyPlan 30 2) ∧ d.btl.next = 1 ∧ byteAt p 0 = 0 ∧ byteAt p 1 = 0
      ∧ beAt p 2 2 = 0 ∧ d.faultActive .configClamped = false
      ∧ (after (.bootBlockRead emptyPlan) d).stc.state = .listen ∧ (after (.bootBlockRead emptyPlan) d).tmp.plan.beaconPeriod = 100
      ∧ (after (.bootBlockRead emptyPlan) d).faultActive .configClamped = true := by
  decide +kernel

/-- The part before its entry into LISTEN, the clamps down at a pad's code. -/
def entering (lines : BitVec 7) (faults : List FaultEntry) : Dev :=
  { Dev.reset with
    tmp := lineMap
    odo := { Odo.reset with padPresence := true, padLines := lines }
    bdu := { Bdu.reset with inClampsDown := true, inDriveReady := true }
    faults := faults }

theorem test_listen_begins :
    (let d := entering 0x47#7 [];
      d.tmp.carriage.padTol ≤ 10 ∧ findPad d.tmp.pads (d.odo.padLines.toNat % 64) = some ⟨7, 3, .plain, 15000⟩
        ∧ (footprintOf d.tmp.sections [] { sec := 3, leg := .plain, offset := 15000000, dir := .towardB, idx := none }
          (d.tmp.carriage.length * 500 + d.tmp.carriage.padTol * 1000)).sections = [3]
        ∧ d.enterListen.stc.parkedPad = some 7 ∧ d.enterListen.odo.pos.validity = .known ∧ d.enterListen.cle.heldSections = [3]
        ∧ d.enterListen.bdu.serviceBrake = false ∧ d.enterListen.dkc.sub = .clamped ∧ d.enterListen.lif.lfsr = 5)
    ∧ (let y : FaultEntry := ⟨.configClamped, 2, 0, 0, false, false⟩; let d := entering 0x07#7 [y];
      d.faults.length ≤ 1 ∧ y.reported = false ∧ d.enterListen.odo.pos.validity = .unknown
        ∧ d.enterListen.faults.map (·.reported) = [true, true]
        ∧ d.enterListen.lif.queue.map (fun x => x.payload.take 4) = [[1, 1, 1, 2], [1, 4, 1, 0]])
    ∧ (let e := entering 0x47#7 []; let d := { e with bdu := { e.bdu with inClampsDown := false, inLocalStop := true, inSupplyLow := true } };
      d.enterListen.stc.parkedPad = none ∧ d.enterListen.bdu.latchSupplyLow = true ∧ d.enterListen.stc.haltHold = true) := by
  decide +kernel

theorem test_listen_ends :
    (let d := { standing with stc := { standing.stc with state := .listen, listenTimer := some 1 } };
      d.stc.state = .listen ∧ d.due d.stc.listenTimer = true ∧ (after .listenTimerExpiry d).stc.state = .noPosition)
    ∧ (let d := placed { standing with stc := { standing.stc with state := .listen, listenTimer := some 1 } };
      (after .listenTimerExpiry d).stc.state = .standing) := by
  decide +kernel

/-! ### Sensors -/

theorem test_tach_counts :
    (let d := standing; let c := d.odo.channel .a;
      ((true = c.p) ≠ (false = c.q)) ∧ d.odo.active = true
        ∧ (after (.tachTransition .a true false) d).odo.chA.net = 1 ∧ (after (.tachTransition .a false true) d).odo.chA.net = -1)
    ∧ (let d := { standing with odo := Odo.reset };
      d.odo.active = false ∧ (after (.tachTransition .b true false) d).odo.chB = { TachChannel.reset with p := true }) := by
  decide +kernel

/-- A channel with seven errors, the first at a time in ms. -/
def erring (first : Nat) (failed : Bool) : Dev :=
  { standing with odo := { standing.odo with chA := { TachChannel.reset with
      errTimes := first :: List.replicate 6 4500, failed := failed } } }

theorem test_quadrature_errors :
    (let d := erring 3999 false; let t := ((d.odo.channel .a).errTimes ++ [d.now / 1000]).drop 0;
      d.odo.active = true ∧ t.length = 8 ∧ ¬ t.getLastD 0 - t.headD 0 ≤ 1000
        ∧ (after (.tachTransition .a true true) d).odo.chA.failed = false
        ∧ ((after (.tachTransition .a true true) d).counter .errorsA).toNat = 1)
    ∧ (let d := erring 4000 false; let t := ((d.odo.channel .a).errTimes ++ [d.now / 1000]).drop 0;
      t.length = 8 ∧ t.getLastD 0 - t.headD 0 ≤ 1000 ∧ (d.odo.channel .a).failed = false ∧ (d.odo.channel .b).failed = false
        ∧ (after (.tachTransition .a true true) d).odo.chA.failed = true) := by
  decide +kernel

theorem test_both_channels_fail :
    let e := placed (erring 4000 false)
    let d := { e with odo := { e.odo with chB := { e.odo.chB with failed := true } } }
    d.odo.active = true ∧ (d.odo.channel .a).failed = false ∧ (d.odo.channel (otherChannel .a)).failed = true
      ∧ d.odo.pos.validity ≠ .unknown ∧ (after (.tachTransition .a true true) d).faultActive .tachBoth = true
      ∧ (after (.tachTransition .a true true) d).odo.pos.validity = .unknown := by
  decide +kernel

/-- The part at a sample with counts on each channel. -/
def sampling (d : Dev) (a b : Int) (run : Nat) : Dev :=
  { d with odo := { d.odo with
      sampleTimer := some 1, zeroRun := run, standstill := false
      chA := { TachChannel.reset with net := a, seen := a != 0 }, chB := { TachChannel.reset with net := b, seen := b != 0 } } }

theorem test_sample :
    (let d := sampling (placed standing) 20 17 0;
      d.odo.active = true ∧ d.due d.odo.sampleTimer = true ∧ (after .odometrySample d).odo.history.getLast? = some 9250
        ∧ (after .odometrySample d).odo.pos.offset = 10009250)
    ∧ (let d := sampling standing 0 0 49;
      (d.odo.chA.seen = false) ∧ (after .odometrySample d).odo.standstill = true)
    ∧ (let d := sampling standing 0 0 48;
      (after .odometrySample d).odo.standstill = false) := by
  decide +kernel

/-- The carriage in section 2 with a slip of two channels at a sample, the slip run given. -/
def slipping (run : Nat) : Dev :=
  let d := sampling (placed standing) 20 17 0
  { d with odo := { d.odo with slipRun := run } }

theorem test_sample_moves_the_record :
    (let d := slipping 3; let r := plain 2 (some (1, .b)) (some (3, .a)) [⟨10000, .plain⟩];
      d.odo.pos.validity ≠ .unknown ∧ d.odo.window = none ∧ d.odo.pos.pendingLoss = false
        ∧ findSection d.tmp.sections d.odo.pos.sec = some r ∧ d.advance = some (9250, 1500)
        ∧ (d.carry d.odo.pos.point 9250).stop = .reached ∧ 1000 + (9250 * 10 + 999) / 1000 + (0 + 1500 + 1) / 2 = 1843
        ∧ (after .odometrySample d).odo.pos.unc = 1843 ∧ (after .odometrySample d).odo.pos.travelled = 9250
        ∧ (after .odometrySample d).odo.slipRun = 4)
    ∧ (let d := slipping 4; (after .odometrySample d).faultActive .slip = true ∧ (after .odometrySample d).odo.slipRun = 0)
    ∧ (let d := slipping 0; let e := { d with odo := { d.odo with pos := { d.odo.pos with sec := 1, offset := 0, dir := .towardA } } };
      (e.carry e.odo.pos.point 9250).stop ≠ .reached ∧ (after .odometrySample e).odo.pos.validity = .unknown)
    ∧ (let d := slipping 0; let e := { d with odo := { d.odo with pos := { d.odo.pos with uAnchor := 10000000 - 843 } } };
      10000000 ≤ 10000000 - 843 + (9250 * 10 + 999) / 1000 + (0 + 1500 + 1) / 2
        ∧ (after .odometrySample e).faultActive .positionLost = true) := by
  decide +kernel

/-- The carriage moving under its order with the horizon given and a release clearance of 2 m. -/
def claimsAhead (d : Dev) (h : Nat) : Dev :=
  { d with odo := { d.odo with standstill := false }, cle := { d.cle with horizon := h }, lif := { d.lif with queue := [] } }

/-- R62: the section under the carriage joins HELD with TAKEN. -/
theorem test_sample_claims :
    (let d := withTable (placed standing) []; let e := d.claimsSample none;
      d.cle.ok ∧ d.cle.active = true ∧ d.odo.pos.validity ≠ .unknown ∧ d.footprint.sections = [2] ∧ d.lif.active = true
        ∧ e.cle.table.map (fun c => (c.sec, c.state)) = [(2, .held .occupancy ⟨true, 0, 0, 5⟩)] ∧ e.lif.queue.map (·.kind) = [.taken]) := by
  decide +kernel

/-- R62 and R82: points under the carriage that were WANTED for a leg become HELD and REQUESTED. -/
theorem test_sample_claims_points :
    let p := placed standing
    let d := withTable { p with odo := { p.odo with pos := { p.odo.pos with sec := 4, leg := .diverge } } }
      [{ Claim.fresh 4 (some 2) (some .diverge) with state := .wanted false }]
    let e := d.claimsSample none
    d.cle.ok ∧ d.cle.active = true ∧ d.footprint.sections = [4] ∧ d.blocked 4 = none ∧ d.isPoints 4 = true ∧ d.lif.active = true
      ∧ (e.cle.entry 4).map (fun x => (x.isHeld, x.points, x.pointsTimer, x.rerequestTimer))
        = some (true, .requested, some 10000000, some 5250000)
      ∧ e.lif.queue.map (·.kind) = [.taken, .pointsRequest] := by
  decide +kernel

/-- R65: the next route section joins when its entry end, 8 m ahead of the front extent, lies within the horizon, and R67's retry. -/
theorem test_sample_horizon :
    (let d := claimsAhead (ordered .running) 8000; let e := d.claimsSample none;
      d.cle.ok ∧ d.cle.view = some ⟨route23, 7, 1⟩ ∧ d.footprint.sections.filter (fun n => !d.cle.holds n) = [] ∧ d.claimingStopped = false
        ∧ d.cle.front = none ∧ d.blocked 3 = none ∧ d.frontCoord route23 = 12001000 ∧ d.lif.quiet = false
        ∧ (e.cle.entry 3).map (·.idx) = some (some 2) ∧ e.lif.queue.map (·.kind) = [.intent]
        ∧ ((claimsAhead (ordered .running) 7998).claimsSample none).cle.entry 3 = none)
    ∧ (let d := withTable (claimsAhead (ordered .running) 8000) [heldClaim 2 (some 1), { Claim.fresh 3 (some 2) none with state := .wanted false }];
      d.cle.ok ∧ d.cle.front = some (Claim.fresh 3 (some 2) none)
        ∧ ((d.claimsSample (some 3)).cle.entry 3).map (·.state) = some (.contending d.currentTicket 0 none)) := by
  decide +kernel

/-- R78: the section 8 m behind the rear extent is released, and one nearer than the clearance is not. -/
theorem test_sample_releases :
    (let d := withTable (claimsAhead (placed standing) 0) [heldClaim 1 none, heldClaim 2 none]; let e := d.claimsSample none;
      d.cle.ok ∧ d.clearBehind (heldClaim 1 none) = true ∧ e.cle.table = [heldClaim 2 none] ∧ e.lif.queue.map (·.payload) = [[1, 1]]
        ∧ ({ d with tmp := { d.tmp with plan := { d.tmp.plan with clearance := 8000 } } } : Dev).clearBehind (heldClaim 1 none) = false) := by
  decide +kernel

/-- R62: a peer on the section makes OCCUPANCY-CONFLICT active, and the section is HELD all the same. -/
theorem test_sample_conflict :
    let d := { withTable (claimsAhead (placed standing) 0) [] with peers := [{ peerOf 8 .carriage with held := [2] }] };
    d.cle.ok ∧ d.blocked 2 = some (8, .held) ∧ (d.claimsSample none).faultActive .occupancyConflict = true
      ∧ (d.claimsSample none).cle.holds 2 = true := by
  decide +kernel

/-- R79 and R80: with no order, and with an ABORT pending, the sections off the footprint are released at standstill; at the end of an order in
motion the HELD ones stay, with no route index. -/
theorem test_standstill_releases :
    (let d := withTable (placed standing) [heldClaim 2 none, heldClaim 3 none];
      d.cle.ok ∧ d.cle.view = none ∧ d.cle.gathering = none ∧ d.lif.hasRoom ∧ d.dkc.sub = .idle ∧ d.stc.abortPending = false
        ∧ d.odo.standstill = true ∧ d.claimsStandstill.cle.table = [heldClaim 2 none]
        ∧ d.claimsStandstill.lif.queue.map (·.payload) = [[1, 3]])
    ∧ (let e := withTable (ordered .running) [heldClaim 2 (some 1), heldClaim 3 (some 2)]; let d := { e with cle := { e.cle with abortPending := true } };
      d.cle.ok ∧ d.cle.view.isSome = true ∧ d.claimsStandstill.cle.table = [heldClaim 2 (some 1)] ∧ d.claimsStandstill.cle.abortPending = false
        ∧ e.claimsStandstill.cle.table = e.cle.table)
    ∧ (let d := withTable (moving .running) [heldClaim 2 (some 1), heldClaim 3 (some 2)];
      d.cle.ok ∧ d.odo.standstill = false ∧ d.claimsOrderEnd.cle.table = [heldClaim 2 none, heldClaim 3 none]) := by
  decide +kernel

/-- The carriage with a window open of the left side, its snapshot an even number of µm behind the reference. -/
def windowOpen (back : Nat) : Dev :=
  let d := placed standing
  let w : PairWindow :=
    { side := .left, snap := { d.odo.pos.point with offset := 10000000 - back }, travel := back, part := 0, since := back, net := back }
  { d with odo := { d.odo with window := some w } }

theorem test_sample_and_window :
    (let d := sampling (windowOpen 40750) 20 17 0;
      d.odo.active = true ∧ d.due d.odo.sampleTimer = true ∧ d.odo.pos.validity ≠ .unknown ∧ d.advance = some (9250, 1500)
        ∧ (d.carry d.odo.pos.point 9250).stop = .reached ∧ (after .odometrySample d).odo.window.map (·.travel) = some 50000)
    ∧ (let d := sampling (windowOpen 40752) 20 17 0; (after .odometrySample d).odo.window = none)
    ∧ (let d := sampling (windowOpen 20) 0 0 49;
      d.odo.standstill = false ∧ (after .odometrySample d).odo.standstill = true ∧ (after .odometrySample d).odo.window = none
        ∧ (after .odometrySample d).odo.unpaired = 1)
    ∧ (let p := placed standing;
      let d := sampling { p with odo := { p.odo with pos := { p.odo.pos with pendingLoss := true } } } 0 0 49;
      d.odo.window = none ∧ (after .odometrySample d).odo.pos.validity = .unknown ∧ (after .odometrySample d).faults = []) := by
  decide +kernel

/-- R29, R25 and R32: the window that closes at a sample is judged against the record that the sample has carried; a single marker with none
of the map near doubles the U formed there. -/
theorem test_sample_closes_window :
    let d := sampling (windowOpen 40752) 20 17 0
    let e := d.odo.pos
    d.advance = some (9250, 1500) ∧ (d.carry e.point 9250).stop = .reached
      ∧ e.uAnchor + ((e.travelled + 9250) * 10 + 999) / 1000 + (e.disagreement + 1500 + 1) / 2 = 1843
      ∧ (after .odometrySample d).odo.window = none ∧ (after .odometrySample d).odo.pos.offset = 10009250
      ∧ (after .odometrySample d).odo.pos.travelled = 9250 ∧ (after .odometrySample d).odo.pos.unc = 2 * 1843 := by
  decide +kernel

/-- A sample of 9,250 µm with the marker of section 2 due so far ahead, and a missed run. -/
def markerDue (ahead : Int) (run : Nat) : Dev :=
  let d := sampling (placed standing) 20 17 0
  { d with odo := { d.odo with nextDue := some ⟨d.odo.pos.point, ahead⟩, missedRun := run } }

theorem test_missed_marker :
    (let d := markerDue 7407 0;
      d.odo.window = none ∧ d.odo.pos.pendingLoss = false ∧ (after .odometrySample d).odo.pos.unc = 1843
        ∧ (after .odometrySample d).odo.nextDue.map (·.ahead) = some (-1843) ∧ (after .odometrySample d).odo.missedRun = 0)
    ∧ (let d := markerDue 7406 0; (after .odometrySample d).odo.nextDue = none ∧ (after .odometrySample d).odo.missedRun = 1)
    ∧ (let d := markerDue 7406 1;
      (after .odometrySample d).odo.missedRun = 0 ∧ (after .odometrySample d).faultActive .missedMarkers = true) := by
  decide +kernel

theorem test_window_closes :
    (let d := windowOpen 20; let w := d.odo.window; let snap := (d.carry d.odo.pos.point 0).last;
      d.odo.active = true ∧ d.odo.pos.validity ≠ .unknown ∧ w.map (·.side) = some .left ∧ snap.offset = 10000000
        ∧ trackBetween d.tmp.sections d.routeEntries { snap with offset := 9999980 } snap = some 20
        ∧ snap.offset ≤ legLength d.tmp.sections 2 .plain
        ∧ (after (.markerEdge .right) d).odo.window = none ∧ (after (.markerEdge .right) d).odo.pos.offset = 10000010
        ∧ (after (.markerEdge .right) d).odo.pos.uAnchor = 5000)
    ∧ (let d := windowOpen 20;
      (after (.markerEdge .left) d).odo.window.map (·.travel) = some 0 ∧ (after (.markerEdge .left) d).odo.pos.offset = 10000020
        ∧ (after (.markerEdge .left) d).odo.pos.uAnchor = 10000) := by
  decide +kernel

/-- A detection at an offset of section 2, 30 µm before now. -/
def detection (offset : Nat) (paired : Bool) : Detection :=
  { point := { (placed standing).odo.pos.point with offset := offset }, paired := paired, side := .left, travel := 30, net := 30, lead := 0 }

theorem test_detection :
    (let d := placed standing; let found := markerCandidates d.tmp.sections d.routeEntries (detection 9999500 true).point 1000;
      d.odo.pos.validity ≠ .unknown ∧ d.odo.pos.pendingLoss = false ∧ found.map (·.dist) = [500]
        ∧ (detection 9999500 true).net ≠ 0 ∧ d.odo.nextDue = none ∧ (d.detect (detection 9999500 true)).odo.missedRun = 0
        ∧ (d.carry { d.odo.pos.point with offset := 10000000 } 30).stop = .reached
        ∧ (d.detect (detection 9999500 true)).odo.pos.offset = 10000030 ∧ (d.detect (detection 9999500 true)).odo.pos.unc = 5001)
    ∧ (let d := placed standing; let x := detection 9998999 true;
      markerCandidates d.tmp.sections d.routeEntries x.point 1000 = [] ∧ (d.detect x).odo.pos.pendingLoss = true
        ∧ (d.detect x).odo.pos.unc = 2000)
    ∧ (let d := { placed standing with odo := { (placed standing).odo with unpaired := 2, missingSide := .right } };
      let x := detection 10000000 false;
      x.paired = false ∧ otherSide x.side = .right ∧ (d.detect x).faultActive .markerReader = true ∧ (d.detect x).odo.pos.unc = 10001)
    ∧ (let p := placed standing; let d := { p with odo := { p.odo with pos := { p.odo.pos with pendingLoss := true } } };
      d.odo.pos.pendingLoss = true ∧ (d.detect (detection 10000000 true)).odo.pos = d.odo.pos) := by
  decide +kernel

theorem test_marker_edge :
    (let d := placed standing;
      d.odo.active = true ∧ d.odo.pos.validity ≠ .unknown ∧ d.odo.window = none
        ∧ (after (.markerEdge .left) d).odo.window.isSome = true)
    ∧ (standing.odo.pos.validity = .unknown) := by
  decide +kernel

theorem test_pad_edge :
    (let d := placed standing;
      d.odo.active = true ∧ d.odo.padPresence = false ∧ d.stc.order = none
        ∧ (after (.padEdge true 0x07#7) d).faultActive .padCode = true
        ∧ (after (.padEdge true 0x47#7) d).odo.padCode = 7 ∧ (after (.padEdge true 0x47#7) d).faultActive .padCode = false)
    ∧ (Dev.reset.odo.active = false ∧ (after (.padEdge true 0x07#7) Dev.reset).odo.padLines = 0x07#7) := by
  decide +kernel

/-- The carriage under its order in a docking sub-state, with a second pad, 8, at its reference. -/
def nearPads (sub : DockState) : Dev :=
  let d := ordered .approach
  { d with tmp := { d.tmp with pads := d.tmp.pads ++ [⟨8, 2, .plain, 10000⟩] }, dkc := { d.dkc with sub := sub } }

theorem test_pad_edge_of_the_destination :
    (let d := nearPads .creep;
      d.odo.active = true ∧ d.odo.padPresence = false ∧ d.stc.order = some order23 ∧ d.dkc.abortTaken = false
        ∧ d.odo.pos.validity ≠ .unknown ∧ d.dkc.dest = some 7 ∧ d.odo.pos.pendingLoss = false
        ∧ findPad d.tmp.pads 7 = some ⟨7, 3, .plain, 15000⟩ ∧ (order23.route.entries[order23.route.padIdx - 1]?).isSome = true
        ∧ d.tmp.carriage.padTol * 1000 < 10000000 ∧ (after (.padEdge true 0x47#7) d).dkc.sub = .stopping
        ∧ (after (.padEdge true 0x47#7) d).dkc.anchored = true ∧ (after (.padEdge true 0x47#7) d).odo.pos.offset = 15000000)
    ∧ (after (.padEdge true 0x47#7) (nearPads .correct)).dkc.sub = .correct
    ∧ (let d := nearPads .creep; let e := { d with odo := { d.odo with pos := { d.odo.pos with pendingLoss := true } } };
      (after (.padEdge true 0x47#7) e).odo.pos = e.odo.pos ∧ ((after (.padEdge true 0x47#7) e).counter .anchorsRefused).toNat = 1)
    ∧ (let d := nearPads .check; ((after (.padEdge true 0x47#7) d).counter .edgesPassed).toNat = 1) := by
  decide +kernel

theorem test_pad_edge_of_another_pad :
    (let d := nearPads .stopping; let en : RouteEntry := ⟨2, .towardB, .plain, .a, .b, 0, 20000000⟩;
      d.dkc.dest ≠ some 8 ∧ findPad d.tmp.pads 8 = some ⟨8, 2, .plain, 10000⟩ ∧ en ∈ order23.route.entries
        ∧ en.coord d.tmp.sections 10000000 = order23.route.coord d.tmp.sections d.odo.pos.point
        ∧ ((after (.padEdge true 0x48#7) d).counter .passingPads).toNat = 1)
    ∧ (let d := nearPads .creep;
      findPad d.tmp.pads 9 = none ∧ d.stc.state ∈ [.running, .approach, .docking]
        ∧ (after (.padEdge true 0x09#7) d).stc.lastOrder = ⟨77, some .failed, some .wrongPad⟩
        ∧ (after (.padEdge true 0x09#7) d).stc.state = .halted) := by
  decide +kernel

/-! ### Receiving and sending on the line -/

theorem test_frame_bounds :
    (255 < 256 ∧ (List.replicate 60 (0 : Byte)).length ≤ 60)
    ∧ frameWhole (frameBytes 255 255 .linkTest [1]) = true
    ∧ frameCrcOk (frameBytes 255 255 .linkTest [1]) = true := by
  decide +kernel

theorem test_beacon_bounds :
    (let d := { placed standing with cle := { Cle.reset with table := [heldClaim 1 none, heldClaim 240 none], lossCount := 15 } };
      d.cle.ok ∧ (∀ e ∈ d.cle.table, 1 ≤ e.sec ∧ e.sec ≤ 240) ∧ d.odo.pos.sec ≤ 240 ∧ d.odo.pos.offset / 1000 < 2 ^ 24
        ∧ d.tmp.carriage.length < 65536 ∧ d.odo.pos.unc ≤ Config.uncertaintyCap ∧ d.beaconTicket.loss ≤ 15
        ∧ d.beaconTicket.priority ≤ 3 ∧ d.cle.waitingFor.2 ≤ 32 ∧ d.beaconTicket.station = d.station
        ∧ (readBeacon d.beaconPayload).held = [1, 240] ∧ d.odo.pos.validity ≠ .unknown)
    ∧ standing.odo.pos.validity = .unknown := by
  decide +kernel

theorem test_valid_frame_placed :
    (let d := standing; let p : List Byte := [9, 0];
      d.lif.active = true ∧ d.lif.awaitIdle = false ∧ d.lif.rx ≠ .discarding ∧ d.lif.tx ≠ .sending ∧ p.length ≤ 60 ∧ layoutOk .taken p = true
        ∧ d.lif.mailbox.length < 16 ∧ d.lif.quiet = false ∧ d.station = 5
        ∧ (after (.frameReceive (frameBytes 5 20 .taken p)) d).lif.mailbox.length = 1
        ∧ (after (.frameReceive (frameBytes 0 20 .taken p)) d).lif.quietTimer = some 6500000)
    ∧ (let d := { standing with lif := { standing.lif with quiet := true } };
      d.lif.quiet = true ∧ (after (.frameReceive (frameBytes 0 20 .taken [9, 0])) d).lif.quiet = false) := by
  decide +kernel

theorem test_frame_checks :
    (let d := standing; let b := [0, 20, 0x12, 1, 9, 0, 0];
      frameWhole b = true ∧ frameCrcOk b = false ∧ ((after (.frameReceive b) d).counter .crcErrors).toNat = 1)
    ∧ (let b := [5, 20, 0x99, 0] ++ beBytes 2 (crc16 [5, 20, 0x99, 0]).toNat;
      frameWhole b = true ∧ frameCrcOk b = true ∧ FrameKind.ofCode (byteAt b 2) = none
        ∧ ((after (.frameReceive b) standing).counter .formatErrors).toNat = 1)
    ∧ (let b := frameBytes 5 20 .taken [9];
      frameWhole b = true ∧ FrameKind.ofCode (byteAt b 2) = some .taken ∧ layoutOk .taken (framePayload b) = false
        ∧ ((after (.frameReceive b) standing).counter .formatErrors).toNat = 1)
    ∧ (let b := frameBytes 6 20 .taken [9, 0];
      byteAt b 0 ≠ 0 ∧ byteAt b 0 ≠ standing.station ∧ (after (.frameReceive b) standing).lif.mailbox = [])
    ∧ (let d := { standing with lif := { standing.lif with mailbox := List.replicate 16 (frameOf .halt 20 []) } };
      let b := frameBytes 5 20 .taken [9, 0];
      16 ≤ d.lif.mailbox.length ∧ layoutOk .taken (framePayload b) = true
        ∧ ((after (.frameReceive b) d).counter .rxOverflow).toNat = 1) := by
  decide +kernel

theorem test_abandoned_frame :
    (standing.lif.active = true ∧ standing.lif.rx ≠ .discarding ∧ (after (.frameAbandoned .drivenStopBit) standing).lif.rx = .discarding)
    ∧ (let d := { standing with lif := { standing.lif with rx := .discarding } };
      d.lif.rx = .discarding ∧ (after .lineIdle d).lif.rx = .idle ∧ after (.frameAbandoned .idleInFrame) d = d)
    ∧ (let d := { standing with lif := { standing.lif with awaitIdle := true } };
      d.lif.awaitIdle = true ∧ after (.frameReceive (frameBytes 0 20 .taken [9, 0])) d = d ∧ (after .lineIdle d).lif.awaitIdle = false) := by
  decide +kernel

/-- An entry of the transmit queue. -/
def queued (k : FrameKind) (attempts : Nat) (sending : Bool) : TxEntry :=
  { kind := k, dest := 0, payload := [9, 0], attempts := attempts, tag := some 3, sending := sending }

/-- The transmitter in a state with a queue. -/
def sendingPart (tx : TxState) (q : List TxEntry) : Dev :=
  { standing with lif := { standing.lif with tx := tx, queue := q, lfsr := 5, backoffTimer := some 1, beaconTimer := some 1 } }

/-- The kinds queued after a frame of a kind arrives at the queue of an active transmitter. -/
def kindsAfter (q : List TxEntry) (k : FrameKind) : List FrameKind :=
  ((sendingPart .waiting q).enqueue k 0 [] none).1.lif.queue.map (·.kind)

theorem test_full_queue :
    (let q := List.replicate 6 (queued .taken 0 false) ++ [queued .beacon 0 false, queued .orderReport 0 false];
      8 ≤ q.length ∧ kindsAfter q .object = List.replicate 6 .taken ++ [.object, .beacon]
        ∧ kindsAfter q .linkReport = q.map (·.kind))
    ∧ (let q := List.replicate 7 (queued .taken 0 false) ++ [queued .beacon 0 false];
      kindsAfter q .object = List.replicate 7 .taken ++ [.object])
    ∧ (let q := List.replicate 7 (queued .taken 0 false) ++ [queued .orderReport 0 false];
      kindsAfter q .beacon = List.replicate 7 .taken ++ [.beacon])
    ∧ (let q := List.replicate 8 (queued .taken 0 false);
      kindsAfter q .object = q.map (·.kind) ∧ kindsAfter q .beacon = q.map (·.kind)
        ∧ (((sendingPart .waiting q).enqueue .beacon 0 [] none).1.counter .queueDrops).toNat = 1)
    ∧ (let q := [queued .beacon 0 false]; kindsAfter q .beacon = [.beacon] ∧ kindsAfter q .release = [.release, .beacon])
    ∧ (Dev.reset.enqueue .taken 0 [] none) = (Dev.reset, false) := by
  decide +kernel

theorem test_transmit_start :
    let d := sendingPart .waiting [queued .taken 0 false, queued .beacon 0 false];
    d.lif.tx = .waiting ∧ (after .transmitStart d).lif.sending = frameBytes 0 5 .taken [9, 0] := by
  decide +kernel

theorem test_collision :
    (let d := sendingPart .sending ([queued .release 0 false] ++ queued .taken 2 true :: []);
      d.lif.tx = .sending ∧ (∀ y ∈ [queued .release 0 false] ++ [], y.sending = false) ∧ (queued .taken 2 true).attempts < 3
        ∧ (after .collision d).lif.backoffTimer = some (5000000 + 11 * 512))
    ∧ (let d := sendingPart .sending [queued .taken 3 true];
      3 ≤ (queued .taken 3 true).attempts ∧ (after .collision d).lif.queue = [])
    ∧ (let d := sendingPart .sending [queued .intent 3 true];
      (after .collision d).lif.tx = .backoff ∧ ((after .collision d).counter .txDrops).toNat = 1) := by
  decide +kernel

/-- A CONTENDING entry with its INTENT's tag. -/
def contender (n : Nat) (tag : Nat) (w : Timer) : Claim :=
  { Claim.fresh n (some 2) none with state := .contending ⟨false, 0, 1, 5⟩ tag w }

/-- The carriage contending for section 3, its INTENT being sent for the fourth time. -/
def dropping : Dev :=
  let d := withTable (ordered .running) [heldClaim 2 (some 1), contender 3 3 none]
  { d with lif := { d.lif with tx := .sending, queue := [queued .intent 3 true], lfsr := 5 } }

theorem test_intent_dropped :
    (let d := dropping;
      contender 3 3 none ∈ d.cle.table ∧ d.cle.ok ∧ d.claimingStopped = false ∧ d.lif.quiet = false ∧ d.blocked 3 = none
        ∧ (after .collision d).lif.queue.map (·.attempts) = [0]
        ∧ ((after .collision d).cle.entry 3).map (·.state) = some (.contending ⟨false, 0, 1, 5⟩ 0 none))
    ∧ (let d := { dropping with lif := { dropping.lif with quiet := true } };
      d.cle.deadlock = none ∧ ((after .collision d).cle.entry 3).map (·.state) = some (.wanted false)
        ∧ (after .collision d).lif.queue = [])
    ∧ (let d := { dropping with peers := [{ peerOf 8 .carriage with held := [3] }] };
      d.blocked 3 = some (8, .held) ∧ ((after .collision d).cle.entry 3).map (·.state) = some (.blocked 8 .held none))
    ∧ (let d := { dropping with stc := { dropping.stc with abortPending := true } };
      d.claimingStopped = true ∧ (after .collision d).cle.entry 3 = none)
    ∧ (let d := withTable dropping [heldClaim 2 (some 1)]; (after .collision d).lif.queue = []) := by
  decide +kernel

theorem test_frame_sent :
    (let d := sendingPart .sending [queued .taken 0 true, queued .beacon 0 false];
      (after .frameSent d).lif.tx = .waiting ∧ ((after .frameSent d).counter .framesSent).toNat = 1)
    ∧ (let d := withTable (sendingPart .sending [queued .intent 0 true]) [heldClaim 2 (some 1), contender 3 3 none];
      (queued .intent 0 true).tag = some 3 ∧ (after .frameSent d).cle.table = [heldClaim 2 (some 1), contender 3 3 (some 5150000)]) := by
  decide +kernel

theorem test_line_timers :
    (let d := sendingPart .backoff [];
      d.lif.tx = .backoff ∧ d.due d.lif.backoffTimer = true ∧ (after .backoffExpiry d).lif.tx = .idle)
    ∧ (let d := sendingPart .idle (List.replicate 7 (queued .linkReport 0 false));
      d.lif.active = true ∧ d.due d.lif.beaconTimer = true ∧ d.lif.queue.length < 8
        ∧ (after .beaconTimerExpiry d).lif.queue.head?.map (·.kind) = some .beacon)
    ∧ (let d := sendingPart .waiting [queued .beacon 0 false];
      d.lif.queue.any (fun x => x.kind == .beacon) = true ∧ (after .beaconTimerExpiry d).lif.queue = d.lif.queue)
    ∧ (let d := { ordered .running with lif := { standing.lif with quietTimer := some 1 } };
      d.due d.lif.quietTimer = true ∧ (after .lineQuietExpiry d).stc.state = .halted) := by
  decide +kernel

/-! ### Frames of the peers -/

theorem test_source_check :
    (let d := mailed standing (frameOf .faultReport 0 []) [];
      (frameOf .faultReport 0 []).isPeerReport = true ∧ d.peersOk ∧ ((after .peerReportFrame d).counter .badSource).toNat = 1)
    ∧ (let d := mailed standing (frameOf .faultReport 33 []) [];
      32 < (frameOf .faultReport 33 []).src ∧ ((after .peerReportFrame d).counter .badSource).toNat = 1)
    ∧ (let d := mailed standing (frameOf .linkReport 5 []) [];
      (frameOf .linkReport 5 []).src = d.station ∧ (after .peerReportFrame d).faultActive .echoId = true)
    ∧ (let d := mailed standing (frameOf .orderReport 32 []) [peerOf 1 .console];
      d.peer 32 = none ∧ (after .peerReportFrame d).peers.map (·.station) = [1, 32])
    ∧ (let d := mailed standing (frameOf .pointsRequest 1 []) [peerOf 1 .console];
      d.peer 1 = some (peerOf 1 .console) ∧ (peerOf 1 .console).kind ≠ .carriage ∧ (peerOf 1 .console).freshness = .fresh
        ∧ ((after .peerReportFrame d).counter .kindConflict).toNat = 1)
    ∧ (let r : PeerRec := { peerOf 1 .carriage with freshness := .lost, frozen := true };
      let d := mailed standing (frameOf .faultReport 1 []) [r];
      d.peer 1 = some r ∧ r.kind = .carriage ∧ ((after .peerReportFrame d).peer 1).map (·.frozen) = some false)
    ∧ (let d := mailed standing (frameOf .faultReport 1 []) [peerOf 1 .carriage];
      d.peer 1 = some (peerOf 1 .carriage) ∧ ((after .peerReportFrame d).peer 1).map (·.heardAt) = some 5000000) := by
  decide +kernel

/-- A BEACON's payload with a held count and as many sections. -/
def beaconOf (held : List Byte) (n : Byte) : List Byte :=
  [0, 0, 0, 9, 3, 0, 0, 0, 2, 0, 39, 16, 3, 1, 0, 15, 160, 0, 1, n] ++ held ++ [3, 0x12, 0, 0]

theorem test_beacon :
    (let f := frameOf .beacon 8 (beaconOf [1, 2, 3, 4, 6, 7, 8, 9] 8); let d := mailed standing f [];
      d.passes f [] ∧ f.kind = .beacon ∧ d.peersOk ∧ byteAt f.payload 19 = 8
        ∧ ((after .beacon d).peer 8).map (·.held) = some [1, 2, 3, 4, 6, 7, 8, 9]
        ∧ ((after .beacon d).peer 8).map (·.offset) = some 10000 ∧ ((after .beacon d).peer 8).map (·.foreign) = some true)
    ∧ (let f := frameOf .beacon 8 (beaconOf [] 9); let d := mailed standing f [peerOf 8 .carriage];
      d.passes f [] ∧ 8 < byteAt f.payload 19 ∧ d.peer 8 = some (peerOf 8 .carriage)
        ∧ ((after .beacon d).counter .beaconMalformed).toNat = 1) := by
  decide +kernel

/-- A carriage that holds sections. -/
def holder (n : Nat) (held : List Nat) : PeerRec :=
  { peerOf n .carriage with held := held }

theorem test_release :
    (let f := frameOf .release 8 [2, 4, 1]; let d := mailed standing f [holder 8 [1, 2, 4]];
      d.passes f [] ∧ f.kind = .release ∧ d.peer 8 = some (holder 8 [1, 2, 4]) ∧ d.peersOk ∧ (holder 8 [1, 2, 4]).freshness = .fresh
        ∧ (1 ∈ (holder 8 [1, 2, 4]).held) ∧ ((after .release d).peer 8).map (·.held) = some [2])
    ∧ (let f := frameOf .release 8 [1, 6]; let d := mailed standing f [holder 8 [1]];
      d.passes f [] ∧ (∀ n ∈ (holder 8 [1]).held, n ∉ [6]) ∧ ((after .release d).peer 8).map (·.held) = some [1]) := by
  decide +kernel

theorem test_taken_and_intent :
    (let f := frameOf .taken 8 [9, 0x12]; let r := holder 8 [1, 2, 3, 4, 6, 7, 8, 10]; let d := mailed standing f [r];
      d.passes f [] ∧ f.kind = .taken ∧ d.peer 8 = some r ∧ d.peersOk ∧ 9 ∉ r.held ∧ 8 ≤ r.held.length
        ∧ ((after .taken d).peer 8).map (·.held) = some [2, 3, 4, 6, 7, 8, 10, 9])
    ∧ (let f := frameOf .taken 8 [9, 0x12]; let d := mailed standing f [holder 8 [1, 2, 3, 4, 6, 7, 8]];
      d.passes f [] ∧ ((after .taken d).peer 8).map (·.held) = some [1, 2, 3, 4, 6, 7, 8, 9])
    ∧ (let f := frameOf .taken 8 [9, 0x12]; let r : PeerRec := { holder 8 [9] with intent := some ⟨9, ⟨false, 0, 0, 8⟩, 9⟩ };
      let d := mailed standing f [r];
      d.passes f [] ∧ 9 ∈ r.held ∧ ((after .taken d).peer 8).map (·.intent) = some none)
    ∧ (let f := frameOf .intent 8 [9, 0x12]; let d := mailed standing f [holder 8 []];
      d.passes f [] ∧ f.kind = .intent
        ∧ ((after .intent d).peer 8).map (·.intent) = some (some ⟨9, ⟨false, 2, 1, 8⟩, 5300000⟩)) := by
  decide +kernel

/-- The carriage contending for section 3. -/
def contending : Dev :=
  withTable (ordered .running) [heldClaim 2 (some 1), contender 3 0 (some 6000000)]

theorem test_contention :
    (let f := frameOf .intent 8 [3, 0x00]; let d := mailed contending f [peerOf 8 .carriage]; let mine : Ticket := ⟨false, 0, 1, 5⟩;
      d.passes f [] ∧ f.kind = .intent ∧ d.peer 8 = some (peerOf 8 .carriage) ∧ d.peersOk
        ∧ d.cle.entry 3 = some (contender 3 0 (some 6000000)) ∧ mine.outranks (Ticket.ofByte 0 8) = true
        ∧ (after .intent d).cle = d.cle ∧ (after .intent d).lif.queue.map (·.payload) = [[3, 2]])
    ∧ (let f := frameOf .object 8 [3, 1]; let d := mailed contending f [peerOf 8 .carriage];
      d.passes f [] ∧ f.dest = d.station ∧ d.peersOk ∧ d.cle.ok ∧ d.cle.front = some (contender 3 0 (some 6000000))
        ∧ (d.peer 8).all (fun r => r.waiting == none) = true
        ∧ (after .object d).cle.entry 3 = some { contender 3 0 none with state := .blocked 8 .held (some 5300000) })
    ∧ (let f := frameOf .object 8 [9, 1]; let d := mailed contending f [peerOf 8 .carriage];
      d.passes f [] ∧ (d.takenIn f []).cle.entry 9 = none ∧ ((after .object d).counter .lateObjections).toNat = 1)
    ∧ (let f : Frame := { frameOf .object 8 [3, 1] with dest := 0 }; let d := mailed contending f [peerOf 8 .carriage];
      d.passes f [] ∧ f.dest ≠ d.station ∧ (after .object d).cle = d.cle) := by
  decide +kernel

/-- R72 and R68: an INTENT for a HELD section is answered with basis HOLDING, a higher-ranked one makes the CONTENDING entry lose, and one
for a section of no entry changes nothing of the claims. -/
theorem test_intent_answers :
    (let f := frameOf .intent 8 [2, 0x00]; let d := mailed contending f [peerOf 8 .carriage];
      d.passes f [] ∧ d.peersOk ∧ d.cle.entry 2 = some (heldClaim 2 (some 1)) ∧ (after .intent d).cle = d.cle
        ∧ (after .intent d).lif.queue.map (fun y => (y.kind, y.dest, y.payload)) = [(.object, 8, [2, 1])])
    ∧ (let f := frameOf .intent 8 [3, 0x0F]; let d := mailed contending f [peerOf 8 .carriage];
      d.passes f [] ∧ d.cle.ok ∧ (Ticket.ofByte 0x0F 8).outranks ⟨false, 0, 1, 5⟩ = true
        ∧ (after .intent d).cle.entry 3 = some { contender 3 0 none with state := .blocked 8 .intent (some 5300000) }
        ∧ (after .intent d).cle.lossCount = 1)
    ∧ (let f := frameOf .intent 8 [1, 0x0F]; let d := mailed contending f [peerOf 8 .carriage];
      d.cle.entry 1 = none ∧ (after .intent d).cle = d.cle ∧ (after .intent d).lif.queue = []) := by
  decide +kernel

/-- R68 and R73: a TAKEN makes the CONTENDING entry lose, and for a HELD section it is a clash. -/
theorem test_takings :
    (let f := frameOf .taken 8 [3, 0x00]; let d := mailed contending f [peerOf 8 .carriage];
      d.passes f [] ∧ d.peersOk ∧ d.cle.ok ∧ d.peer 8 = some (peerOf 8 .carriage) ∧ d.cle.entry 3 = some (contender 3 0 (some 6000000))
        ∧ (after .taken d).cle.entry 3 = some { contender 3 0 none with state := .blocked 8 .held (some 5300000) }
        ∧ (after .taken d).cle.lossCount = 1)
    ∧ (let f := frameOf .taken 8 [2, 0x00]; let d := mailed (ordered .running) f [peerOf 8 .carriage];
      d.passes f [] ∧ d.cle.front = none ∧ d.underOwn 2 = true ∧ 2 ∉ d.peerFootprint (peerOf 8 .carriage)
        ∧ (after .taken d).lif.queue.map (·.payload) = [[2, 0x80]] ∧ ((after .taken d).counter .clashesFound).toNat = 1) := by
  decide +kernel

/-- R72 to R75: an OBJECT of basis HOLDING for a HELD section is a clash, which step 3 keeps, and which a yield of an entry off the route
within the stopping distance makes AUTHORITY-WITHDRAWN; one of basis CONTENDING is a late objection. -/
theorem test_objections_to_holdings :
    (let f := frameOf .object 8 [2, 1]; let d := mailed (withTable standing [heldClaim 2 none]) f [peerOf 8 .carriage];
      d.odo.pos.validity = .unknown ∧ d.cle.ok ∧ (after .object d).faultActive .occupancyConflict = true)
    ∧ (let f := frameOf .object 3 [3, 1];
      let d := mailed (withTable { placed standing with sup := { standing.sup with sd := 9000 } } [heldClaim 2 none, heldClaim 3 none]) f [peerOf 3 .carriage];
      d.passes f [] ∧ d.cle.ok ∧ d.underOwn 3 = false ∧ 3 < d.station ∧ d.withinStopping (heldClaim 3 none) = true
        ∧ (after .object d).cle.entry 3 = none ∧ (after .object d).faultActive .authorityWithdrawn = true)
    ∧ (let f := frameOf .object 8 [2, 2]; let d := mailed (ordered .running) f [peerOf 8 .carriage];
      d.passes f [] ∧ (heldClaim 2 (some 1)).isHeld = true ∧ ((after .object d).counter .lateObjections).toNat = 1) := by
  decide +kernel

/-- A BEACON of station 8 at the start of section 1, 4 m long, with a held list and a waiting-for, as this part's plan has it. -/
def beaconFrom (sec : Byte) (held : List Byte) (ticket waitSec waitPeer : Byte) : Frame :=
  frameOf .beacon 8 ([0, 0, 0, 0, 3, 0, 0, 0, sec, 0, 3, 232, 0, 0, 0, 15, 160, 0, 1, BitVec.ofNat 8 held.length] ++ held
    ++ [0, ticket, waitSec, waitPeer])

theorem test_beacon_and_contention :
    (let f := beaconFrom 1 [3] 0 0 0; let d := mailed contending f [peerOf 8 .carriage]; let b := readBeacon f.payload;
      d.passes f [] ∧ f.kind = .beacon ∧ d.peersOk ∧ d.cle.ok ∧ byteAt f.payload 19 ≤ 8
        ∧ (d.peer 8).any (fun r => r.freshness == .fresh) = true ∧ contender 3 0 (some 6000000) ∈ d.cle.table
        ∧ b.held = [3] ∧ b.waitSec = 0
        ∧ (after .beacon d).cle.entry 3 = some { contender 3 0 none with state := .blocked 8 .held (some 5300000) })
    ∧ (let f := beaconFrom 3 [] 0 0 0; let d := mailed contending f [peerOf 8 .carriage]; let b := readBeacon f.payload;
      3 ∈ peerSections d.tmp.sections b.sec b.offset b.dir b.length b.unc ∧ 3 ∉ b.held
        ∧ ((after .beacon d).cle.entry 3).map (·.state) = some (.blocked 8 .occupied (some 5300000)) ∧ (after .beacon d).cle.lossCount = 1) := by
  decide +kernel

theorem test_beacon_and_clash :
    (let f := beaconFrom 1 [2] 0 0 0; let d := mailed (withTable (placed standing) [heldClaim 2 none]) f [peerOf 8 .carriage];
      let b := readBeacon f.payload;
      d.passes f [] ∧ d.cle.ok ∧ d.cle.front = none ∧ d.underOwn 2 = true
        ∧ 2 ∉ peerSections d.tmp.sections b.sec b.offset b.dir b.length b.unc ∧ b.signature = d.tmp.signature ∧ d.lif.hasRoom
        ∧ (after .beacon d).lif.queue.map (·.kind) = [.taken] ∧ (after .beacon d).cle.table = d.cle.table)
    ∧ (let f := beaconFrom 2 [2] 0 0 0; let d := mailed (withTable (placed standing) [heldClaim 2 none]) f [peerOf 8 .carriage];
      let b := readBeacon f.payload;
      2 ∈ peerSections d.tmp.sections b.sec b.offset b.dir b.length b.unc ∧ (after .beacon d).faultActive .occupancyConflict = true)
    ∧ (let f := beaconFrom 3 [3] 0 0 0; let d := mailed (withTable (placed standing) [heldClaim 2 none, heldClaim 3 none]) f [peerOf 8 .carriage];
      d.cle.ok ∧ d.underOwn 3 = false ∧ d.odo.pos.validity ≠ .unknown ∧ (after .beacon d).cle.entry 3 = none
        ∧ (after .beacon d).lif.queue.map (·.payload) = [[1, 3]]) := by
  decide +kernel

theorem test_beacon_and_deadlock :
    let f := beaconFrom 1 [] 0x0F 2 5; let c : Claim := { Claim.fresh 3 (some 2) none with state := .blocked 8 .occupied (some 6000000) };
    let d := mailed (withTable (ordered .running) [heldClaim 2 (some 1), c]) f [peerOf 8 .carriage]; let b := readBeacon f.payload;
    d.passes f [] ∧ d.cle.ok ∧ c ∈ d.cle.table ∧ b.held = [] ∧ b.waitSec = 2 ∧ b.waitPeer = d.station ∧ d.underOwn 2 = true
      ∧ d.currentTicket.outranks (Ticket.ofByte b.ticketByte 8) = false
      ∧ (after .beacon d).faultActive .deadlock = true ∧ (after .beacon d).cle.deadlock = some 8 := by
  decide +kernel

/-- The carriage with its route HELD as far as section 3 and a stopping distance, or waiting for section 4 beyond. -/
def yielding (sd : Nat) (l : List Claim) : Dev :=
  let d := withTable (ordered .running) l
  { d with sup := { d.sup with sd := sd } }

theorem test_clash_yields :
    (let f := beaconFrom 3 [3] 0 0 0; let d := mailed (yielding 0 [heldClaim 2 (some 1), heldClaim 3 (some 2)]) f [peerOf 8 .carriage];
      let b := readBeacon f.payload;
      d.passes f [] ∧ d.peersOk ∧ d.cle.ok ∧ byteAt f.payload 19 ≤ 8 ∧ b.signature = d.tmp.signature ∧ d.claimingStopped = false
        ∧ d.lif.quiet = false ∧ d.odo.pos.validity ≠ .unknown ∧ heldClaim 3 (some 2) ∈ d.cle.table ∧ d.underOwn 3 = false
        ∧ d.cle.deadlock = none ∧ b.held = [3] ∧ b.waitSec = 0 ∧ 3 ∈ peerSections d.tmp.sections b.sec b.offset b.dir b.length b.unc
        ∧ d.cle.front = none ∧ d.lif.hasRoom ∧ d.withinStopping (heldClaim 3 (some 2)) = false
        ∧ ((after .beacon d).cle.entry 3).map (·.state) = some (.blocked 8 .held none)
        ∧ (after .beacon d).lif.queue.map (·.payload) = [[1, 3]])
    ∧ (let f := beaconFrom 3 [3] 0 0 0; let d := mailed (yielding 9000 [heldClaim 2 (some 1), heldClaim 3 (some 2)]) f [peerOf 8 .carriage];
      d.withinStopping (heldClaim 3 (some 2)) = true ∧ (after .beacon d).faultActive .authorityWithdrawn = true) := by
  decide +kernel

theorem test_mutual_wait_yields :
    (let f := beaconFrom 1 [] 0x0F 3 5; let c : Claim := { Claim.fresh 4 (some 3) none with state := .blocked 8 .occupied (some 6000000) };
      let d := mailed (yielding 0 [heldClaim 2 (some 1), heldClaim 3 (some 2), c]) f [peerOf 8 .carriage]; let b := readBeacon f.payload;
      d.passes f [] ∧ d.cle.ok ∧ c ∈ d.cle.table ∧ b.held = [] ∧ b.waitSec = 3 ∧ b.waitPeer = d.station
        ∧ d.beyondStopping (heldClaim 3 (some 2)) = true ∧ d.currentTicket.outranks (Ticket.ofByte b.ticketByte 8) = false
        ∧ ((after .beacon d).cle.entry 3).map (·.state) = some (.blocked 8 .intent (some 5300000)) ∧ (after .beacon d).cle.lossCount = 1
        ∧ (after .beacon d).lif.queue.map (·.payload) = [[1, 3]])
    ∧ (let f := beaconFrom 1 [] 0x0F 1 5; let c : Claim := { Claim.fresh 3 (some 2) none with state := .blocked 8 .occupied (some 6000000) };
      let d := mailed (yielding 0 [heldClaim 1 none, heldClaim 2 (some 1), c]) f [peerOf 8 .carriage];
      d.passes f [] ∧ d.cle.ok ∧ d.underOwn 1 = false ∧ (heldClaim 1 none).idx = none
        ∧ (after .beacon d).cle.table.map (·.sec) = [2, 3] ∧ (after .beacon d).lif.queue.map (·.payload) = [[1, 1]]) := by
  decide +kernel

/-- A points section's entry. -/
def pointsClaim (p : PointsState) : Claim :=
  { heldClaim 4 (some 2) with legNeeded := some .diverge, points := p, pointsTimer := some 1, rerequestTimer := some 2 }

theorem test_points_state :
    (let f := frameOf .pointsState 9 [1, 4, 0x82, 5]; let d := withTable (mailed standing f [peerOf 9 .junction]) [pointsClaim .requested];
      let x : PointsEntry := ⟨4, .diverge, true, 5⟩;
      d.passes f [] ∧ f.kind = .pointsState ∧ d.peersOk ∧ d.cle.ok ∧ readPointsState f.payload = [x]
        ∧ (findSection d.tmp.sections 4).any (fun r => r.kind == .points && r.junction == 9) = true
        ∧ d.cle.entry 4 = some (pointsClaim .requested) ∧ d.peer 9 = some (peerOf 9 .junction)
        ∧ ((after .pointsState d).cle.entry 4).map (·.points) = some .locked)
    ∧ (let f := frameOf .pointsState 9 [1, 4, 0x81, 5]; let d := withTable (mailed standing f [peerOf 9 .junction]) [pointsClaim .locked];
      d.passes f [] ∧ d.cle.entry 4 = some (pointsClaim .locked) ∧ (pointsClaim .locked).legNeeded ≠ some .straight
        ∧ ((after .pointsState d).cle.entry 4).map (·.pointsTimer) = some (some 10000000))
    ∧ (let f := frameOf .pointsState 9 [1, 4, 0x02, 5]; let d := withTable (mailed standing f [peerOf 9 .junction]) [pointsClaim .requested];
      d.passes f [] ∧ (readPointsState f.payload).map (·.locked) = [false] ∧ (after .pointsState d).cle = d.cle) := by
  decide +kernel

theorem test_silent_peers :
    (let d := { standing with peers := [{ peerOf 8 .carriage with intent := some ⟨9, ⟨false, 0, 0, 8⟩, 9⟩ }] };
      (d.peer 8).map (·.freshness) = some .fresh ∧ (d.peer 8).any (·.intent.isSome) = true
        ∧ ((after (.peerStale 8) d).peer 8).map (·.freshness) = some .stale
        ∧ ((after (.peerLost 8) d).peer 8).map (·.frozen) = some true
        ∧ ((after (.peerIntentExpiry 8) d).peer 8).map (·.intent) = some none)
    ∧ (let d := { standing with peers := [{ peerOf 8 .carriage with freshness := .lost }] };
      (d.peer 8).map (·.freshness) = some .lost ∧ (d.peer 8).map (·.intent) = some none ∧ after (.peerLost 8) d = d)
    ∧ (let d := { standing with peers := [{ peerOf 8 .carriage with heardAt := 4250001 }] };
      d.now < 4250001 + 3 * d.tmp.plan.beaconPeriod * 1000 ∧ after (.peerStale 8) d = d ∧ after (.peerLost 8) d = d)
    ∧ (let d := withTable { standing with peers := [peerOf 9 .junction] } [pointsClaim .locked];
      (d.peer 9).map (·.kind) = some .junction ∧ d.cle.ok ∧ d.cle.front = none
        ∧ (findSection d.tmp.sections 4).any (fun q => q.kind == .points && q.junction == 9) = true
        ∧ ((after (.peerStale 9) d).cle.entry 4).map (·.pointsTimer) = some (some 10000000)
        ∧ ((after (.peerLost 9) (withTable d [pointsClaim .requested])).cle.entry 4).map (·.pointsTimer) = some (some 1)) := by
  decide +kernel

/-! ### Frames of the consoles -/

theorem test_free_station :
    (let r : PeerRec := { holder 8 [1] with freshness := .lost, frozen := true };
      let f := frameOf .freeStation 20 [8]; let d := mailed standing f [r, peerOf 20 .console];
      d.passes f [] ∧ f.kind = .freeStation ∧ (d.takenIn f []).peer 8 = some r
        ∧ ((after .freeStation d).peer 8).map (·.held) = some [])
    ∧ (let f := frameOf .freeStation 20 [8]; let d := mailed standing f [holder 8 [1], peerOf 20 .console];
      (d.takenIn f []).peer 8 = some (holder 8 [1]) ∧ ((after .freeStation d).counter .freeRefused).toNat = 1)
    ∧ (let f := frameOf .freeStation 20 [20]; let d := mailed standing f [peerOf 20 .console];
      ((d.takenIn f []).peer 20).map (·.kind) = some .console ∧ ((after .freeStation d).counter .freeIgnored).toNat = 1) := by
  decide +kernel

/-- A MOVE-ORDER's payload for pad 7 along sections 2 and 3. -/
def movePayload (id : Nat) (pad : Byte) (route : List Byte) : List Byte :=
  beBytes 2 id ++ [pad, 1, 1, 0, BitVec.ofNat 8 route.length] ++ route

/-- The report that a refused order queues. -/
def refusal (d : Dev) : List (List Byte) :=
  (after .moveOrder d).lif.queue.map (·.payload)

theorem test_move_order_refused :
    (let d := fromConsole (ordered .running) .moveOrder (movePayload 9 7 [2, 3]); let f := frameOf .moveOrder 20 (movePayload 9 7 [2, 3]);
      d.passes f [] ∧ f.kind = .moveOrder ∧ f.dest ≠ 0 ∧ (d.takenIn f []).stc.state = .running ∧ refusal d = [[1, 0, 9, 2, 1]])
    ∧ refusal (fromConsole { standing with stc := { Stc.reset with state := .noPosition } } .moveOrder (movePayload 9 7 [2, 3])) = [[1, 0, 9, 2, 2]]
    ∧ refusal (fromConsole (ordered .halted) .moveOrder (movePayload 9 7 [2, 3])) = [[1, 0, 9, 2, 3]]
    ∧ refusal (fromConsole { standing with stc := { Stc.reset with state := .listen } } .moveOrder (movePayload 9 7 [2, 3])) = [[1, 0, 9, 2, 4]]
    ∧ refusal (fromConsole { standing with faults := [⟨.planMismatch, 0, 0, 0, false, true⟩] } .moveOrder (movePayload 9 7 [2, 3])) = [[1, 0, 9, 2, 5]]
    ∧ refusal (fromConsole { standing with stc := { standing.stc with haltHold := true } } .moveOrder (movePayload 9 7 [2, 3])) = [[1, 0, 9, 2, 3]]
    ∧ refusal (fromConsole standing .moveOrder (movePayload 0 7 [2, 3])) = [[1, 0, 0, 2, 6]]
    ∧ refusal (fromConsole { standing with odo := { standing.odo with standstill := false } } .moveOrder (movePayload 9 7 [2, 3])) = [[1, 0, 9, 2, 7]] := by
  decide +kernel

theorem test_move_order_route_checks :
    refusal (fromConsole (placed standing) .moveOrder (movePayload 9 7 [2, 2])) = [[1, 0, 9, 2, 8]]
    ∧ refusal (fromConsole (placed standing) .moveOrder (movePayload 9 7 [3])) = [[1, 0, 9, 2, 9]]
    ∧ refusal (fromConsole (placed standing) .moveOrder (movePayload 9 8 [2, 3])) = [[1, 0, 9, 2, 12]]
    ∧ (let d := fromConsole { standing with stc := { Stc.reset with state := .parked, parkedPad := some 7 } } .moveOrder (movePayload 9 7 [2]);
      (d.takenIn (frameOf .moveOrder 20 (movePayload 9 7 [2])) []).stc.parkedPad = some 7 ∧ refusal d = [[1, 0, 9, 3, 0]])
    ∧ (let f : Frame := { frameOf .moveOrder 20 (movePayload 9 7 [2]) with dest := 0 };
      let d := mailed standing f [peerOf 20 .console];
      f.dest = 0 ∧ d.passes f [] ∧ ((after .moveOrder d).counter .orderToAll).toNat = 1) := by
  decide +kernel

theorem test_move_order_accepted :
    let p := movePayload 9 7 [2, 3]; let f := frameOf .moveOrder 20 p;
    let d := fromConsole (withTable (placed standing) [heldClaim 2 none]) .moveOrder p; let e := d.takenIn f [];
    d.passes f [] ∧ f.kind = .moveOrder ∧ f.dest ≠ 0 ∧ e.stc.state = .standing ∧ e.stc.order = none ∧ e.faultActive .planMismatch = false
      ∧ e.stc.haltHold = false ∧ e.odo.standstill = true ∧ e.odo.pos.validity ≠ .unknown ∧ (readMoveOrder p).valid = true ∧ e.cle.ok
      ∧ validateRoute e.tmp.sections e.tmp.pads e.tmp.carriage.length e.tmp.carriage.dockTol e.odo.pos.point [2, 3] 7 = .ok route23
      ∧ (∀ n ∈ (footprintOf e.tmp.sections route23.entries { e.odo.pos.point with idx := some 1 }
        (e.tmp.carriage.length * 500 + e.odo.pos.unc)).sections, e.cle.holds n = true)
      ∧ (after .moveOrder d).stc.state = .running ∧ (after .moveOrder d).sup.vOrder = some 400
      ∧ (let up := { d with bdu := { d.bdu with inClampsUp := false } };
        (up.takenIn f []).stc.state = .standing ∧ (after .moveOrder up).stc.state = .parked
          ∧ (after .moveOrder up).stc.order.map (·.departing) = some true) := by
  decide +kernel

/-- A MOVE-ORDER for ON-AUTHORITY along sections 2 and 3 to a carriage in section 2 with the claim table given. -/
def onAuthority (l : List Claim) : Dev :=
  fromConsole (withTable (placed standing) l) .moveOrder (beBytes 2 9 ++ [7, 1, 1, 1, 2, 2, 3])

/-- R148 and R149: what ODO and STC take at the start, and the report: at once for EARLY, held for ON-AUTHORITY with section 3 not HELD, sent
at the start with it HELD. -/
theorem test_move_order_reports :
    (let p := movePayload 9 7 [2, 3]; let e := withTable (placed standing) [heldClaim 2 none];
      let d := fromConsole { e with stc := { e.stc with parkedPad := some 3 } } .moveOrder p; let x := after .moveOrder d;
      d.passes (frameOf .moveOrder 20 p) [] ∧ d.lif.queue.length + d.cle.table.length + 3 ≤ 8 ∧ (readMoveOrder p).mode = 0
        ∧ x.odo.pos = { d.odo.pos with idx := some 1 } ∧ x.stc.waiting = true ∧ x.stc.parkedPad = none ∧ x.stc.heldReport = false
        ∧ (x.lif.queue.filter (fun y => y.kind == .orderReport)).map (fun y => (y.dest, y.payload)) = [(20, [1, 0, 9, 1, 0])])
    ∧ (let d := onAuthority [heldClaim 2 none]; let x := after .moveOrder d;
      x.stc.order.map (·.onAuthority) = some true ∧ x.stc.heldReport = true ∧ x.lif.queue.map (·.kind) = [.intent])
    ∧ (let d := onAuthority [heldClaim 2 none, heldClaim 3 none];
      let x := after .moveOrder { d with odo := { d.odo with pos := { d.odo.pos with offset := 17000000 } } };
      x.stc.order.map (·.onAuthority) = some true ∧ x.stc.heldReport = false ∧ x.underOwn 3 = false
        ∧ x.lif.queue.map (·.payload) = [[1, 0, 9, 1, 0]]) := by
  decide +kernel

theorem test_halt :
    (let f := frameOf .halt 20 []; let d := fromConsole (moving .running) .halt [];
      d.passes f [] ∧ f.kind = .halt ∧ (d.takenIn f []).stc.state = .running ∧ (after .halt d).bdu.serviceBrake = true
        ∧ (after .halt d).stc.remembered = some .running)
    ∧ ((after .halt (fromConsole (moving .approach) .halt [])).stc.remembered = some .approach)
    ∧ ((after .halt (fromConsole (moving .docking) .halt [])).stc.remembered = some .docking)
    ∧ ((after .halt (fromConsole (moving .halted) .halt [])).stc.state = .halted)
    ∧ ((after .halt (fromConsole standing .halt [])).stc.haltHold = true) := by
  decide +kernel

/-- HALTED with the halt hold and a remembered state. -/
def haltedWith (m : Remembered) : Dev :=
  let d := moving .halted
  { d with stc := { d.stc with haltHold := true, remembered := some m } }

theorem test_resume :
    (let f := frameOf .resume 20 []; let d := fromConsole (haltedWith .running) .resume []; let e := d.takenIn f [];
      d.passes f [] ∧ f.kind = .resume ∧ e.stc.state = .halted ∧ e.stc.haltHold = true ∧ (∀ x ∈ e.faults, x.kind.cls ≠ .halt)
        ∧ e.stc.abortPending = false ∧ e.odo.standstill = false ∧ e.stc.remembered = some .running
        ∧ (after .resume d).stc.state = .running)
    ∧ (after .resume (fromConsole (haltedWith .approach) .resume [])).stc.state = .approach
    ∧ (after .resume (fromConsole (haltedWith .docking) .resume [])).stc.state = .docking
    ∧ (after .resume (fromConsole (haltedWith .rest) .resume [])).stc.state = .standing
    ∧ ((after .resume (fromConsole (moving .safeStop) .resume [])).counter .resumesRefused).toNat = 1
    ∧ (after .resume (fromConsole standing .resume [])).lif.queue.map (·.payload) = [[2, 0, 0, 2, 15]]
    ∧ (after .resume (fromConsole { haltedWith .running with faults := [⟨.slip, 0, 0, 0, false, true⟩] } .resume [])).stc.state = .halted := by
  decide +kernel

theorem test_abort :
    (let f := frameOf .abort 20 []; let d := fromConsole (moving .running) .abort []; let e := d.takenIn f [];
      d.passes f [] ∧ f.kind = .abort ∧ e.stc.abortPending = false ∧ e.stc.order.isSome = true ∧ e.stc.state = .running
        ∧ e.odo.standstill = false ∧ e.dkc.sub ≠ .unclamping ∧ (after .abort d).stc.abortPending = true)
    ∧ (let d := fromConsole (ordered .halted) .abort []; (after .abort d).stc.state = .standing ∧ (after .abort d).stc.order = none)
    ∧ (let d := fromConsole (ordered .parked) .abort []; (after .abort d).stc.state = .standing)
    ∧ (let o := ordered .parked; let d := fromConsole { o with bdu := { o.bdu with inClampsDown := true, inClampsUp := false } } .abort [];
      (after .abort d).stc.state = .parked)
    ∧ (let o := moving .running; let d := fromConsole { o with stc := { o.stc with abortPending := true } } .abort [];
      ((after .abort d).counter .abortsRefused).toNat = 1)
    ∧ (after .abort (fromConsole standing .abort [])).lif.queue.map (·.payload) = [[3, 0, 0, 2, 14]]
    ∧ (after .abort (fromConsole (ordered .safeStop) .abort [])).lif.queue.map (·.payload) = [[3, 0, 77, 2, 3]] := by
  decide +kernel

/-- A LOCATE in section 2 at an offset in mm. -/
def locatePayload (sec : Byte) (mm : Nat) : List Byte :=
  [sec] ++ beBytes 3 mm ++ [0]

theorem test_locate :
    (let f := frameOf .locate 20 (locatePayload 2 10000); let d := fromConsole standing .locate (locatePayload 2 10000); let e := d.takenIn f [];
      d.passes f [] ∧ f.kind = .locate ∧ f.dest ≠ 0 ∧ e.odo.pos.validity = .unknown ∧ e.odo.standstill = true ∧ e.stc.order = none
        ∧ (findSection e.tmp.sections 2).any (fun r => r.kind == .plain && decide (10000 < r.length)) = true
        ∧ e.tmp.carriage.locateUnc * 1000 < Config.uncertaintyCap ∧ e.cle.table.length + 1 ≤ 8 ∧ e.cle.ok
        ∧ (after .locate d).odo.pos.validity = .restricted ∧ (after .locate d).odo.pos.unc = 2000000
        ∧ (after .locate d).lif.queue.map (·.payload) = [[2, 0x80], [4, 0, 0, 1, 0]] ∧ (after .locate d).stc.state = .standing)
    ∧ (after .locate (fromConsole { standing with stc := { standing.stc with state := .noPosition } } .locate (locatePayload 2 10000))).stc.state
        = .standing
    ∧ (after .locate (fromConsole (ordered .running) .locate (locatePayload 2 10000))).lif.queue.map (·.payload) = [[4, 0, 0, 2, 1]]
    ∧ (after .locate (fromConsole (placed standing) .locate (locatePayload 2 10000))).lif.queue.map (·.payload) = [[4, 0, 0, 2, 17]]
    ∧ (after .locate (fromConsole standing .locate (locatePayload 2 20000))).lif.queue.map (·.payload) = [[4, 0, 0, 2, 18]]
    ∧ (after .locate (fromConsole { standing with odo := { standing.odo with standstill := false } } .locate (locatePayload 2 10000))).lif.queue.map (·.payload)
        = [[4, 0, 0, 2, 7]]
    ∧ (let f : Frame := { frameOf .locate 20 (locatePayload 2 1) with dest := 0 }; let d := mailed standing f [peerOf 20 .console];
      d.passes f [] ∧ ((after .locate d).counter .orderToAll).toNat = 1) := by
  decide +kernel

/-- R63: at a LOCATE in section 2 the HELD sections off the footprint leave the table with one RELEASE, and the pending ABORT clears. -/
theorem test_locate_releases :
    let e := withTable standing [heldClaim 1 none, heldClaim 2 none, heldClaim 3 none]
    let d := fromConsole { e with cle := { e.cle with abortPending := true } } .locate (locatePayload 2 10000); let x := after .locate d
    d.cle.ok ∧ d.cle.table.length + 1 ≤ 8 ∧ d.lif.active = true ∧ d.lif.queue.length + 1 + 2 * 0 + 3 ≤ 8
      ∧ x.cle.table = [heldClaim 2 none] ∧ x.cle.abortPending = false ∧ x.lif.queue.map (·.payload) = [[2, 1, 3], [4, 0, 0, 1, 0]] := by
  decide +kernel

/-- SAFE-STOP with its latch, no order, and a fault of its class. -/
def stopped (stillStanding : Bool) : Dev :=
  { placed standing with
    odo := { (placed standing).odo with standstill := stillStanding }
    stc := { standing.stc with state := .safeStop }
    bdu := { standing.bdu with latchSafeStop := true, traction := false, serviceBrake := true }
    faults := [⟨.slip, 0, 0, 0, false, true⟩, ⟨.overspeed, 0, 0, 0, false, true⟩] }

theorem test_clear_faults :
    (let f := frameOf .clearFaults 20 []; let d := fromConsole (stopped true) .clearFaults []; let e := d.takenIn f [];
      d.passes f [] ∧ f.kind = .clearFaults ∧ e.odo.standstill = true ∧ e.stc.state = .safeStop ∧ e.stc.order = none
        ∧ (after .clearFaults d).stc.state = .standing ∧ (after .clearFaults d).bdu.serviceBrake = false)
    ∧ (let d := fromConsole (stopped false) .clearFaults [];
      (d.takenIn (frameOf .clearFaults 20 []) []).odo.standstill = false ∧ d.lif.hasRoom
        ∧ (after .clearFaults d).faults.map (·.kind) = [.overspeed] ∧ (after .clearFaults d).stc.state = .safeStop
        ∧ (after .clearFaults d).lif.queue.map (·.kind) = [.faultReport]) := by
  decide +kernel

/-- A test that is ON for the console 20. -/
def testing : Dev :=
  { standing with lif := { standing.lif with test := some ⟨20, 1, 3, 2⟩ } }

theorem test_link_test :
    (let f := frameOf .linkTest 20 [1, 0x80, 0]; let d := fromConsole standing .linkTest [1, 0x80, 0]; let e := d.takenIn f [];
      d.passes f [] ∧ f.kind = .linkTest ∧ byteAt f.payload 0 = 1 ∧ e.stc.state = .standing ∧ e.stc.order = none
        ∧ (after .linkTestStart d).lif.test = some ⟨20, BitVec.allOnes 15, 0, 0⟩)
    ∧ (after .linkTestStart (fromConsole (ordered .running) .linkTest [1, 0, 9])).lif.test = none
    ∧ (let f := frameOf .linkTest 20 (2 :: List.replicate 32 0); let d := fromConsole testing .linkTest f.payload;
      d.passes f [] ∧ (d.takenIn f []).lif.test = some ⟨20, 1, 3, 2⟩ ∧ (after .linkTestData d).lif.test.map (·.compared) = some 3)
    ∧ (let f := frameOf .linkTest 20 [3]; let d := fromConsole testing .linkTest [3];
      d.passes f [] ∧ (after .linkTestStop d).lif.queue.map (·.payload) = [[0, 0, 0, 3, 0, 2]] ∧ (after .linkTestStop d).lif.test = none)
    ∧ ((after .linkTestStop (fromConsole standing .linkTest [3])).counter .testIgnored).toNat = 1 := by
  decide +kernel

/-! ### The claim table's timers -/

theorem test_window_expiry :
    (let d := { contending with now := 6000000 }; let c := contender 3 0 (some 6000000);
      d.cle.ok ∧ c ∈ d.cle.table ∧ (∀ p ∈ d.peers, p.waiting = none) ∧ (∀ e ∈ d.cle.table, e ≠ c → e.isHeld = true) ∧ d.lif.hasRoom
        ∧ d.counters.length = Counter.count
        ∧ ((after .windowExpiry d).cle.entry 3).map (·.state) = some (.held .route ⟨false, 0, 1, 5⟩)
        ∧ (after .windowExpiry d).lif.queue.map (·.payload) = [[3, 2]] ∧ after .windowExpiry contending = contending)
    ∧ (let n := Claim.fresh 4 (some 3) none;
      let d := withTable { contending with now := 6000000 } [heldClaim 2 (some 1), contender 3 0 (some 6000000), n];
      d.cle.ok ∧ (d.cle.table.filter (fun e => e.sec != 3)).find? (fun x => x.idx.isSome && !x.isHeld) = some n ∧ n.isWanted = true
        ∧ d.claimingStopped = false ∧ d.blocked 4 = none ∧ d.lif.queue.length + 3 ≤ 8
        ∧ (after .windowExpiry d).lif.queue.map (·.kind) = [.taken, .intent]
        ∧ ((after .windowExpiry { d with peers := [holder 8 [4]] }).cle.entry 4).map (·.state) = some (.blocked 8 .held none)) := by
  decide +kernel

/-- R82: points that become HELD with a leg needed are requested. -/
theorem test_window_expiry_of_points :
    let c : Claim := { contender 4 0 (some 6000000) with legNeeded := some .diverge }
    let d := withTable { contending with now := 6000000 } [heldClaim 2 (some 1), c]
    d.cle.ok ∧ c ∈ d.cle.table ∧ d.isPoints 4 = true ∧ d.lif.active = true ∧ d.lif.queue.length + 2 ≤ 8
      ∧ ((after .windowExpiry d).cle.entry 4).map (fun x => (x.points, x.pointsTimer, x.rerequestTimer))
        = some (.requested, some 11000000, some 6250000)
      ∧ (after .windowExpiry d).lif.queue.map (·.payload) = [[4, 2], [4, 2]] ∧ (after .windowExpiry d).lif.queue.map (·.kind) = [.taken, .pointsRequest] := by
  decide +kernel

/-- The front entry BLOCKED by a peer with its backoff running. -/
def backing : Dev :=
  let c : Claim := { Claim.fresh 3 (some 2) none with state := .blocked 8 .held (some 6000000) }
  { withTable (ordered .running) [heldClaim 2 (some 1), c] with now := 6000000 }

theorem test_claim_backoff :
    (let d := backing;
      d.cle.ok ∧ (d.cle.front).map (·.state) = some (.blocked 8 .held (some 6000000)) ∧ d.claimingStopped = false ∧ d.lif.quiet = false
        ∧ d.blocked 3 = none ∧ d.lif.hasRoom ∧ (after .claimBackoffExpiry d).lif.queue.map (·.payload) = [[3, 2]])
    ∧ (let d := { backing with peers := [holder 8 [3]] };
      d.blocked 3 = some (8, .held) ∧ ((after .claimBackoffExpiry d).cle.front).map (·.state) = some (.blocked 8 .held none))
    ∧ (let d := { backing with lif := { backing.lif with quiet := true } };
      d.claimingStopped = false ∧ ((after .claimBackoffExpiry d).cle.front).map (·.state) = some (.wanted false))
    ∧ (let d := { backing with cle := { backing.cle with abortPending := true } };
      d.claimingStopped = true ∧ (after .claimBackoffExpiry d).cle.entry 3 = none) := by
  decide +kernel

/-- The front entry BLOCKED by carriage 8 with its backoff stopped. -/
def freed (p : PeerRec) : Dev :=
  let c : Claim := { Claim.fresh 3 (some 2) none with state := .blocked 8 .held none }
  { withTable (ordered .running) [heldClaim 2 (some 1), c] with peers := [p] }

/-- R45, R46 and R52 with R66 and R71: the blocker gone, the entry contends; with another blocker it takes that one; with the backoff
running nothing changes. -/
theorem test_view_changed :
    (let d := freed (peerOf 8 .carriage); let c := d.cle.front;
      d.cle.ok ∧ c.map (·.state) = some (.blocked 8 .held none) ∧ d.claimingStopped = false ∧ d.lif.quiet = false ∧ d.blocked 3 = none
        ∧ d.lif.hasRoom ∧ d.onViewChanged.cle.entry 3 = some { Claim.fresh 3 (some 2) none with state := .contending d.currentTicket 0 none }
        ∧ d.onViewChanged.lif.queue.map (·.payload) = [[3, 2]])
    ∧ (let d := freed { peerOf 9 .carriage with intent := some ⟨3, ⟨true, 0, 0, 9⟩, 9000000⟩ };
      d.blocked 3 = some (9, .intent) ∧ (∀ q ∈ d.peers, q.waiting = none)
        ∧ (d.onViewChanged.cle.entry 3).map (·.state) = some (.blocked 9 .intent none))
    ∧ (backing.cle.front.map (·.state) = some (.blocked 8 .held (some 6000000)) ∧ backing.onViewChanged = backing)
    ∧ (let f := frameOf .release 8 [1, 3]; let d := mailed (freed (holder 8 [3])) f [holder 8 [3]];
      d.passes f [] ∧ ((after .release d).cle.entry 3).any Claim.isContending = true)
    ∧ (let d := freed { peerOf 8 .carriage with intent := some ⟨3, ⟨true, 0, 0, 8⟩, 5000000⟩ };
      ((after (.peerIntentExpiry 8) d).cle.entry 3).any Claim.isContending = true)
    ∧ (let r : PeerRec := { holder 8 [3] with freshness := .lost, frozen := true };
      let d := mailed (freed r) (frameOf .freeStation 20 [8]) [r, peerOf 20 .console];
      ((after .freeStation d).cle.entry 3).any Claim.isContending = true) := by
  decide +kernel

theorem test_points_timers :
    let d := withTable (ordered .running) [heldClaim 2 (some 1), pointsClaim .requested]; let c := pointsClaim .requested;
    d.cle.entry c.sec = some c ∧ c.legNeeded = some .diverge ∧ d.due c.pointsTimer = true ∧ d.due c.rerequestTimer = true
      ∧ d.lif.hasRoom ∧ (after (.pointsTimerExpiry 4) d).stc.state = .halted
      ∧ (after (.rerequestTimerExpiry 4) d).lif.queue.map (·.payload) = [[4, 2]] := by
  decide +kernel

/-! ### Supervision -/

/-- Under an order with the evaluation timer run out, at a speed of 100 mm/s. -/
def supervised (st : StationState) : Dev :=
  let d := moving st
  { d with
    odo := { d.odo with history := List.replicate 10 1000 }
    sup := { d.sup with evalTimer := some 5000000, demand := 100 } }

theorem test_evaluation :
    (let d := supervised .running;
      d.due d.sup.evalTimer = true ∧ d.odo.pos.validity ≠ .unknown ∧ d.demandZeroed = false ∧ d.evaluated.band ≠ .overspeed
        ∧ 0 ≤ d.evaluated.dAuth ∧ d.stc.state ≠ .halted ∧ d.evaluated.dStop = none ∧ d.bdu.inClampsUp = true ∧ d.outputsHeld = false
        ∧ d.sup.demand < d.evaluated.target ∧ (after .supervisionEvaluation d).sup.demand = 102
        ∧ (after .supervisionEvaluation d).bdu.duty = 102 ∧ (after .supervisionEvaluation d).sup.dist = 4999
        ∧ (after .supervisionEvaluation d).sup.sd = 55)
    ∧ (let d := supervised .halted;
      d.demandZeroed = false ∧ d.evaluated.target = 0 ∧ (after .supervisionEvaluation d).sup.demand = 96
        ∧ d.evaluated.band ≠ .overspeed ∧ 0 ≤ d.evaluated.dAuth ∧ d.bdu.inClampsUp = true ∧ d.outputsHeld = false
        ∧ (after .supervisionEvaluation d).bdu.demandHanded = 96 ∧ (after .supervisionEvaluation d).bdu.duty = 96)
    ∧ (let d := { standing with sup := { standing.sup with evalTimer := some 1 } };
      d.odo.pos.validity = .unknown ∧ (after .supervisionEvaluation d).sup.skipped = true)
    ∧ (let d := { placed standing with sup := { standing.sup with evalTimer := some 1 } };
      d.stc.order = none ∧ (after .supervisionEvaluation d).sup.dStop = none) := by
  decide +kernel

/-- The same with the reference at an offset of a section and a claim table. -/
def supervisedAt (st : StationState) (sec offset : Nat) (idx : Option Nat) (l : List Claim) : Dev :=
  let d := withTable (supervised st) l
  { d with odo := { d.odo with pos := { d.odo.pos with sec := sec, offset := offset, idx := idx } } }

/-- D_auth, D_stop and D of an evaluation with the chain's length. -/
def authority (d : Dev) : Int × Option Int × Int × Nat :=
  let x := (after .supervisionEvaluation d).sup
  (x.dAuth, x.dStop, x.dist, x.chainLen)

/-- Both route entries HELD. -/
def bothHeld : List Claim :=
  [heldClaim 2 (some 1), heldClaim 3 (some 2)]

theorem test_authority :
    (let d := supervisedAt .running 2 10000000 (some 1) bothHeld;
      d.due d.sup.evalTimer = true ∧ d.odo.pos.validity ≠ .unknown ∧ d.stc.order = some order23 ∧ d.frontCoord route23 = 12001000
        ∧ authority d = (27999, some 25000, 25000, 2))
    ∧ authority (supervisedAt .running 2 10000000 (some 1) [heldClaim 2 (some 1)]) = (4999, none, 4999, 1)
    ∧ authority (supervisedAt .running 2 10000000 (some 1) []) = (0, none, 0, 0)
    ∧ (let d := supervisedAt .running 3 19000000 (some 2) bothHeld;
      d.frontCoord route23 = route23.total ∧ authority d = (0, some (-4000), -4000, 0))
    ∧ (let d := supervisedAt .running 1 1000000 none bothHeld; d.frontCoord route23 < 0 ∧ authority d = (0, none, 0, 0))
    ∧ (let d := supervisedAt .docking 3 14000000 (some 2) bothHeld; let e := { d with dkc := { d.dkc with sub := .correct } };
      e.dkc.sub = .correct ∧ authority e = (0, some 1000, 1000, 0)) := by
  decide +kernel

/-- v_perm and its binding. -/
def permitted (d : Dev) : Nat × Binding :=
  let x := (after .supervisionEvaluation d).sup
  (x.vPerm, x.binding)

/-- The same map with a speed limit in each of its plain sections. -/
def limited (d : Dev) (near far : Nat) : Dev :=
  { d with tmp := { d.tmp with sections := d.tmp.sections.map (fun r =>
      { r with speedLimit := if r.number = 3 then far else near }) } }

theorem test_permitted_speed :
    (let d := supervisedAt .running 2 10000000 (some 1) bothHeld;
      d.dkc.sub ≠ .correct ∧ permitted d = (1000, .line) ∧ (after .supervisionEvaluation d).sup.target = 400
        ∧ permitted (limited d 600 600) = (600, .sectionLimit) ∧ permitted (limited (supervisedAt .running 2 16000000 (some 1) bothHeld) 1000 100)
          = (893, .limitCurve 3))
    ∧ permitted (supervisedAt .running 2 14000000 (some 1) [heldClaim 2 (some 1)]) = (622, .curve)
    ∧ permitted (supervisedAt .running 3 12000000 (some 2) bothHeld) = (434, .approachCurve)
    ∧ permitted (supervisedAt .approach 2 10000000 (some 1) bothHeld) = (25, .creep)
    ∧ (after .supervisionEvaluation (supervisedAt .docking 2 10000000 (some 1) bothHeld)).sup.target = 0 := by
  decide +kernel

/-- R89, R94 and R107: OVERSPEED at 2,000 mm/s is raised before the hand-over, which then carries the demand 0. -/
theorem test_overspeed_stops :
    let e := supervisedAt .running 2 10000000 (some 1) bothHeld
    let d := { e with odo := { e.odo with history := List.replicate 10 20000, standstill := false }, sup := { e.sup with demand := 300 } }
    let x := after .supervisionEvaluation d
    d.due d.sup.evalTimer = true ∧ d.odo.pos.validity ≠ .unknown ∧ d.demandZeroed = false ∧ d.evaluated.band = .overspeed ∧ d.faults = []
      ∧ x.faultActive .overspeed = true ∧ x.stc.state = .safeStop ∧ x.bdu.demandHanded = 0 ∧ x.bdu.duty = 0 ∧ x.bdu.latchSafeStop = true := by
  decide +kernel

/-- At the approach distance from the pad, at 20 mm/s. -/
def approaching (st : StationState) : Dev :=
  let d := supervisedAt st 3 12500000 (some 2) bothHeld
  { d with odo := { d.odo with history := List.replicate 10 200 }, stc := { d.stc with remembered := some .running } }

theorem test_entry_into_approach :
    (let d := approaching .running;
      d.bdu.inClampsUp = true ∧ d.evaluated.band ≠ .overspeed ∧ 0 ≤ d.evaluated.dAuth ∧ d.evaluated.dStop = some 2500
        ∧ (2500 : Int) ≤ (d.tmp.carriage.approach : Int) ∧ (after .supervisionEvaluation d).stc.state = .approach
        ∧ (after .supervisionEvaluation d).dkc.sub = .creep
        ∧ (after .supervisionEvaluation { d with dkc := { d.dkc with anchored := true } }).dkc.sub = .stopping)
    ∧ (let d := approaching .halted;
      d.evaluated.band ≠ .overspeed ∧ 0 ≤ d.evaluated.dAuth ∧ d.evaluated.dStop = some 2500
        ∧ (after .supervisionEvaluation d).stc.remembered = some .approach ∧ (after .supervisionEvaluation d).dkc.sub = .creep) := by
  decide +kernel

/-! ### Brakes and drive -/

theorem test_train_watch :
    let d := { standing with bdu := { standing.bdu with trainTimer := some 1, trainRunning := true, trainLevel := true } };
    d.due d.bdu.trainTimer = true ∧ (after .trainWatchExpiry d).bdu.trainLevel = false := by
  decide +kernel

theorem test_brake_inputs :
    (let d := moving .running;
      d.bdu.active = true ∧ d.bdu.inLocalStop = false ∧ (after (.localStopChange true) d).stc.state = .halted
        ∧ d.bdu.inDriveReady = !false ∧ (after (.driveReadyChange false) d).bdu.serviceBrake = true
        ∧ (after (.driveReadyChange false) d).stc.state = .running)
    ∧ (let d := { standing with bdu := { standing.bdu with inLocalStop := true, srcLocalStop := true, serviceBrake := true } };
      d.bdu.inLocalStop = true ∧ (after (.localStopChange false) d).bdu.serviceBrake = false)
    ∧ (Dev.reset.bdu.active = false ∧ (after (.localStopChange true) Dev.reset).bdu.inLocalStop = true) := by
  decide +kernel

theorem test_supply_low :
    (let d := moving .running;
      d.bdu.active = true ∧ d.bdu.inSupplyLow = false ∧ d.bdu.latchSupplyLow = false
        ∧ (after (.supplyMonitorChange true) d).bdu.traction = false ∧ (after (.supplyMonitorChange true) d).stc.state = .halted)
    ∧ (let d := { standing with bdu := { standing.bdu with inSupplyLow := true, latchSupplyLow := true } };
      d.bdu.inSupplyLow = true ∧ (after (.supplyMonitorChange false) d).bdu.latchSupplyLow = true) := by
  decide +kernel

/-! ### Docking -/

/-- The carriage in a docking sub-state with both clamp sensors inactive. -/
def docking (st : StationState) (sub : DockState) : Dev :=
  let d := ordered st
  { d with
    bdu := { d.bdu with inClampsUp := false, clampDown := sub == .clamping, clampUp := sub == .unclamping, traction := false }
    dkc := { d.dkc with sub := sub, clampTimer := some 1, corrTimer := some 1, watchTimer := some 1 } }

theorem test_clamp_sensors :
    (let d := moving .running;
      d.bdu.active = true ∧ d.bdu.inClampsDown = false ∧ d.dkc.sub = .idle
        ∧ (after (.clampSensorChange .down true) d).faultActive .clampSensor = true)
    ∧ (let d := docking .docking .clamping;
      d.bdu.inClampsUp = false ∧ d.bdu.inClampsDown = false ∧ d.dkc.sub ≠ .unclamping
        ∧ (after (.clampSensorChange .up true) d).dkc.watchTimer = none)
    ∧ (Dev.reset.bdu.active = false ∧ (after (.clampSensorChange .down true) Dev.reset).bdu.inClampsDown = true)
    ∧ (let m := moving .running; let d := { m with bdu := { m.bdu with duty := 1 } };
      d.bdu.inClampsUp = true ∧ d.dkc.sub ≠ .clamping ∧ d.bdu.duty ≠ 0 ∧ d.bdu.latchClampsNotUp = false
        ∧ (after (.clampSensorChange .up false) d).bdu.latchClampsNotUp = true
        ∧ (after (.clampSensorChange .up false) d).faultActive .clampSensor = true
        ∧ (after (.clampSensorChange .up false) m).bdu.latchClampsNotUp = false)
    ∧ (let d := { standing with bdu := { standing.bdu with inClampsDown := true, traction := false } };
      d.bdu.inClampsDown = true ∧ d.dkc.sub ≠ .unclamping ∧ (after (.clampSensorChange .down false) d).bdu.traction = true) := by
  decide +kernel

theorem test_clamps_complete :
    (let d := docking .docking .clamping;
      d.bdu.active = true ∧ d.bdu.inClampsDown = false ∧ d.bdu.inClampsUp = false ∧ d.dkc.sub = .clamping ∧ d.dkc.abortTaken = false
        ∧ d.stc.state = .docking ∧ d.stc.order = some order23 ∧ (after (.clampSensorChange .down true) d).stc.state = .parked
        ∧ (after (.clampSensorChange .down true) d).stc.lastOrder = ⟨77, some .arrived, none⟩)
    ∧ (let d := docking .parked .unclamping;
      d.dkc.sub = .unclamping ∧ d.stc.state = .parked ∧ d.stc.haltHold = false
        ∧ (after (.clampSensorChange .up true) d).stc.state = .running)
    ∧ (let o := docking .parked .unclamping; let d := { o with stc := { o.stc with haltHold := true } };
      d.stc.haltHold = true ∧ (after (.clampSensorChange .up true) d).stc.remembered = some .running)
    ∧ (let o := docking .docking .clamping; let d := { o with bdu := { o.bdu with inClampsDown := true, inClampsUp := true } };
      d.bdu.duty = 0 ∧ (after (.clampSensorChange .up false) d).stc.state = .parked)
    ∧ (let o := docking .parked .unclamping; let d := { o with bdu := { o.bdu with inClampsDown := true, inClampsUp := true } };
      (after (.clampSensorChange .down false) d).stc.state = .running) := by
  decide +kernel

/-- The carriage standing near its pad, in mm from the start of section 3, in a docking sub-state with corrections made. -/
def atPad (st : StationState) (sub : DockState) (mm corrections : Nat) : Dev :=
  let d := withTable (ordered st) bothHeld
  { d with
    odo := { d.odo with pos := { d.odo.pos with sec := 3, offset := mm * 1000, idx := some 2 } }
    dkc := { d.dkc with sub := sub, corrections := corrections, motionSeen := true } }

theorem test_stop_check :
    (let d := atPad .approach .stopping 15003 0;
      d.stc.order = some order23 ∧ d.odo.standstill = true ∧ d.dkc.abortTaken = false ∧ d.dkc.sub = .stopping ∧ d.stc.state = .approach
        ∧ d.refCoord route23 - route23.padCoord = 3000 ∧ d.dockStandstill.dkc.sub = .clamping ∧ d.dockStandstill.stc.state = .docking)
    ∧ (let d := atPad .docking .correct 15006 1;
      findPad d.tmp.pads 7 = some ⟨7, 3, .plain, 15000⟩ ∧ d.dockStandstill.dkc.sub = .correct ∧ d.dockStandstill.dkc.corrections = 2
        ∧ d.dockStandstill.odo.pos.dir = .towardA)
    ∧ (atPad .docking .check 15006 2).dockStandstill.dkc.last = .failed .checksExhausted
    ∧ (withTable (atPad .docking .check 15006 0) [heldClaim 2 (some 1)]).dockStandstill.dkc.last = .failed .outsideHeld := by
  decide +kernel

theorem test_creep_at_standstill :
    (let a := atPad .approach .creep 15000 0; let d := { a with dkc := { a.dkc with dStop := some 3 } };
      d.dkc.sub = .creep ∧ d.stc.state = .approach ∧ d.dockStandstill.dkc.last = .failed .padNotSeen
        ∧ ({ a with dkc := { a.dkc with dStop := some 6 } } : Dev).dockStandstill.stc.state = .approach)
    ∧ (let d := moving .docking; d.odo.standstill = false ∧ d.dkc.abortTaken = false) := by
  decide +kernel

theorem test_dock_timers :
    (let d := docking .docking .clamping;
      d.stc.order = some order23 ∧ d.dkc.sub = .clamping ∧ d.due d.dkc.clampTimer = true ∧ d.stc.state ∈ [.running, .approach, .docking]
        ∧ (after .clampTimerExpiry d).stc.lastOrder = ⟨77, some .failed, some .clampTimeout⟩)
    ∧ ((after .clampTimerExpiry (docking .parked .unclamping)).stc.state = .standing)
    ∧ (let d := docking .docking .correct;
      d.dkc.sub = .correct ∧ d.due d.dkc.corrTimer = true ∧ (after .correctionWatchExpiry d).dkc.last = .failed .correctionTimeout)
    ∧ (let d := docking .running .idle;
      d.due d.dkc.watchTimer = true ∧ (after .clampWatchExpiry d).dkc.watchTimer = some 25000000) := by
  decide +kernel

/-! ### The maintenance port -/

theorem test_port :
    (WindowTable.ofCode (3 : Byte).toNat = some .map ∧ (1 : Byte).toNat ≤ 1 ∧ WindowTable.ofCode (4 : Byte).toNat = none
      ∧ 1 < (2 : Byte).toNat ∧ (after (.setWindow 4 0 0) standing).mnp.output = [3] ∧ (after (.setWindow 1 0 2) standing).mnp.output = [3])
    ∧ (let d := withTable { standing with mnp := { Mnp.reset with table := .claim, index := 1, auto := true } } [heldClaim 2 none];
      ((d.windowRecords .claim)[1]?).isSome = true ∧ (after .readWindow d).mnp.index = 2)
    ∧ (let d := { standing with mnp := { Mnp.reset with table := .claim, index := 9 } };
      (d.windowRecords .claim)[9]? = none ∧ (after .readWindow d).mnp.output = [0, 1, 0, 9, 0]) := by
  decide +kernel

/-- A transaction's bytes give its command; what follows the output bytes is zeros. -/
theorem test_port_command :
    portCommand [2, 9] = .readIdent ∧ portCommand [4, 1, 0, 9, 1] = .setWindow 1 9 1 ∧ portCommand [4, 1, 0] = .badCommand
      ∧ portCommand [7] = .badCommand ∧ portCommand [] = .badCommand
      ∧ portTransaction [3] 229 = [.readCounters, .readCountersComplete] ∧ portTransaction [3] 228 = [.readCounters]
      ∧ (after .readIdent standing).shiftedOut 6 = [0, 0x41, 0x1A, 0x03, 0, 0] := by
  decide +kernel

theorem test_counters :
    let d := { (standing.bump .goodFrames) with mnp := { Mnp.reset with reported := some (List.replicate 114 0) } };
    d.mnp.reported = some (List.replicate 114 0) ∧ d.counters.length = Counter.count ∧ (List.replicate 114 0).length = Counter.count
      ∧ ((after .readCountersComplete d).counter .goodFrames).toNat = 1 ∧ Mnp.reset.reported = none := by
  decide +kernel

/-- BOOT-HOLD with a boot write. -/
def holding (w : Option BootWrite) : Dev :=
  { Dev.afterReset true with mnp := { Mnp.reset with write := w, writeTimer := some 0 } }

theorem test_boot_write :
    (standing.stc.state ≠ .bootHold ∧ (after (.writeBoot 511 [1]) standing).mnp.output = [1])
    ∧ (let w : BootWrite := ⟨511, .inProgress, [1]⟩; let d := holding (some w);
      d.stc.state = .bootHold ∧ d.mnp.write = some w ∧ w.ending = .inProgress ∧ d.due d.mnp.writeTimer = true
        ∧ (after (.writeBoot 511 [1]) d).mnp.output = [2] ∧ (after (.bootWriteReadback [1]) d).mnp.write = some ⟨511, .done, []⟩
        ∧ (after (.bootWriteReadback [2]) d).mnp.write = some ⟨511, .mismatch, []⟩
        ∧ (after .bootWriteTimeout d).mnp.write = some ⟨511, .noResponse, []⟩)
    ∧ (let d := holding none;
      511 < (512 : BitVec 16).toNat ∧ (after (.writeBoot 512 [1]) d).mnp.output = [4] ∧ (after (.writeBoot 511 [1]) d).mnp.output = [0]) := by
  decide +kernel

/-! ### Properties of every step -/

theorem test_tickets_differ : (⟨false, 0, 0, 1⟩ : Ticket).station ≠ (⟨false, 0, 0, 2⟩ : Ticket).station := by
  decide

theorem test_invariants_met :
    let d := fromConsole (moving .running) .halt [];
    d.lineOk ∧ d.claimsOk ∧ d.faultsOk ∧ d.peersOk ∧ d.outputsOk ∧ d.lineFollows ∧ d.demandOk ∧ (after .halt d).outputsOk := by
  decide +kernel

end Sys2Proof.Tests
end

/-! SUPPORT. The step and the passage of time (R1, log 2): every timer of the part beside its expiry command, and the queue of an
idle step as the commands of those timers that have run out. -/

namespace Sys2Proof.Machine

/-! ### The step, by whether a command waits -/

theorem step_of_pending {s : State} {i : Instr} {rest : List Instr} (h : s.pending = i :: rest) :
    step s = exec i { s with pending := rest } := by
  simp only [step, h]

theorem step_of_idle {s : State} (h : s.pending = []) : step s = .next s.tick := by
  simp only [step, h]

/-! ### Timers that have run out -/

theorem Dev.due_iff {d : Dev} {t : Timer} : d.due t = true ↔ ∃ n, t = some n ∧ n ≤ d.now := by
  cases t with
  | none => simp
  | some n => simp [Dev.due_some]

theorem Dev.mem_dueCommand {d : Dev} {t : Timer} {i j : Instr} : i ∈ d.dueCommand t j ↔ i = j ∧ d.due t = true := by
  unfold Dev.dueCommand
  split <;> simp_all

/-- The commands of those timers of a list that have run out, in the list's order. -/
def Dev.expired (d : Dev) (timers : List (Timer × Instr)) : List Instr :=
  timers.flatMap fun p => d.dueCommand p.1 p.2

theorem Dev.mem_expired {d : Dev} {timers : List (Timer × Instr)} {i : Instr} :
    i ∈ d.expired timers ↔ ∃ t n, (t, i) ∈ timers ∧ t = some n ∧ n ≤ d.now := by
  simp only [Dev.expired, List.mem_flatMap, Prod.exists, Dev.mem_dueCommand, Dev.due_iff]
  constructor
  · rintro ⟨t, _, hmem, rfl, n, hrun⟩
    exact ⟨t, n, hmem, hrun⟩
  · rintro ⟨t, n, hmem, hrun⟩
    exact ⟨t, i, hmem, rfl, n, hrun⟩

theorem Dev.expired_append (d : Dev) (l m : List (Timer × Instr)) : d.expired (l ++ m) = d.expired l ++ d.expired m :=
  List.flatMap_append

theorem Dev.expired_cons (d : Dev) (t : Timer) (i : Instr) (l : List (Timer × Instr)) :
    d.expired ((t, i) :: l) = d.dueCommand t i ++ d.expired l :=
  List.flatMap_cons

@[simp] theorem Dev.expired_nil (d : Dev) : d.expired [] = [] := rfl

theorem Dev.expired_flatMap {α : Type} (d : Dev) (l : List α) (timersOf : α → List (Timer × Instr)) :
    d.expired (l.flatMap timersOf) = l.flatMap fun a => d.expired (timersOf a) :=
  List.flatMap_assoc

/-! ### Every timer of the part with its command -/

/-- The timers of the blocks that have one each, the boot write's left out: the model queues that one last (log 2). -/
def Dev.blockTimers (d : Dev) : List (Timer × Instr) :=
  [(d.btl.blockTimer, .blockTimerExpiry), (d.odo.sampleTimer, .odometrySample), (d.sup.evalTimer, .supervisionEvaluation),
    (d.bdu.trainTimer, .trainWatchExpiry), (d.dkc.clampTimer, .clampTimerExpiry), (d.dkc.corrTimer, .correctionWatchExpiry),
    (d.dkc.watchTimer, .clampWatchExpiry), (d.stc.listenTimer, .listenTimerExpiry), (d.lif.backoffTimer, .backoffExpiry),
    (d.lif.beaconTimer, .beaconTimerExpiry), (d.lif.quietTimer, .lineQuietExpiry), (d.cle.windowTimer, .windowExpiry),
    (d.cle.backoffTimer, .claimBackoffExpiry)]

/-- The timers of an entry of the claim table (R82). -/
def Claim.timers (c : Claim) : List (Timer × Instr) :=
  [(c.pointsTimer, .pointsTimerExpiry c.sec), (c.rerequestTimer, .rerequestTimerExpiry c.sec)]

/-- The timers of a peer record (R46, R50, R51). -/
def Dev.peerTimers (d : Dev) (r : PeerRec) : List (Timer × Instr) :=
  [(r.intentTimer, .peerIntentExpiry r.station), (d.staleTimer r, .peerStale r.station), (d.lostTimer r, .peerLost r.station)]

/-- Every timer of the part, in the order in which the model queues the commands (log 2). -/
def Dev.timers (d : Dev) : List (Timer × Instr) :=
  d.blockTimers ++ d.cle.table.flatMap Claim.timers ++ d.peers.flatMap d.peerTimers ++ [(d.mnp.writeTimer, .bootWriteTimeout)]

theorem Dev.expired_claimTimers (d : Dev) (c : Claim) : d.expired c.timers = d.dueOfClaim c := by
  simp [Claim.timers, Dev.expired_cons, Dev.dueOfClaim]

theorem Dev.expired_peerTimers (d : Dev) (r : PeerRec) : d.expired (d.peerTimers r) = d.dueOfPeer r := by
  simp [Dev.peerTimers, Dev.expired_cons, Dev.dueOfPeer]

theorem Dev.expired_timers (d : Dev) : d.expired d.timers = d.dueCommands := by
  simp [Dev.timers, Dev.blockTimers, Dev.expired_append, Dev.expired_cons, Dev.expired_flatMap, Dev.expired_claimTimers,
    Dev.expired_peerTimers, Dev.dueCommands]

theorem Dev.mem_dueCommands {d : Dev} {i : Instr} :
    i ∈ d.dueCommands ↔ ∃ t n, (t, i) ∈ d.timers ∧ t = some n ∧ n ≤ d.now := by
  rw [← Dev.expired_timers, Dev.mem_expired]

/-! ### The timers that depend on an entry's or a record's state -/

/-- The window of an entry: its own while it is CONTENDING, else stopped (R67). -/
def Claim.window (c : Claim) : Timer :=
  match c.state with
  | .contending _ _ w => w
  | .wanted _ | .blocked _ _ _ | .held _ _ => none

/-- The backoff of an entry: its own while it is BLOCKED, else stopped (R68). -/
def Claim.backoff (c : Claim) : Timer :=
  match c.state with
  | .blocked _ _ w => w
  | .wanted _ | .contending _ _ _ | .held _ _ => none

theorem Cle.windowTimer_eq (c : Cle) : c.windowTimer = (c.table.find? Claim.isContending).bind Claim.window := by
  unfold Cle.windowTimer
  cases c.table.find? Claim.isContending with
  | none => rfl
  | some e => rcases e with ⟨_, _, _ | _ | _ | _⟩ <;> rfl

theorem Cle.backoffTimer_eq (c : Cle) : c.backoffTimer = c.front.bind Claim.backoff := by
  unfold Cle.backoffTimer Cle.frontState
  cases c.front with
  | none => rfl
  | some e => rcases e with ⟨_, _, _ | _ | _ | _⟩ <;> rfl

theorem Dev.staleTimer_eq (d : Dev) (r : PeerRec) :
    d.staleTimer r = if r.freshness = .fresh then some (r.heardAt + 3 * d.tmp.plan.beaconPeriod * 1000) else none := by
  simp only [Dev.staleTimer, beq_iff_eq]

theorem Dev.lostTimer_eq (d : Dev) (r : PeerRec) :
    d.lostTimer r = if r.freshness = .lost then none else some (r.heardAt + d.tmp.plan.lostTime * 1000) := by
  simp only [Dev.lostTimer, beq_iff_eq]

/-- Settles O1: the step is `exec` or `State.tick` by the queue, and the statement's list of timers is `Dev.timers` with the boot
write's timer at another place. -/
theorem stepRunsFrontCommand : Obligations.StepRunsFrontCommand := by
  refine ⟨fun c s rest h => step_of_pending h, fun s h => ?_⟩
  intro d window backoff ofClaim ofPeer timers
  have hwindow : window = d.cle.windowTimer := (Cle.windowTimer_eq d.cle).symm
  have hbackoff : backoff = d.cle.backoffTimer := (Cle.backoffTimer_eq d.cle).symm
  have hclaim : ofClaim = Claim.timers := rfl
  have hpeer : ofPeer = d.peerTimers := by
    funext r
    simp only [ofPeer, Dev.peerTimers, Dev.staleTimer_eq, Dev.lostTimer_eq, PeerRec.intentTimer]
  have htimers : timers = d.blockTimers ++ [(d.mnp.writeTimer, .bootWriteTimeout)] ++ d.cle.table.flatMap Claim.timers
      ++ d.peers.flatMap d.peerTimers := by
    simp only [timers, hwindow, hbackoff, hclaim, hpeer, Dev.blockTimers, List.cons_append, List.nil_append]
  have hmem (p : Timer × Instr) : p ∈ timers ↔ p ∈ d.timers := by
    simp only [htimers, Dev.timers, List.mem_append]
    tauto
  refine ⟨d.dueCommands, step_of_idle h, fun i => ?_⟩
  simp only [hmem, Dev.mem_dueCommands]

end Sys2Proof.Machine

/-! SUPPORT. The Peer Table and the view-changed event (R40, R45, R55, R66): what changing a record does to the table, which
operations of the other blocks leave the table as it is, and what the examination makes of a BLOCKED front entry. -/

namespace Sys2Proof.Machine

/-! ### Records of the peer table (R40) -/

theorem Dev.peer_station {d : Dev} {n : Nat} {r : PeerRec} (h : d.peer n = some r) : r.station = n := by
  simpa using List.find?_some h

theorem Dev.peer_mem {d : Dev} {n : Nat} {r : PeerRec} (h : d.peer n = some r) : r ∈ d.peers := List.mem_of_find?_eq_some h

theorem Dev.peer_congr {d e : Dev} (h : e.peers = d.peers) (n : Nat) : e.peer n = d.peer n := by
  rw [Dev.peer, h, Dev.peer]

/-- A change of a record is seen at its station alone. -/
theorem Dev.peer_setPeer (d : Dev) (r : PeerRec) (n : Nat) :
    (d.setPeer r).peer n = (d.peer n).map (fun x => if x.station = r.station then r else x) := by
  have htest : (fun x : PeerRec => x.station == n) ∘ (fun x => if x.station = r.station then r else x) = fun x => x.station == n := by
    funext x
    simp only [Function.comp]
    split
    · next hs => rw [hs]
    · rfl
  rw [Dev.peer, Dev.setPeer_peers, List.find?_map, htest, Dev.peer]

theorem Dev.peer_setPeer_same {d : Dev} {r x : PeerRec} (h : d.peer r.station = some x) : (d.setPeer r).peer r.station = some r := by
  rw [Dev.peer_setPeer, h, Option.map_some, if_pos (Dev.peer_station h)]

theorem Dev.peer_setPeer_ne (d : Dev) (r : PeerRec) {n : Nat} (h : n ≠ r.station) : (d.setPeer r).peer n = d.peer n := by
  rw [Dev.peer_setPeer]
  cases hn : d.peer n with
  | none => rfl
  | some x => rw [Option.map_some, if_neg (Dev.peer_station hn ▸ h)]

/-- Of two changes of one station's record the second stands. -/
theorem Dev.setPeer_setPeer (d : Dev) {r r' : PeerRec} (h : r'.station = r.station) : (d.setPeer r).setPeer r' = d.setPeer r' := by
  unfold Dev.setPeer
  simp only [List.map_map]
  congr 2
  funext x
  simp only [Function.comp]
  split <;> simp_all

/-- The table has one record for a station (R40). -/
theorem Dev.peer_unique {d : Dev} (hok : d.peersOk) {n : Nat} {r x : PeerRec} (h : d.peer n = some r) (hx : x ∈ d.peers)
    (hs : x.station = n) : x = r :=
  List.inj_on_of_nodup_map (hok.imp Nat.ne_of_lt) hx (Dev.peer_mem h) (hs.trans (Dev.peer_station h).symm)

/-- A record that stays a FRESH FOREIGN carriage, or none, leaves the count of R49. -/
theorem Dev.foreignCount_setPeer {d : Dev} (hok : d.peersOk) {r r' : PeerRec} (h : d.peer r'.station = some r)
    (hk : r'.kind = r.kind) (hf : r'.foreign = r.foreign) (hr : r'.freshness = r.freshness) :
    (d.setPeer r').foreignCount = d.foreignCount := by
  unfold Dev.foreignCount
  rw [Dev.setPeer_peers, List.filter_map, List.length_map]
  congr 1
  refine List.filter_congr fun x hx => ?_
  simp only [Function.comp]
  split
  · next hs => rw [Dev.peer_unique hok h hx hs, hk, hf, hr]
  · rfl

theorem Dev.foreignChanged_same (d : Dev) : d.foreignChanged d.foreignCount = d := by
  unfold Dev.foreignChanged
  split
  · next h =>
    simp only [Bool.and_eq_true, decide_eq_true_eq] at h
    omega
  · split
    · next h =>
      simp only [Bool.and_eq_true, decide_eq_true_eq] at h
      omega
    · rfl

/-! ### What leaves the peer table as it is -/

/-- Queuing a frame changes the Line Interface and the counters alone (R173). -/
theorem Dev.enqueue_changes (d : Dev) (k : FrameKind) (dst : Nat) (b : List Byte) (t : Option Nat) :
    ∃ (l : Lif) (cs : List (BitVec 16)), (d.enqueue k dst b t).1 = { d with lif := l, counters := cs } := by
  unfold Dev.enqueue
  simp only
  split
  · exact ⟨_, _, rfl⟩
  · split
    · exact ⟨_, _, rfl⟩
    · split
      · exact ⟨_, _, rfl⟩
      · split <;> exact ⟨_, _, rfl⟩

@[simp] theorem Dev.enqueue_peers (d : Dev) (k : FrameKind) (dst : Nat) (b : List Byte) (t : Option Nat) :
    (d.enqueue k dst b t).1.peers = d.peers := by
  obtain ⟨l, cs, h⟩ := d.enqueue_changes k dst b t
  rw [h]

@[simp] theorem Dev.stopTrain_peers (d : Dev) : d.stopTrain.peers = d.peers := by
  unfold Dev.stopTrain
  split <;> rfl

@[simp] theorem Dev.setLatch_peers (d : Dev) (l : Latch) : (d.setLatch l).peers = d.peers := by
  unfold Dev.setLatch
  split <;> simp

@[simp] theorem Dev.enterState_peers (d : Dev) (s : StationState) : (d.enterState s).peers = d.peers := by
  unfold Dev.enterState
  simp only
  split <;> split <;> simp

namespace Inner

/-- No operation that the blocks share changes a peer record. -/
theorem peersAre (ps : List PeerRec) : Inner fun d => d.peers = ps where
  counters _ h := h
  freeCount _ h := h
  enqueue _ _ _ _ h := (Dev.enqueue_peers ..).trans h
  withdraw _ h := h
  faults _ _ h := h
  cle _ _ _ h := h
  odo _ _ _ h := h
  place _ h := h
  orderSpeed h := h
  dkc _ _ h := h
  stc _ _ h := h
  settle h := h
  zeroDemand h := h
  stopTrain h := (Dev.stopTrain_peers _).trans h
  setLatch _ h := (Dev.setLatch_peers ..).trans h
  clamps _ _ _ h := h
  turn _ _ h := h
  enterState _ h := (Dev.enterState_peers ..).trans h

theorem foreignChanged {P : Dev → Prop} (h : Inner P) {d : Dev} (n : Nat) (hd : P d) : P (d.foreignChanged n) :=
  ite_keeps (fun _ => h.raise _ hd) (fun _ => ite_keeps (fun _ => h.causeEnded _ hd) (fun _ => hd))

end Inner

@[simp] theorem Dev.endDeadlock_peers (d : Dev) : d.endDeadlock.peers = d.peers := (Inner.peersAre d.peers).endDeadlock rfl

@[simp] theorem Dev.onViewChanged_peers (d : Dev) : d.onViewChanged.peers = d.peers := (Inner.peersAre d.peers).onViewChanged rfl

@[simp] theorem Dev.onFreshness_peers (d : Dev) (r : PeerRec) : (d.onFreshness r).peers = d.peers :=
  (Inner.peersAre d.peers).onFreshness r rfl

@[simp] theorem Dev.foreignChanged_peers (d : Dev) (n : Nat) : (d.foreignChanged n).peers = d.peers :=
  (Inner.peersAre d.peers).foreignChanged n rfl

@[simp] theorem Intake.news_peers (i : Intake) (d : Dev) (n : Nat) : (i.news d n).peers = d.peers := by
  unfold Intake.news
  split
  · split <;> simp
  · rfl

/-! ### Entries of the claim table -/

theorem Cle.entry_congr {c c' : Cle} (h : c'.table = c.table) (n : Nat) : c'.entry n = c.entry n := by
  rw [Cle.entry, h, Cle.entry]

/-- The front entry is its section's only entry (R57). -/
theorem Cle.entry_front {c : Cle} (hok : c.ok) {e : Claim} (h : c.front = some e) : c.entry e.sec = some e := by
  have hmem := Cle.front_mem h
  cases hentry : c.entry e.sec with
  | none => exact absurd (List.find?_eq_none.1 hentry e hmem) (by simp)
  | some x =>
    obtain ⟨hx, hs⟩ := Cle.entry_mem hentry
    rw [Cle.sec_inj hok hx hmem hs]

theorem Cle.entry_update {c : Cle} {n : Nat} {e : Claim} {f : Claim → Claim} (hs : ∀ x, (f x).sec = x.sec) (h : c.entry n = some e) :
    (c.update n f).entry n = some (f e) := by
  have hn := (Cle.entry_mem h).2
  unfold Cle.entry at h ⊢
  have htest : (fun x : Claim => x.sec == n) ∘ (fun x => if x.sec = n then f x else x) = fun x => x.sec == n := by
    funext x
    simp only [Function.comp]
    split <;> simp [hs]
  rw [Cle.update, List.find?_map, htest, h, Option.map_some, if_pos hn]

/-- A change of the front entry's state alone, seen at its section. -/
theorem Dev.updateClaim_state {d : Dev} {c : Claim} (hok : d.cle.ok) (hc : d.cle.front = some c) (st : ClaimState) :
    (d.updateClaim c.sec (fun e => { e with state := st })).cle.entry c.sec = some { c with state := st } :=
  Cle.entry_update (fun _ => rfl) (Cle.entry_front hok hc)

theorem Dev.dropClaims_entry (d : Dev) (n : Nat) : (d.dropClaims (fun e => e.sec == n)).cle.entry n = none := by
  refine List.find?_eq_none.2 fun x hx => ?_
  rw [Dev.dropClaims, Dev.tidyDeadlock_table] at hx
  simpa using (List.mem_filter.1 hx).2

@[simp] theorem Dev.tidyDeadlock_lif (d : Dev) : d.tidyDeadlock.lif = d.lif := by
  unfold Dev.tidyDeadlock Dev.causeEnded
  split
  · split <;> rfl
  · rfl

@[simp] theorem Dev.tidyDeadlock_gathering (d : Dev) : d.tidyDeadlock.cle.gathering = d.cle.gathering := by
  unfold Dev.tidyDeadlock
  split <;> simp

/-! ### One event of the Claim Engine (R81) -/

/-- The part at the start of an event: nothing released yet. -/
def Dev.gatheringNone (d : Dev) : Dev :=
  { d with cle := { d.cle with gathering := some [] } }

@[simp] theorem Dev.sendRelease_nil (d : Dev) : d.sendRelease [] = d := rfl

@[simp] theorem Dev.sendRelease_table (d : Dev) (secs : List Nat) : (d.sendRelease secs).cle.table = d.cle.table := by
  unfold Dev.sendRelease
  split <;> simp

/-- The RELEASE at an event's end leaves the claim table as the event's action left it. -/
theorem Dev.event_table (act : Dev → Dev) (d : Dev) : (Dev.event act d).cle.table = (act d.gatheringNone).cle.table := by
  simp only [Dev.event, Dev.sendRelease_table]
  rfl

theorem Dev.event_entry (act : Dev → Dev) (d : Dev) (n : Nat) : (Dev.event act d).cle.entry n = (act d.gatheringNone).cle.entry n :=
  Cle.entry_congr (Dev.event_table act d) n

/-- An event that has released nothing ends with its action. -/
theorem Dev.event_of_gathered_nil {act : Dev → Dev} {d : Dev} (h : (act d.gatheringNone).cle.gathering = some []) :
    Dev.event act d = { act d.gatheringNone with cle := { (act d.gatheringNone).cle with gathering := d.cle.gathering } } := by
  have hnone : (act d.gatheringNone).cle.gathered = [] := by simp [Cle.gathered, h]
  unfold Dev.event
  simp only [Dev.gatheringNone] at hnone ⊢
  simp [hnone]

/-! ### A mutual wait needs a peer that waits (R76) -/

theorem Dev.waitedEntry_of_none_waits {d : Dev} (h : ∀ q ∈ d.peers, q.waiting = none) (p : Nat) : d.waitedEntry p = none := by
  unfold Dev.waitedEntry
  cases hp : d.peer p with
  | none => rfl
  | some r => simp [h r (Dev.peer_mem hp)]

theorem Dev.examineMutual_table {d : Dev} (h : ∀ q ∈ d.peers, q.waiting = none) : d.examineMutual.cle.table = d.cle.table := by
  unfold Dev.examineMutual
  split
  · next p b _ _ =>
    simp only
    have hkept : ∃ e : Dev, (if d.cle.deadlock.any (fun q => q != p) then d.endDeadlock else d) = e ∧ e.cle.table = d.cle.table
        ∧ e.peers = d.peers := by
      split
      · exact ⟨_, rfl, Dev.endDeadlock_table d, Dev.endDeadlock_peers d⟩
      · exact ⟨_, rfl, rfl, rfl⟩
    obtain ⟨e, he, htable, hpeers⟩ := hkept
    rw [he, Dev.waitedEntry_of_none_waits (hpeers ▸ h) p, ite_self]
    simp only
    split
    · rw [Dev.endDeadlock_table, htable]
    · exact htable
  · rfl

/-! ### Contention (R67) -/

/-- A frame other than a BEACON is queued where there is room (R173). -/
theorem Dev.enqueue_of_room {d : Dev} {k : FrameKind} (hroom : d.lif.hasRoom) (hk : (k == .beacon) = false) (dst : Nat)
    (b : List Byte) (t : Option Nat) :
    d.enqueue k dst b t = ({ d with lif := d.lif.place ⟨k, dst, b, 0, t, false⟩ }, true) := by
  obtain ⟨hactive, hlength⟩ := hroom
  simp [Dev.enqueue, hactive, hk, hlength]

theorem Lif.mem_place (l : Lif) (e : TxEntry) : e ∈ (l.place e).queue := by
  rw [Lif.place, Outer.follow_queue, mem_insertSorted]
  exact .inl rfl

/-- With room in the queue an examined entry becomes CONTENDING and its INTENT is queued (R67). -/
theorem Dev.contend_of_room {d : Dev} (hroom : d.lif.hasRoom) (c : Claim) :
    ∃ e : Dev, d.contend c = e.updateClaim c.sec (fun x => { x with state := .contending d.currentTicket d.cle.nextTag none })
      ∧ e.cle = { d.cle with nextTag := d.cle.nextTag + 1 }
      ∧ e.lif = d.lif.place ⟨.intent, 0, ticketPayload c.sec d.currentTicket, 0, some d.cle.nextTag, false⟩ := by
  let numbered : Dev := ({ d with cle := { d.cle with nextTag := d.cle.nextTag + 1 } } : Dev).bump .contentionsStarted
  have hqueued := Dev.enqueue_of_room (d := numbered) (k := .intent) hroom rfl 0 (ticketPayload c.sec d.currentTicket)
    (some d.cle.nextTag)
  let intent : TxEntry := ⟨.intent, 0, ticketPayload c.sec d.currentTicket, 0, some d.cle.nextTag, false⟩
  refine ⟨{ numbered with lif := numbered.lif.place intent }, ?_, rfl, rfl⟩
  unfold Dev.contend
  simp only
  rw [hqueued]
  rfl

/-! ### The examination of the front entry (R66), by what it finds -/

/-- A front entry that is not BLOCKED with its backoff stopped, or none, is left alone by the view-changed event. -/
theorem Dev.examineBlocked_other {d : Dev} (h : ∀ c p b, d.cle.front = some c → c.state ≠ .blocked p b none) :
    d.examineBlocked = d := by
  unfold Dev.examineBlocked
  split
  · next p b hstate =>
    obtain ⟨c, hc, hst⟩ := Option.map_eq_some_iff.1 hstate
    exact absurd hst (h c p b hc)
  · rfl

theorem Dev.onViewChanged_other {d : Dev} (h : ∀ c p b, d.cle.front = some c → c.state ≠ .blocked p b none) :
    d.onViewChanged = d := by
  have hsame : d.gatheringNone.examineBlocked = d.gatheringNone := Dev.examineBlocked_other h
  have hnone : d.gatheringNone.examineBlocked.cle.gathering = some [] := by rw [hsame]; rfl
  rw [Dev.onViewChanged, Dev.event_of_gathered_nil hnone, hsame]
  rfl

section
variable {d : Dev} {c : Claim} {p : Nat} {b : BlockBasis}

theorem Dev.examineBlocked_front (hc : d.cle.front = some c) (hst : c.state = .blocked p b none) :
    d.examineBlocked = d.examineFront := by
  have hfront : d.cle.frontState = some (.blocked p b none) := by rw [Cle.frontState, hc, Option.map_some, hst]
  simp only [Dev.examineBlocked, hfront]

theorem Dev.examineFront_stopped (hc : d.cle.front = some c) (hstop : d.claimingStopped = true) :
    d.examineFront = d.dropClaims (fun e => e.sec == c.sec) := by
  simp only [Dev.examineFront, hc, hstop, if_true]

theorem Dev.examineFront_quiet (hc : d.cle.front = some c) (hstop : d.claimingStopped = false) (hq : d.lif.quiet = true) :
    d.examineFront = (d.updateClaim c.sec (fun e => { e with state := .wanted false })).tidyDeadlock := by
  simp [Dev.examineFront, hc, hstop, hq]

theorem Dev.examineFront_blocked {p' : Nat} {b' : BlockBasis} (hc : d.cle.front = some c) (hst : c.state = .blocked p b none)
    (hstop : d.claimingStopped = false) (hq : d.lif.quiet = false) (hb : d.blocked c.sec = some (p', b')) :
    d.examineFront = if c.state = .blocked p' b' none then d
      else (d.updateClaim c.sec (fun e => { e with state := .blocked p' b' none })).examineMutual := by
  simp [Dev.examineFront, hc, hst, hstop, hq, hb]

theorem Dev.examineFront_free (hc : d.cle.front = some c) (hst : c.state = .blocked p b none)
    (hstop : d.claimingStopped = false) (hq : d.lif.quiet = false) (hb : d.blocked c.sec = none) :
    d.examineFront = (d.contend c).tidyDeadlock := by
  simp [Dev.examineFront, hc, hst, hstop, hq, hb]

/-! ### The view-changed event at a BLOCKED front entry (R55, R66) -/

theorem Dev.onViewChanged_entry (hc : d.cle.front = some c) (hst : c.state = .blocked p b none) (n : Nat) :
    d.onViewChanged.cle.entry n = d.gatheringNone.examineFront.cle.entry n := by
  rw [Dev.onViewChanged, Dev.event_entry, Dev.examineBlocked_front (d := d.gatheringNone) hc hst]

theorem Dev.onViewChanged_stopped (hc : d.cle.front = some c) (hst : c.state = .blocked p b none)
    (hstop : d.claimingStopped = true) : d.onViewChanged.cle.entry c.sec = none := by
  rw [Dev.onViewChanged_entry hc hst, Dev.examineFront_stopped (d := d.gatheringNone) hc hstop, Dev.dropClaims_entry]

theorem Dev.onViewChanged_quiet (hok : d.cle.ok) (hc : d.cle.front = some c) (hst : c.state = .blocked p b none)
    (hstop : d.claimingStopped = false) (hq : d.lif.quiet = true) :
    d.onViewChanged.cle.entry c.sec = some { c with state := .wanted false } := by
  rw [Dev.onViewChanged_entry hc hst, Dev.examineFront_quiet (d := d.gatheringNone) hc hstop hq,
    Cle.entry_congr (Dev.tidyDeadlock_table _)]
  exact Dev.updateClaim_state hok hc _

theorem Dev.onViewChanged_blocked {p' : Nat} {b' : BlockBasis} (hok : d.cle.ok) (hc : d.cle.front = some c)
    (hst : c.state = .blocked p b none) (hstop : d.claimingStopped = false) (hq : d.lif.quiet = false)
    (hb : d.blocked c.sec = some (p', b')) (hw : ∀ q ∈ d.peers, q.waiting = none) :
    d.onViewChanged.cle.entry c.sec = some { c with state := .blocked p' b' none } := by
  rw [Dev.onViewChanged_entry hc hst, Dev.examineFront_blocked (d := d.gatheringNone) hc hst hstop hq hb]
  split
  · next hsame =>
    rw [← hsame]
    exact Cle.entry_front hok hc
  · rw [Cle.entry_congr (Dev.examineMutual_table (d := d.gatheringNone.updateClaim _ _) hw)]
    exact Dev.updateClaim_state hok hc _

/-- A front entry found free contends: nothing is released, so its INTENT stands in the queue at the event's end (R66, R67). -/
theorem Dev.onViewChanged_free (hok : d.cle.ok) (hc : d.cle.front = some c) (hst : c.state = .blocked p b none)
    (hstop : d.claimingStopped = false) (hq : d.lif.quiet = false) (hb : d.blocked c.sec = none) (hroom : d.lif.hasRoom) :
    d.onViewChanged.cle.entry c.sec = some { c with state := .contending d.currentTicket d.cle.nextTag none }
      ∧ (⟨.intent, 0, ticketPayload c.sec d.currentTicket, 0, some d.cle.nextTag, false⟩ : TxEntry) ∈ d.onViewChanged.lif.queue := by
  obtain ⟨e, hcontend, hcle, hlif⟩ := Dev.contend_of_room (d := d.gatheringNone) hroom c
  have hexam : d.gatheringNone.examineFront = (d.gatheringNone.contend c).tidyDeadlock :=
    Dev.examineFront_free hc hst hstop hq hb
  have hok' : e.cle.ok := by rw [hcle]; exact hok
  have hfront : e.cle.front = some c := by rw [hcle]; exact hc
  constructor
  · rw [Dev.onViewChanged_entry hc hst, hexam, Cle.entry_congr (Dev.tidyDeadlock_table _), hcontend]
    exact Dev.updateClaim_state hok' hfront _
  · have hact : d.gatheringNone.examineBlocked = (d.gatheringNone.contend c).tidyDeadlock :=
      (Dev.examineBlocked_front (d := d.gatheringNone) hc hst).trans hexam
    have hgathering : e.cle.gathering = some [] := by rw [hcle]; rfl
    have hnone : d.gatheringNone.examineBlocked.cle.gathering = some [] := by
      rw [hact, Dev.tidyDeadlock_gathering, hcontend]
      exact hgathering
    have hline : d.onViewChanged.lif = e.lif := by
      rw [Dev.onViewChanged, Dev.event_of_gathered_nil hnone, hact, hcontend]
      exact Dev.tidyDeadlock_lif _
    rw [hline, hlif]
    exact Lif.mem_place _ _

end

/-! ### A RELEASE taken (R42, R45) -/

/-- Intake takes a frame for a record: the record is heard, and heard again when it was not FRESH (R42). -/
abbrev Dev.updates (d : Dev) (f : Frame) (r : PeerRec) : Prop :=
  d.intake f = ⟨d.setPeerCounted (r.heard d.now), some (r.heard d.now), r.freshness != .fresh⟩

/-- Intake takes a frame of a known station's own kind (R41, R42). -/
theorem Dev.intake_known {d : Dev} {f : Frame} {r : PeerRec} (h1 : 1 ≤ f.src) (h32 : f.src ≤ 32) (hs : f.src ≠ d.station)
    (hr : d.peer f.src = some r) (hk : r.kind = f.kind.sender) : d.updates f r := by
  have hsrc : ¬(f.src = 0 ∨ 32 < f.src) := by omega
  simp [Dev.updates, Dev.intake, hsrc, hs, hr, hk]

theorem Intake.news_of_fresh {i : Intake} (h : i.again = false) (d : Dev) (n : Nat) : i.news d n = d := by
  simp [Intake.news, h]

/-- A record heard again whose station has let sections go (R42, R45). -/
def PeerRec.released (r : PeerRec) (now : Nat) (secs : List Nat) : PeerRec :=
  { r.heard now with held := r.held.filter (fun n => !secs.contains n) }

theorem PeerRec.released_of_carriage {r : PeerRec} (hk : r.kind = .carriage) (now : Nat) (secs : List Nat) :
    r.released now secs = { r with heardAt := now, framesHeard := satInc r.framesHeard, freshness := .fresh, frozen := false
                                   held := r.held.filter (fun n => !secs.contains n) } := by
  simp [PeerRec.released, PeerRec.heard, hk]

/-- The part after a RELEASE from a known peer, before any view-changed event (R45). -/
def Dev.afterRelease (d : Dev) (f : Frame) (r : PeerRec) : Dev :=
  (d.intake f).news ((d.setPeerCounted (r.heard d.now)).setPeer (r.released d.now (readRelease f.payload))) f.src

section
variable {d : Dev} {f : Frame} {r : PeerRec}

theorem Dev.afterRelease_peers (d : Dev) (f : Frame) (r : PeerRec) :
    (d.afterRelease f r).peers = (d.setPeer (r.released d.now (readRelease f.payload))).peers := by
  rw [Dev.afterRelease, Intake.news_peers, Dev.setPeer_peers, Dev.setPeerCounted, Dev.foreignChanged_peers]
  exact congrArg Dev.peers (d.setPeer_setPeer (r := r.heard d.now) (r' := r.released d.now (readRelease f.payload)) rfl)

/-- The record of a sender that was FRESH is all that a RELEASE changes before the event (R42, R45). -/
theorem Dev.afterRelease_of_fresh (hi : d.updates f r)
    (hok : d.peersOk) (hr : d.peer f.src = some r) (hfresh : r.freshness = .fresh) :
    d.afterRelease f r = d.setPeer (r.released d.now (readRelease f.payload)) := by
  have hcount : (d.setPeer (r.heard d.now)).foreignCount = d.foreignCount := by
    have hr' : d.peer (r.heard d.now).station = some r := (congrArg d.peer (Dev.peer_station hr)).trans hr
    exact Dev.foreignCount_setPeer hok hr' rfl rfl hfresh.symm
  have hcounted : d.setPeerCounted (r.heard d.now) = d.setPeer (r.heard d.now) := by
    rw [Dev.setPeerCounted, ← hcount, Dev.foreignChanged_same]
  have hagain : (d.intake f).again = false := by simp [hi, hfresh]
  rw [Dev.afterRelease, Intake.news_of_fresh hagain, hcounted]
  exact d.setPeer_setPeer rfl

theorem Dev.takeRelease_eq (hi : d.updates f r) :
    d.takeRelease f = if (r.released d.now (readRelease f.payload)).held.length = r.held.length then d.afterRelease f r
      else (d.afterRelease f r).onViewChanged := by
  simp only [Dev.takeRelease, Dev.afterRelease, hi]
  rfl

theorem Dev.takeRelease_removing (hi : d.updates f r)
    (h : ∃ n ∈ r.held, n ∈ readRelease f.payload) : d.takeRelease f = (d.afterRelease f r).onViewChanged := by
  obtain ⟨n, hn, hnamed⟩ := h
  have hshort : (r.released d.now (readRelease f.payload)).held.length ≠ r.held.length := fun hlen =>
    absurd (List.length_filter_eq_length_iff.1 hlen n hn) (by simpa using hnamed)
  rw [Dev.takeRelease_eq hi, if_neg hshort]

theorem Dev.takeRelease_idle (hi : d.updates f r)
    (h : ∀ n ∈ r.held, n ∉ readRelease f.payload) : d.takeRelease f = d.afterRelease f r := by
  have hsame : (r.released d.now (readRelease f.payload)).held.length = r.held.length :=
    List.length_filter_eq_length_iff.2 fun n hn => by simpa using h n hn
  rw [Dev.takeRelease_eq hi, if_pos hsame]

theorem Dev.takeRelease_peers (hi : d.updates f r) :
    (d.takeRelease f).peers = (d.setPeer (r.released d.now (readRelease f.payload))).peers := by
  rw [Dev.takeRelease_eq hi]
  split <;> simp only [Dev.onViewChanged_peers, Dev.afterRelease_peers]

end

theorem exec_release {s : State} {f : Frame} {rest : List Frame} (hm : s.dev.lif.mailbox = f :: rest) (hk : f.kind = .release) :
    exec .release s = .next { s with dev := (s.dev.setLif { s.dev.lif with mailbox := rest }).takeRelease f } := by
  have hexec : exec .release s = s.becomes (s.dev.dispatch (Frame.isKind .release) Dev.takeRelease) := rfl
  simp [hexec, Dev.dispatch, hm, Frame.isKind, hk]

/-- Settles O27: a RELEASE rewrites its sender's record alone, and the examination's outcomes are the event's. -/
theorem releaseRemovesFromTheHeldList : Obligations.ReleaseRemovesFromTheHeldList := by
  intro s f rest r d hpass hkind hr hok named r' heard taken
  obtain ⟨hmail, h1, h32, hstation, hsender⟩ := hpass
  have hcarriage : r.kind = .carriage := by simpa [hr, hkind, FrameKind.sender] using hsender
  let a : Dev := d.setLif { d.lif with mailbox := rest }
  have hexec : exec .release s = .next { s with dev := a.takeRelease f } := exec_release hmail hkind
  have hi : a.updates f r := Dev.intake_known h1 h32 hstation hr (by rw [hcarriage, hkind]; rfl)
  have hrec : r.released a.now (readRelease f.payload) = r' := PeerRec.released_of_carriage hcarriage _ _
  have hsrc : r'.station = f.src := (Dev.peer_station hr : r.station = f.src)
  have hsame : (a.setPeer r').peer f.src = some r' := by
    rw [← hsrc]
    exact Dev.peer_setPeer_same (d := a) (x := r) (by rw [hsrc]; exact hr)
  have htaken : a.setPeer r' = taken := by simp only [Dev.setPeer, hsrc]; rfl
  refine ⟨⟨_, hexec, ?_, fun n hn => ?_⟩, fun h => ⟨a.afterRelease f r, ?_, ?_⟩, fun hfresh h => ?_, fun hfresh h => ?_,
    fun x c p b => ?_, fun x h => Dev.onViewChanged_other h⟩
  · rw [Dev.peer_congr (Dev.takeRelease_peers hi), hrec, hsame]
  · rw [Dev.peer_congr (Dev.takeRelease_peers hi), hrec, Dev.peer_setPeer_ne _ _ (by rwa [hsrc])]
    rfl
  · rw [Dev.peer_congr (Dev.afterRelease_peers a f r), hrec, hsame]
  · rw [hexec, Dev.takeRelease_removing hi h]
  · rw [hexec, Dev.takeRelease_removing hi h, Dev.afterRelease_of_fresh hi hok hr hfresh, hrec, htaken]
  · rw [hexec, Dev.takeRelease_idle hi h, Dev.afterRelease_of_fresh hi hok hr hfresh, hrec, htaken]
  · intro e hclaims hc hst
    refine ⟨Dev.onViewChanged_stopped hc hst, Dev.onViewChanged_quiet hclaims hc hst,
      fun p' b' hstop hq hb hw => Dev.onViewChanged_blocked hclaims hc hst hstop hq hb hw, fun hstop hq hb hroom => ?_⟩
    obtain ⟨hentry, hmem⟩ := Dev.onViewChanged_free hclaims hc hst hstop hq hb hroom
    exact ⟨_, hentry, _, hmem, rfl, rfl, rfl, rfl⟩

end Sys2Proof.Machine

/-! SUPPORT. The intent event (R68, R69, R72): what an INTENT leaves of the part when its sender's record has taken it, the OBJECT that
answers it, and the loss of a contention to it. -/

namespace Sys2Proof.Machine

/-! ### The claims and the position over a HALT-class raise (R153, R180) -/

@[simp] theorem Dev.send_odo (d : Dev) (k : FrameKind) (dst : Nat) (b : List Byte) : (d.send k dst b).odo = d.odo := by
  obtain ⟨l, cs, h⟩ := d.enqueue_changes k dst b none
  rw [Dev.send, h]

theorem Dev.enterFault_claims (d : Dev) (k : FaultKind) : (d.enterFault k).cle = d.cle ∧ (d.enterFault k).odo = d.odo := by
  unfold Dev.enterFault Dev.reportFault
  simp only
  split
  · exact ⟨rfl, rfl⟩
  · split <;> simp

theorem Dev.takeHalt_claims (d : Dev) : d.takeHalt.cle = d.cle ∧ d.takeHalt.odo = d.odo := by
  unfold Dev.takeHalt
  split <;> exact ⟨rfl, rfl⟩

/-- A HALT-class kind halts the carriage at most; it touches neither the claims nor the position (R153, R180). -/
theorem Dev.raise_claims_of_halt {k : FaultKind} (hk : k.cls = .halt) (d : Dev) :
    (d.raise k).cle = d.cle ∧ (d.raise k).odo = d.odo := by
  have hraise : d.raise k = (d.enterFault k).takeHalt := by rw [Dev.raise, Dev.takeRaise, hk]
  obtain ⟨hcle, hodo⟩ := (d.enterFault k).takeHalt_claims
  obtain ⟨hcle', hodo'⟩ := d.enterFault_claims k
  rw [hraise]
  exact ⟨hcle.trans hcle', hodo.trans hodo'⟩

@[simp] theorem Dev.causeEnded_odo (d : Dev) (k : FaultKind) : (d.causeEnded k).odo = d.odo := by
  unfold Dev.causeEnded
  split <;> rfl

/-- PLAN-MISMATCH, raised or ended, touches neither the claims nor the position (R49). -/
theorem Dev.foreignChanged_claims (d : Dev) (n : Nat) : (d.foreignChanged n).cle = d.cle ∧ (d.foreignChanged n).odo = d.odo := by
  unfold Dev.foreignChanged
  split
  · exact Dev.raise_claims_of_halt rfl d
  · split <;> simp

theorem Dev.setPeerCounted_claims (d : Dev) (r : PeerRec) :
    (d.setPeerCounted r).cle = d.cle ∧ (d.setPeerCounted r).odo = d.odo :=
  (d.setPeer r).foreignChanged_claims d.foreignCount

theorem Dev.addPeer_claims (d : Dev) (r : PeerRec) : (d.addPeer r).cle = d.cle ∧ (d.addPeer r).odo = d.odo := by
  unfold Dev.addPeer
  split <;> exact ⟨rfl, rfl⟩

/-! ### An INTENT taken into its sender's record (R42, R46) -/

/-- No BLOCKED entry waits for the view to change: the front entry is not BLOCKED with its backoff stopped (R66). -/
def Cle.quiet (c : Cle) : Prop :=
  ∀ e p b, c.front = some e → e.state ≠ .blocked p b none

theorem Cle.quiet_of_no_front {c : Cle} (h : c.front = none) : c.quiet := by
  intro e p b he
  rw [h] at he
  cases he

theorem Cle.quiet_of_front_contending {c : Cle} {e : Claim} {t : Ticket} {tag : Nat} {w : Timer} (h : c.front = some e)
    (hst : e.state = .contending t tag w) : c.quiet := by
  intro x p b hx
  obtain rfl : e = x := Option.some.inj (h.symm.trans hx)
  rw [hst]
  exact ClaimState.noConfusion

/-- A FRESH record is news of a changed view, and of nothing else (R55). -/
theorem Dev.onFreshness_of_fresh {r : PeerRec} (h : r.freshness = .fresh) (d : Dev) : d.onFreshness r = d.onViewChanged := by
  simp [Dev.onFreshness, Dev.onViewChanged, h]

/-- The news of a peer heard again changes nothing when its record is FRESH and no BLOCKED entry waits. -/
theorem Intake.news_of_quiet {i : Intake} {d : Dev} {n : Nat} (hq : d.cle.quiet)
    (hr : ∀ r, d.peer n = some r → r.freshness = .fresh) : i.news d n = d := by
  unfold Intake.news
  split
  · split
    · next r hpeer => rw [Dev.onFreshness_of_fresh (hr r hpeer), Dev.onViewChanged_other hq]
    · rfl
  · rfl

/-- The part when a passed INTENT has been written into its sender's record, before the intent event (R46). -/
def Intake.noted (i : Intake) (f : Frame) (r : PeerRec) : Dev :=
  i.news (i.dev.setPeer { r with
    intent := some (i.dev.newIntent (byteAt f.payload 0) (Ticket.ofByte (f.payload.getD 1 0) r.station)) }) f.src

theorem Dev.takeIntent_of_record {d : Dev} {f : Frame} {r : PeerRec} (hrec : (d.intake f).record = some r)
    (hs : r.station = f.src) : d.takeIntent f
      = ((d.intake f).noted f r).onIntent f.src (byteAt f.payload 0) (Ticket.ofByte (f.payload.getD 1 0) f.src) := by
  rw [← hs]
  simp only [Dev.takeIntent, hrec, Intake.noted, hs]

/-- The record of a sender heard with an INTENT (R42, R46). -/
def Dev.intending (d : Dev) (f : Frame) (r : PeerRec) : PeerRec :=
  { r.heard d.now with intent := some (d.newIntent (byteAt f.payload 0) (Ticket.ofByte (f.payload.getD 1 0) r.station)) }

/-- The record of a sender that was FRESH is all that its INTENT changes before the event. -/
theorem Intake.noted_of_fresh {d : Dev} {f : Frame} {r : PeerRec} (hi : d.updates f r) (hok : d.peersOk)
    (hr : d.peer f.src = some r) (hfresh : r.freshness = .fresh) :
    (d.intake f).noted f (r.heard d.now) = d.setPeer (d.intending f r) := by
  have hr' : d.peer (r.heard d.now).station = some r := (congrArg d.peer (Dev.peer_station hr)).trans hr
  have hcounted : d.setPeerCounted (r.heard d.now) = d.setPeer (r.heard d.now) := by
    rw [Dev.setPeerCounted, ← Dev.foreignCount_setPeer hok hr' rfl rfl hfresh.symm, Dev.foreignChanged_same]
  have hagain : (d.intake f).again = false := by simp [hi, hfresh]
  rw [Intake.noted, Intake.news_of_fresh hagain, hi, hcounted]
  exact d.setPeer_setPeer rfl

/-- Writing an INTENT into a FRESH record leaves the claims and the position when no BLOCKED entry waits. -/
theorem Intake.noted_claims {d : Dev} {i : Intake} {f : Frame} {r : PeerRec} (hclaims : i.dev.cle = d.cle ∧ i.dev.odo = d.odo)
    (hs : r.station = f.src) (hfresh : r.freshness = .fresh) (hq : d.cle.quiet) :
    (i.noted f r).cle = d.cle ∧ (i.noted f r).odo = d.odo := by
  unfold Intake.noted
  rw [Intake.news_of_quiet]
  · exact hclaims
  · show i.dev.cle.quiet
    rwa [hclaims.1]
  · intro x hx
    rw [Dev.peer_setPeer] at hx
    obtain ⟨y, hy, rfl⟩ := Option.map_eq_some_iff.1 hx
    rw [if_pos ((Dev.peer_station hy).trans hs.symm)]
    exact hfresh

/-- Intake takes a frame of a station that is heard for the first time (R40, R42). -/
theorem Dev.intake_new {d : Dev} {f : Frame} (h1 : 1 ≤ f.src) (h32 : f.src ≤ 32) (hs : f.src ≠ d.station)
    (hn : d.peer f.src = none) : d.intake f
      = ⟨d.addPeer (PeerRec.fresh f.src f.kind.sender d.now), some (PeerRec.fresh f.src f.kind.sender d.now), false⟩ := by
  have hsrc : ¬(f.src = 0 ∨ 32 < f.src) := by omega
  simp [Dev.intake, hsrc, hs, hn]

/-- An INTENT that passes the source check is an intent event (R46): of a part whose claims and position stand when no BLOCKED entry
waits, and which differs in the sender's record alone when that was FRESH. -/
theorem Dev.takeIntent_event {d : Dev} {f : Frame} (h1 : 1 ≤ f.src) (h32 : f.src ≤ 32) (hs : f.src ≠ d.station)
    (hsender : ∀ r, d.peer f.src = some r → r.kind = f.kind.sender) (hok : d.peersOk) :
    ∃ e : Dev, d.takeIntent f = e.onIntent f.src (byteAt f.payload 0) (Ticket.ofByte (f.payload.getD 1 0) f.src)
      ∧ (d.cle.quiet → e.cle = d.cle ∧ e.odo = d.odo)
      ∧ (∀ r, d.peer f.src = some r → r.freshness = .fresh → e = d.setPeer (d.intending f r)) := by
  cases hr : d.peer f.src with
  | none =>
    have hi := Dev.intake_new h1 h32 hs hr
    have hrec := congrArg Intake.record hi
    have hclaims : (d.intake f).dev.cle = d.cle ∧ (d.intake f).dev.odo = d.odo := by
      rw [hi]
      exact d.addPeer_claims _
    exact ⟨_, Dev.takeIntent_of_record hrec rfl, Intake.noted_claims hclaims rfl rfl,
      fun _ hsome => absurd hsome (Option.some_ne_none _).symm⟩
  | some r =>
    have hi : d.updates f r := Dev.intake_known h1 h32 hs hr (hsender r hr)
    have hstation : (r.heard d.now).station = f.src := (Dev.peer_station hr : r.station = f.src)
    have hrec : (d.intake f).record = some (r.heard d.now) := congrArg Intake.record hi
    have hclaims : (d.intake f).dev.cle = d.cle ∧ (d.intake f).dev.odo = d.odo := by
      rw [hi]
      exact d.setPeerCounted_claims _
    refine ⟨_, Dev.takeIntent_of_record hrec hstation, Intake.noted_claims hclaims hstation rfl, ?_⟩
    intro x hx hfresh
    obtain rfl := Option.some.inj hx
    exact Intake.noted_of_fresh hi hok hr hfresh

theorem exec_intent {s : State} {f : Frame} {rest : List Frame} (hm : s.dev.lif.mailbox = f :: rest) (hk : f.kind = .intent) :
    exec .intent s = .next { s with dev := (s.dev.setLif { s.dev.lif with mailbox := rest }).takeIntent f } := by
  have hexec : exec .intent s = s.becomes (s.dev.dispatch (Frame.isKind .intent) Dev.takeIntent) := rfl
  simp [hexec, Dev.dispatch, hm, Frame.isKind, hk]

/-! ### The OBJECT that answers (R69, R72) -/

/-- Queuing a frame does not look at the claims (R173). -/
theorem Dev.send_withCle (d : Dev) (c : Cle) (k : FrameKind) (dst : Nat) (b : List Byte) :
    ({ d with cle := c } : Dev).send k dst b = { d.send k dst b with cle := c } := by
  unfold Dev.send Dev.enqueue
  simp only
  split
  · rfl
  · split
    · rfl
    · split
      · rfl
      · split <;> rfl

/-- An event whose action releases nothing ends with what the action gives. -/
theorem Dev.event_eq {act : Dev → Dev} {d e : Dev} (h : act d.gatheringNone = e) (hnone : e.cle.gathering = some []) :
    Dev.event act d = { e with cle := { e.cle with gathering := d.cle.gathering } } := by
  subst h
  exact Dev.event_of_gathered_nil hnone

/-- An event that only queues a frame and counts it leaves the claims, and releases nothing. -/
theorem Dev.event_send {act : Dev → Dev} {d : Dev} {k : FrameKind} {dst : Nat} {b : List Byte} {n : Counter}
    (h : act d.gatheringNone = (d.gatheringNone.send k dst b).bump n) : Dev.event act d = (d.send k dst b).bump n := by
  have hcle : (d.send k dst b).cle = d.cle := d.send_cle k dst b
  rw [Dev.event_eq h (by rw [Dev.bump_cle, Dev.send_cle]; rfl), Dev.gatheringNone, Dev.send_withCle]
  simp only [Dev.bump, ← hcle]

/-- An event that does nothing leaves the part as it is. -/
theorem Dev.event_idle {act : Dev → Dev} {d : Dev} (h : act d.gatheringNone = d.gatheringNone) : Dev.event act d = d := by
  rw [Dev.event_eq h rfl]
  rfl

section
variable {d : Dev} {c : Claim} {p sec : Nat} {theirs mine : Ticket} {tag : Nat} {w : Timer}

theorem Dev.onIntent_held {b : ClaimBasis} {t : Ticket} (he : d.cle.entry sec = some c) (hst : c.state = .held b t) :
    d.onIntent p sec theirs = (d.send .object p (objectPayload sec .holding)).bump .objectionsHolding := by
  have he' : d.gatheringNone.cle.entry sec = some c := he
  exact Dev.event_send (by simp only [he', hst])

/-- A ticket that does not outrank the CONTENDING entry's is objected to (R69). -/
theorem Dev.onIntent_lower (he : d.cle.entry sec = some c) (hst : c.state = .contending mine tag w)
    (hlow : theirs.outranks mine = false) :
    d.onIntent p sec theirs = (d.send .object p (objectPayload sec .contending)).bump .objectionsContending := by
  have he' : d.gatheringNone.cle.entry sec = some c := he
  exact Dev.event_send (by simp only [he', hst, hlow, Bool.false_eq_true, if_false])

theorem Dev.onIntent_none (he : d.cle.entry sec = none) : d.onIntent p sec theirs = d := by
  have he' : d.gatheringNone.cle.entry sec = none := he
  exact Dev.event_idle (by simp only [he'])

theorem Dev.onIntent_wanted {m : Bool} (he : d.cle.entry sec = some c) (hst : c.state = .wanted m) :
    d.onIntent p sec theirs = d := by
  have he' : d.gatheringNone.cle.entry sec = some c := he
  exact Dev.event_idle (by simp only [he', hst])

end

/-- Of two tickets one outranks the other at most (R60). -/
theorem Ticket.outranks_asymm {t u : Ticket} (h : t.outranks u = true) : u.outranks t = false := by
  unfold Ticket.outranks at h ⊢
  grind

/-! ### The loss of a contention to an INTENT (R68) -/

/-- `e` is `d` but for what the end of DEADLOCK changes: the peer it was raised for, the fault set and the counters (R77). -/
def Dev.sameButDeadlock (d e : Dev) : Prop :=
  ∃ (x : Option Nat) (fs : List FaultEntry) (cs : List (BitVec 16)),
    e = { d with cle := { d.cle with deadlock := x }, faults := fs, counters := cs }

namespace Dev.sameButDeadlock

variable {d e f : Dev}

theorem refl (d : Dev) : d.sameButDeadlock d := ⟨_, _, _, rfl⟩

theorem trans (h : d.sameButDeadlock e) (h' : e.sameButDeadlock f) : d.sameButDeadlock f := by
  obtain ⟨x, fs, cs, rfl⟩ := h
  obtain ⟨y, fs', cs', rfl⟩ := h'
  exact ⟨_, _, _, rfl⟩

theorem table (h : d.sameButDeadlock e) : e.cle.table = d.cle.table := by
  obtain ⟨x, fs, cs, rfl⟩ := h
  rfl

theorem lossCount (h : d.sameButDeadlock e) : e.cle.lossCount = d.cle.lossCount := by
  obtain ⟨x, fs, cs, rfl⟩ := h
  rfl

theorem gathering (h : d.sameButDeadlock e) : e.cle.gathering = d.cle.gathering := by
  obtain ⟨x, fs, cs, rfl⟩ := h
  rfl

theorem lif (h : d.sameButDeadlock e) : e.lif = d.lif := by
  obtain ⟨x, fs, cs, rfl⟩ := h
  rfl

/-- DEADLOCK's peer forgotten and its cause ended. -/
theorem ended (d : Dev) :
    d.sameButDeadlock (({ d with cle := { d.cle with deadlock := none } } : Dev).causeEnded .deadlock) := by
  unfold Dev.causeEnded
  split <;> exact ⟨_, _, _, rfl⟩

theorem tidyDeadlock (d : Dev) : d.sameButDeadlock d.tidyDeadlock := by
  unfold Dev.tidyDeadlock
  split
  · exact ended d
  · exact refl d

theorem endDeadlock (d : Dev) : d.sameButDeadlock d.endDeadlock := by
  unfold Dev.endDeadlock
  split
  · exact ended d
  · exact refl d

/-- A blocker on the basis INTENT waits for nothing that this station holds: the examination only ends a DEADLOCK (R76, R77). -/
theorem examineMutual {p : Nat} {w : Timer} (h : d.cle.frontState = some (.blocked p .intent w)) :
    d.sameButDeadlock d.examineMutual := by
  unfold Dev.examineMutual
  rw [h]
  simp only [if_true]
  have hother : d.sameButDeadlock (if d.cle.deadlock.any (fun q => q != p) then d.endDeadlock else d) := by
    split
    · exact endDeadlock d
    · exact refl d
  refine hother.trans ?_
  generalize (if d.cle.deadlock.any (fun q => q != p) then d.endDeadlock else d) = x
  split
  · exact endDeadlock x
  · exact refl x

end Dev.sameButDeadlock

/-- A contention lost to a peer's INTENT, with its backoff running, before DEADLOCK is looked at (R68). -/
def Dev.lostToIntent (d : Dev) (c : Claim) (p : Nat) : Dev :=
  (((d.abandon c).raiseLoss).bump .contentionsLost).updateClaim c.sec
    (fun e => { e with state := .blocked p .intent d.claimBackoff })

section
variable {d : Dev} {c : Claim} {p sec tag : Nat} {mine : Ticket} {w : Timer}

theorem Dev.lostToIntent_entry (he : d.cle.entry c.sec = some c) (p : Nat) :
    (d.lostToIntent c p).cle.entry c.sec = some { c with state := .blocked p .intent d.claimBackoff } := by
  refine Cle.entry_update (fun _ => rfl) ?_
  rw [Dev.bump_cle, Cle.entry_congr (Dev.raiseLoss_table _), Dev.abandon_cle, he]

theorem Dev.lostToIntent_lossCount (d : Dev) (c : Claim) (p : Nat) :
    (d.lostToIntent c p).cle.lossCount = min 15 (d.cle.lossCount + 1) := by
  show min 15 ((d.abandon c).cle.lossCount + 1) = _
  rw [Dev.abandon_cle]

theorem Dev.lostToIntent_gathering (d : Dev) (c : Claim) (p : Nat) :
    (d.lostToIntent c p).cle.gathering = d.cle.gathering := by
  show (d.abandon c).cle.gathering = _
  rw [Dev.abandon_cle]

/-- The INTENT of the entry that lost stays in the queue only while it is being sent (R67, R173). -/
theorem Dev.lostToIntent_queue (hst : c.state = .contending mine tag w) {y : TxEntry} (hy : y ∈ (d.lostToIntent c p).lif.queue)
    (htag : y.tag = some tag) (hk : y.kind = .intent) : y.sending = true := by
  have hwithdrawn : (d.lostToIntent c p).lif = (d.withdraw tag).lif := by
    show (d.abandon c).lif = _
    rw [Dev.abandon, hst]
  rw [hwithdrawn, Dev.withdraw, Outer.follow_queue] at hy
  simpa [htag, hk] using (List.mem_filter.1 hy).2

/-- An entry that is CONTENDING or BLOCKED is the front entry (R58). -/
theorem Cle.front_of_tried {cle : Cle} (hok : cle.ok) (hmem : c ∈ cle.table) (ht : c.tried = true) : cle.front = some c := by
  obtain ⟨-, -, -, -, -, htried⟩ := hok
  exact htried c hmem ht

/-- The entry that lost is the front entry still (R58). -/
theorem Dev.lostToIntent_front (hok : d.cle.ok) (he : d.cle.entry c.sec = some c) (hst : c.state = .contending mine tag w) (p : Nat) :
    (d.lostToIntent c p).cle.frontState = some (.blocked p .intent d.claimBackoff) := by
  have hfront : d.cle.front = some c :=
    Cle.front_of_tried hok (Cle.entry_mem he).1 (by simp [Claim.tried, Claim.isContending, hst])
  let counted : Dev := ((d.abandon c).raiseLoss).bump .contentionsLost
  have htable : counted.cle.table = d.cle.table := (Dev.raiseLoss_table _).trans (congrArg Cle.table (d.abandon_cle c))
  have hok' : counted.cle.ok := Cle.ok_same htable (.inr (Nat.min_le_left ..)) hok
  have hlost : (d.lostToIntent c p).cle.ok :=
    Cle.ok_front (x := c) (by rw [Cle.front, htable]; exact hfront) (fun _ => rfl) (fun _ => rfl) rfl hok'
  have hmem := (Cle.entry_mem (Dev.lostToIntent_entry he p)).1
  rw [Cle.frontState, Cle.front_of_tried hlost hmem rfl, Option.map_some]

theorem Dev.loseContention_intent (hok : d.cle.ok) (he : d.cle.entry c.sec = some c) (hst : c.state = .contending mine tag w) (p : Nat) :
    (d.lostToIntent c p).sameButDeadlock (d.loseContention c p .intent) := by
  have heq : d.loseContention c p .intent = (d.lostToIntent c p).tidyDeadlock.examineMutual := by
    simp only [Dev.loseContention, Dev.lostToIntent, Dev.abandon, hst]
    rfl
  have hfront : (d.lostToIntent c p).tidyDeadlock.cle.frontState = some (.blocked p .intent d.claimBackoff) := by
    rw [← Dev.lostToIntent_front hok he hst p, Cle.frontState, Cle.front, Dev.tidyDeadlock_table]
    rfl
  rw [heq]
  exact (Dev.sameButDeadlock.tidyDeadlock _).trans (Dev.sameButDeadlock.examineMutual hfront)

/-- A ticket that outranks the CONTENDING entry's makes it lose (R68, R69). -/
theorem Dev.onIntent_higher {theirs : Ticket} (hok : d.cle.ok) (he : d.cle.entry sec = some c)
    (hst : c.state = .contending mine tag w) (hhigh : theirs.outranks mine = true) :
    (d.onIntent p sec theirs).cle.entry sec = some { c with state := .blocked p .intent d.claimBackoff }
      ∧ (d.onIntent p sec theirs).cle.lossCount = min 15 (d.cle.lossCount + 1)
      ∧ ∀ y ∈ (d.onIntent p sec theirs).lif.queue, y.tag = some tag → y.kind = .intent → y.sending = true := by
  obtain rfl : c.sec = sec := (Cle.entry_mem he).2
  have he' : d.gatheringNone.cle.entry c.sec = some c := he
  have hlost := Dev.loseContention_intent (d := d.gatheringNone) hok he' hst p
  have hnone : (d.gatheringNone.loseContention c p .intent).cle.gathering = some [] :=
    hlost.gathering.trans (Dev.lostToIntent_gathering d.gatheringNone c p)
  have hevent : d.onIntent p c.sec theirs = _ := Dev.event_eq (by simp only [he', hst, hhigh, if_true]) hnone
  rw [hevent]
  refine ⟨?_, ?_, fun y hy => ?_⟩
  · exact (Cle.entry_congr hlost.table c.sec).trans (Dev.lostToIntent_entry he' p)
  · exact hlost.lossCount.trans (Dev.lostToIntent_lossCount d.gatheringNone c p)
  · exact Dev.lostToIntent_queue hst (hlost.lif ▸ hy)

end

/-! ### An INTENT answered -/

/-- A record changed by an INTENT, written out field by field (R42, R46). -/
theorem Dev.intending_of_carriage {d : Dev} {f : Frame} {r : PeerRec} (hk : r.kind = .carriage) (hs : r.station = f.src) :
    d.intending f r = { r with
      heardAt := d.now, framesHeard := satInc r.framesHeard, freshness := .fresh, frozen := false
      intent := some ⟨byteAt f.payload 0, Ticket.ofByte (f.payload.getD 1 0) f.src, d.now + 2 * d.tmp.plan.claimWindow * 1000⟩ } := by
  simp [Dev.intending, PeerRec.heard, Dev.newIntent, hk, hs]

/-- Settles O29: the INTENT is written into its sender's record first, which leaves the claims alone; the intent event then answers by
the state of the section's entry. -/
theorem intentIsAnswered : Obligations.IntentIsAnswered := by
  intro s f rest d sec hpass hkind hok theirs fresh heard answered
  obtain ⟨hmail, h1, h32, hstation, hsender⟩ := hpass
  have hcarriage (r : PeerRec) (hr : d.peer f.src = some r) : r.kind = .carriage := by
    simpa [hr, hkind, FrameKind.sender] using hsender
  let a : Dev := d.setLif { d.lif with mailbox := rest }
  obtain ⟨e, htake, hquiet, hheard⟩ := Dev.takeIntent_event (d := a) h1 h32 hstation
    (fun r hr => by rw [hcarriage r hr, hkind]; rfl) hok
  have hexec : exec .intent s = .next { s with dev := e.onIntent f.src sec theirs } := by
    rw [exec_intent hmail hkind, ← htake]
  have hfreshly (r : PeerRec) (hr : d.peer f.src = some r) (hfresh : r.freshness = .fresh) : e = heard r := by
    have hs : (a.intending f r).station = f.src := (Dev.peer_station hr : r.station = f.src)
    rw [hheard r hr hfresh, Dev.setPeer, hs, Dev.intending_of_carriage (hcarriage r hr) (Dev.peer_station hr)]
    rfl
  have hsome (hfresh : fresh) : ∃ r, d.peer f.src = some r ∧ r.freshness = .fresh := by
    simpa [fresh, Option.any_eq_true] using hfresh
  have hstand : fresh ∨ d.cle.quiet → e.cle = d.cle ∧ e.odo = d.odo := by
    rintro (hfresh | hq)
    · obtain ⟨r, hr, hfresh⟩ := hsome hfresh
      rw [hfreshly r hr hfresh]
      exact ⟨rfl, rfl⟩
    · exact hquiet hq
  have hanswered (b : ObjectBasis) (counted : Counter) (hready : fresh ∨ d.cle.quiet)
      (hanswer : e.onIntent f.src sec theirs = (e.send .object f.src (objectPayload sec b)).bump counted) :
      answered (BitVec.ofNat 8 b.code) counted :=
    ⟨e, by rw [hexec, hanswer]; rfl, (hstand hready).1, (hstand hready).2, hfreshly⟩
  have hentry (hready : fresh ∨ d.cle.quiet) : e.cle.entry sec = d.cle.entry sec :=
    congrArg (fun x => Cle.entry x sec) (hstand hready).1
  refine ⟨fun c h t hc hst hready => ?_, fun c t tag w hc hst hready hrank => ?_,
    fun c t tag w hc hst hfresh hclaims hrank _ => ?_, fun r hr hfresh hc => ?_⟩
  · have hready := hready.imp_right Cle.quiet_of_no_front
    exact hanswered .holding _ hready (Dev.onIntent_held ((hentry hready).trans hc) hst)
  · have hready := hready.imp_right fun hfront => Cle.quiet_of_front_contending hfront hst
    exact hanswered .contending _ hready
      (Dev.onIntent_lower ((hentry hready).trans hc) hst (Ticket.outranks_asymm hrank))
  · obtain ⟨hcle, -⟩ := hstand (.inl hfresh)
    obtain ⟨hlost, hcount, hqueue⟩ := Dev.onIntent_higher (p := f.src) (d := e) (hcle ▸ hclaims)
      ((hentry (.inl hfresh)).trans hc) hst hrank
    obtain ⟨r, hr, hfresh⟩ := hsome hfresh
    have hbackoff : e.claimBackoff = some (d.now + d.tmp.plan.claimWindow * (1 + d.station % 4) * 1000) := by
      rw [hfreshly r hr hfresh]
      rfl
    exact ⟨_, hexec, hcle ▸ hcount, hbackoff ▸ hlost, hqueue⟩
  · have he := hfreshly r hr hfresh
    have hsame : e.cle.entry sec = d.cle.entry sec := by rw [he]
    have hidle : e.onIntent f.src sec theirs = e := by
      rcases hc with hnone | ⟨c, m, hc, hst⟩
      · exact Dev.onIntent_none (hsame.trans hnone)
      · exact Dev.onIntent_wanted (hsame.trans hc) hst
    rw [hexec, hidle, he]

end Sys2Proof.Machine

/-! SUPPORT. The invariants of every step: the elementary changes that each of them outlives (`Outer`), reset, and the order of the
tickets (R60). -/

namespace Sys2Proof.Machine

/-! ### The transmit queue under each change (R173) -/

theorem insertSorted_countP {α : Type} (key : α → Nat) (p : α → Bool) (x : α) (l : List α) :
    (insertSorted key x l).countP p = l.countP p + (if p x then 1 else 0) := by
  rw [(insertSorted_perm key x l).countP_eq, List.countP_cons]

theorem queueOk_sublist {q q' : List TxEntry} (h : q'.Sublist q) (hq : queueOk q) : queueOk q' := by
  obtain ⟨hlen, hbeacon, hsorted⟩ := hq
  exact ⟨h.length_le.trans hlen, (h.countP_le).trans hbeacon, hsorted.sublist (h.map _)⟩

/-- A frame placed by its class where there is room keeps the queue, unless it is a second BEACON. -/
theorem queueOk_insert {q : List TxEntry} {e : TxEntry} (hroom : q.length < Config.maxQueue)
    (hone : e.kind = .beacon → q.countP (fun x => x.kind == .beacon) = 0) (hq : queueOk q) :
    queueOk (insertSorted (fun x => x.kind.txClass) e q) := by
  obtain ⟨hlen, hbeacon, hsorted⟩ := hq
  refine ⟨by rw [insertSorted_length]; exact hroom, ?_, insertSorted_sorted _ e q hsorted⟩
  rw [insertSorted_countP]
  by_cases he : e.kind = .beacon
  · simp [hone he, he]
  · simpa [he] using hbeacon

/-- The one entry that leaves a full queue makes it shorter and keeps the order. -/
theorem dropLast?_eq_some {p : TxEntry → Bool} {q q' : List TxEntry} (h : dropLast? p q = some q') :
    q'.Sublist q ∧ q'.length + 1 = q.length := by
  unfold dropLast? at h
  split at h
  · next hany =>
    cases h
    have hany' : q.reverse.any p = true := by rw [List.any_reverse]; exact hany
    obtain ⟨x, hx, hpx⟩ := List.any_eq_true.1 hany'
    have hlen := List.length_eraseP_of_mem hx hpx
    have hpos : 0 < q.reverse.length := List.length_pos_of_mem hx
    refine ⟨?_, ?_⟩
    · simpa using (List.eraseP_sublist (p := p) (l := q.reverse)).reverse
    · rw [List.length_reverse] at hpos hlen ⊢
      omega
  · cases h

theorem makeRoom_eq_some {cls : Nat} {q q' : List TxEntry} (h : makeRoom cls q = some q') :
    q'.Sublist q ∧ q'.length + 1 = q.length := by
  unfold makeRoom at h
  split at h
  · split at h
    · next hr => cases h; exact dropLast?_eq_some hr
    · exact dropLast?_eq_some h
  · split at h
    · exact dropLast?_eq_some h
    · cases h

theorem Lif.place_queue (l : Lif) (e : TxEntry) :
    (l.place e).queue = insertSorted (fun x => x.kind.txClass) e l.queue := by
  rw [Lif.place, Outer.follow_queue]

@[simp] theorem Lif.place_mailbox (l : Lif) (e : TxEntry) : (l.place e).mailbox = l.mailbox :=
  Outer.follow_mailbox _

theorem Dev.enqueue_lineOk {d : Dev} (k : FrameKind) (dst : Nat) (b : List Byte) (t : Option Nat) (h : d.lineOk) :
    (d.enqueue k dst b t).1.lineOk := by
  obtain ⟨hq, hm⟩ := h
  unfold Dev.enqueue
  simp only
  split
  · exact ⟨hq, hm⟩
  · split
    · exact ⟨hq, hm⟩
    · next hone =>
      have hone : k = .beacon → d.lif.queue.countP (fun x => x.kind == .beacon) = 0 := by
        intro hk
        rw [List.countP_eq_zero]
        intro x hx hxk
        exact hone (by simpa [hk] using ⟨x, hx, by simpa using hxk⟩)
      split
      · next hroom =>
        refine ⟨?_, by simpa using hm⟩
        rw [Lif.place_queue]
        exact queueOk_insert hroom hone hq
      · split
        · next q' hmake =>
          obtain ⟨hsub, hlen⟩ := makeRoom_eq_some hmake
          refine ⟨?_, by simpa using hm⟩
          show queueOk (Lif.place _ _).queue
          rw [Lif.place_queue]
          refine queueOk_insert (e := ⟨k, dst, b, 0, t, false⟩) ?_ (fun hk => ?_) (queueOk_sublist hsub hq)
          · have := hq.1
            show q'.length < _
            omega
          · exact Nat.le_zero.1 ((hsub.countP_le).trans (hone hk).le)
        · exact ⟨hq, hm⟩

theorem Dev.withdraw_lineOk {d : Dev} (t : Nat) (h : d.lineOk) : (d.withdraw t).lineOk := by
  obtain ⟨hq, hm⟩ := h
  refine ⟨?_, by rwa [Dev.withdraw, Outer.follow_mailbox]⟩
  rw [Dev.withdraw, Outer.follow_queue]
  exact Outer.queueOk_filter _ hq


/-! ### What the brake outputs and the station state change beside their own blocks -/

/-- A latch set changes the Brake and Drive Unit, the demand and the counters alone (R121). -/
theorem Dev.setLatch_changes (d : Dev) (l : Latch) :
    ∃ (b : Bdu) (x : Sup) (cs : List (BitVec 16)), d.setLatch l = { d with bdu := b, sup := x, counters := cs } := by
  unfold Dev.setLatch Dev.stopTrain
  simp only
  split
  · exact ⟨_, _, _, rfl⟩
  · split <;> exact ⟨_, _, _, rfl⟩

/-- The station state written, with what the other blocks take from the report of it (R144), before the demand and the outputs. -/
def Dev.entering (d : Dev) (s : StationState) : Dev :=
  { d with
    stc := { d.stc with
      state := s
      waiting := if s == StationState.running then true else d.stc.waiting
      remembered := if s == StationState.halted then d.stc.remembered else none }
    bdu := { d.bdu with srcHalted := s == StationState.halted }
    dkc := if d.dkc.sub == DockState.correct && (s == StationState.halted || s == StationState.safeStop) then
      { d.dkc with corrTimer := none } else d.dkc
    lif := if s == StationState.standing || s == StationState.parked then d.lif else { d.lif with test := none } }

/-- Entering a state in the steps of the blocks that act on it: the demand, the outputs, the latch (R104, R144, R118). -/
theorem Dev.enterState_eq (d : Dev) (s : StationState) :
    d.enterState s = if s == .safeStop then
        (if s.demanding then d.entering s else (d.entering s).zeroDemand).settle.setLatch .safeStop
      else (if s.demanding then d.entering s else (d.entering s).zeroDemand).settle := rfl

theorem Dev.enterState_of_demanding {s : StationState} (h : s.demanding = true) (d : Dev) : d.enterState s = (d.entering s).settle := by
  have hs : (s == .safeStop) = false := by cases s <;> first | rfl | exact absurd h (by decide)
  rw [Dev.enterState_eq, hs, h]
  rfl

theorem Dev.enterState_of_quiet {s : StationState} (h : s.demanding = false) (hs : s ≠ .safeStop) (d : Dev) :
    d.enterState s = (d.entering s).zeroDemand.settle := by
  rw [Dev.enterState_eq, h, if_neg (by simpa using hs)]
  rfl

theorem Dev.enterState_safeStop (d : Dev) :
    d.enterState .safeStop = ((d.entering .safeStop).zeroDemand.settle).setLatch .safeStop := rfl

theorem Dev.entering_lif (d : Dev) (s : StationState) : ∃ t, (d.entering s).lif = { d.lif with test := t } := by
  unfold Dev.entering
  simp only
  split
  · exact ⟨d.lif.test, rfl⟩
  · exact ⟨none, rfl⟩

/-- Of a property that the demand's zeroing, the outputs and a latch keep, the state's own writing decides (R144). -/
theorem Dev.enterState_keeps {P : Dev → Prop} (hzero : ∀ d, P d → P d.zeroDemand) (hsettle : ∀ d, P d → P d.settle)
    (hlatch : ∀ d, P d → P (d.setLatch .safeStop)) {d : Dev} {s : StationState} (h : P (d.entering s)) : P (d.enterState s) := by
  cases hd : s.demanding
  · by_cases hs : s = .safeStop
    · subst hs
      exact hlatch _ (hsettle _ (hzero _ h))
    · rw [Dev.enterState_of_quiet hd hs]
      exact hsettle _ (hzero _ h)
  · rw [Dev.enterState_of_demanding hd]
    exact hsettle _ h

/-! ### The lists (R40, R57, R58, R61, R167, R173, R179) -/

/-- The limits and the orders of the part's lists. -/
abbrev Dev.listsOk (d : Dev) : Prop :=
  d.lineOk ∧ d.claimsOk ∧ d.faultsOk ∧ d.peersOk

theorem Dev.enqueue_listsOk {d : Dev} (k : FrameKind) (dst : Nat) (b : List Byte) (t : Option Nat) (h : d.listsOk) :
    (d.enqueue k dst b t).1.listsOk := by
  obtain ⟨hline, hclaims, hfaults, hpeers⟩ := h
  have hline' := Dev.enqueue_lineOk k dst b t hline
  obtain ⟨l, cs, heq⟩ := d.enqueue_changes k dst b t
  rw [heq] at hline' ⊢
  exact ⟨hline', hclaims, hfaults, hpeers⟩

theorem Dev.setLatch_listsOk {d : Dev} (l : Latch) (h : d.listsOk) : (d.setLatch l).listsOk := by
  obtain ⟨b, x, cs, heq⟩ := d.setLatch_changes l
  rw [heq]
  exact h

theorem Dev.enterState_listsOk {d : Dev} (s : StationState) (h : d.listsOk) : (d.enterState s).listsOk := by
  refine Dev.enterState_keeps (fun _ h => h) (fun _ h => h) (fun _ h => Dev.setLatch_listsOk _ h) ?_
  obtain ⟨⟨hq, hm⟩, hrest⟩ := h
  obtain ⟨t, ht⟩ := d.entering_lif s
  refine ⟨?_, hrest⟩
  rw [Dev.lineOk, ht]
  exact ⟨hq, hm⟩

/-- Every elementary change of a step keeps the lists. -/
theorem outer_listsOk : Outer Dev.listsOk where
  counters _ h := h
  freeCount _ h := h
  enqueue k dst b t h := Dev.enqueue_listsOk k dst b t h
  withdraw t h := ⟨Dev.withdraw_lineOk t h.1, h.2⟩
  faults _ hl h := ⟨h.1, h.2.1, hl h.2.2.1, h.2.2.2⟩
  cle _ _ hc h := ⟨h.1, hc h.2.1, h.2.2⟩
  odo _ _ _ h := h
  place _ h := h
  orderSpeed h := h
  dkc _ _ h := h
  stc _ _ h := h
  settle h := h
  zeroDemand h := h
  stopTrain {d} h := by
    unfold Dev.stopTrain
    exact ite_keeps (fun _ => h) (fun _ => h)
  setLatch l h := Dev.setLatch_listsOk l h
  clamps _ _ _ h := h
  turn _ _ h := h
  enterState s h := Dev.enterState_listsOk s h
  superviseUnknown h := h
  reset b n := by cases b <;> exact (by decide : Dev.reset.listsOk)
  now _ h := h
  tmp _ h := h
  btl _ h := h
  mnp _ h := h
  odoAll _ _ h := h
  dkcAll _ h := h
  cleAll _ hc h := ⟨h.1, hc h.2.1, h.2.2⟩
  peers _ hp h := ⟨h.1, h.2.1, h.2.2.1, hp h.2.2.2⟩
  lif _ hq hm h := ⟨⟨hq h.1.1, hm h.1.2⟩, h.2⟩
  sup _ _ h := h
  inputs _ _ _ _ h := h
  downQuiet _ _ h := h
  bdu _ _ _ _ _ _ _ _ h := h
  handed _ h := h
  duty _ _ h := h
  train _ _ _ _ h := h

/-- At most one entry of a table in order is CONTENDING or BLOCKED: the front entry (R58). -/
theorem Cle.countP_tried_le {c : Cle} (h : c.ok) : c.table.countP Claim.tried ≤ 1 := by
  obtain ⟨-, hnodup, -, -, -, htried⟩ := h
  rw [List.countP_eq_length_filter]
  match hl : c.table.filter Claim.tried with
  | [] => simp
  | [_] => simp
  | x :: y :: rest =>
    exfalso
    have hx : x ∈ c.table.filter Claim.tried := by rw [hl]; simp
    have hy : y ∈ c.table.filter Claim.tried := by rw [hl]; simp
    have hxy : x = y := by
      rw [List.mem_filter] at hx hy
      exact Option.some.inj ((htried x hx.1 hx.2).symm.trans (htried y hy.1 hy.2))
    have hnd : (c.table.filter Claim.tried).Nodup := (List.Nodup.of_map _ hnodup).filter _
    rw [hl, hxy] at hnd
    simp at hnd

/-- Settles O58: every elementary change keeps the lists, and the table in order has the front entry alone tried. -/
theorem everyStepKeepsTheListLimits : Obligations.EveryStepKeepsTheListLimits := by
  intro s t hstep hline hclaims hfaults hpeers
  obtain ⟨hline', hclaims', hfaults', hpeers'⟩ := outer_listsOk.step s t hstep ⟨hline, hclaims, hfaults, hpeers⟩
  have hone := Cle.countP_tried_le hclaims'
  obtain ⟨hlen, hnodup, hloss, horder, hroute, htried⟩ := hclaims'
  exact ⟨hline', hline'.1.2.2, hfaults', hpeers', hlen, hnodup, hloss, horder, hroute, htried, hone⟩

/-! ### The outputs (R111, R113, R114, R121, R125) -/

/-- The outputs are read off the Brake and Drive Unit and the station state alone. -/
theorem Dev.outputsOk_congr {d e : Dev} (hb : e.bdu = d.bdu) (hs : e.stc.state = d.stc.state) (h : d.outputsOk) : e.outputsOk := by
  have hheld : e.outputsHeld = d.outputsHeld := by unfold Dev.outputsHeld; rw [hb, hs]
  unfold Dev.outputsOk at *
  rw [hheld, hb]
  exact h

/-- Re-judged outputs follow the sources; the clamp commands and the train are as they were. -/
theorem Dev.settle_outputsOk {d : Dev} (hclamp : (d.bdu.clampDown && d.bdu.clampUp) = false)
    (htrain : d.bdu.latched = true → d.bdu.trainRunning = false ∧ d.bdu.trainLevel = false ∧ d.bdu.trainTimer = none) :
    d.settle.outputsOk := by
  refine ⟨rfl, rfl, fun hf => ?_, hclamp, htrain⟩
  have hf' : (d.outputsHeld || d.bdu.forced) = true := hf
  show (if (d.outputsHeld || d.bdu.forced) = true then 0 else d.bdu.duty) = 0
  rw [if_pos hf']

theorem Dev.settle_keeps_outputs {d : Dev} (h : d.outputsOk) : d.settle.outputsOk :=
  Dev.settle_outputsOk h.2.2.2.1 h.2.2.2.2

theorem Dev.stopTrain_outputsOk {d : Dev} (h : d.outputsOk) : d.stopTrain.outputsOk := by
  obtain ⟨htraction, hbrake, hduty, hclamp, -⟩ := h
  have hstopped : ({ d with bdu := { d.bdu with trainRunning := false, trainLevel := false, trainTimer := none } } : Dev).outputsOk :=
    ⟨htraction, hbrake, hduty, hclamp, fun _ => ⟨rfl, rfl, rfl⟩⟩
  exact ite_keeps (P := Dev.outputsOk) (fun _ => hstopped) (fun _ => hstopped)

theorem Dev.zeroDemand_outputsOk {d : Dev} (h : d.outputsOk) : d.zeroDemand.outputsOk := by
  obtain ⟨htraction, hbrake, -, hclamp, htrain⟩ := h
  exact ⟨htraction, hbrake, fun _ => rfl, hclamp, htrain⟩

/-- A latch set stops the train before anything else is judged of it (R121). -/
theorem Dev.setLatch_outputsOk {d : Dev} (l : Latch) (h : d.outputsOk) : (d.setLatch l).outputsOk := by
  obtain ⟨htraction, hbrake, hduty, hclamp, htrain⟩ := h
  refine ite_keeps (P := Dev.outputsOk) (fun _ => ⟨htraction, hbrake, hduty, hclamp, htrain⟩) (fun _ => ?_)
  refine Dev.zeroDemand_outputsOk ?_
  have hclamp' : (((d.bdu.withLatch l true).clampDown) && (d.bdu.withLatch l true).clampUp) = false := by
    cases l <;> exact hclamp
  have hstopped (x : Bdu) (hx : x = { (({ d with bdu := d.bdu.withLatch l true } : Dev).settle).bdu with
      trainRunning := false, trainLevel := false, trainTimer := none }) (y : Dev) (hy : y.bdu = x) (hs : y.stc = d.stc) : y.outputsOk := by
    refine Dev.outputsOk_congr (d := { d with bdu := x }) hy (congrArg Stc.state hs) ?_
    subst hx
    refine ⟨rfl, rfl, fun hf => ?_, hclamp', fun _ => ⟨rfl, rfl, rfl⟩⟩
    show (if _ then 0 else _) = 0
    exact if_pos hf
  refine hstopped _ rfl _ ?_ ?_
  · unfold Dev.stopTrain
    split <;> rfl
  · unfold Dev.stopTrain
    split <;> rfl

theorem Dev.enterState_outputsOk {d : Dev} (s : StationState) (h : d.outputsOk) : (d.enterState s).outputsOk := by
  obtain ⟨-, -, -, hclamp, htrain⟩ := h
  have hready : ∀ x : Dev, x = d.entering s ∨ x = (d.entering s).zeroDemand → x.settle.outputsOk := by
    rintro x (rfl | rfl) <;> exact Dev.settle_outputsOk hclamp htrain
  have hsettled : (if s.demanding then d.entering s else (d.entering s).zeroDemand).settle.outputsOk :=
    hready _ (by split <;> simp)
  rw [Dev.enterState_eq]
  exact ite_keeps (P := Dev.outputsOk) (fun _ => Dev.setLatch_outputsOk _ hsettled) (fun _ => hsettled)

/-- Every elementary change of a step keeps the outputs with the brake sources. -/
theorem outer_outputsOk : Outer (fun d => d.outputsOk) where
  counters _ h := h
  freeCount _ h := h
  enqueue k dst b t h := by
    obtain ⟨l, cs, heq⟩ := Dev.enqueue_changes _ k dst b t
    rw [heq]
    exact h
  withdraw _ h := h
  faults _ _ h := h
  cle _ _ _ h := h
  odo _ _ _ h := h
  place _ h := h
  orderSpeed h := h
  dkc _ _ h := h
  stc {d} _ hx h := Dev.outputsOk_congr (d := d) rfl hx h
  settle h := Dev.settle_keeps_outputs h
  zeroDemand h := Dev.zeroDemand_outputsOk h
  stopTrain h := Dev.stopTrain_outputsOk h
  setLatch l h := Dev.setLatch_outputsOk l h
  clamps _ _ hne h := Dev.settle_outputsOk hne h.2.2.2.2
  turn _ _ h := ⟨h.1, h.2.1, fun _ => rfl, h.2.2.2⟩
  enterState s h := Dev.enterState_outputsOk s h
  superviseUnknown h := Dev.zeroDemand_outputsOk h
  reset b n := by cases b <;> exact (by decide : Dev.reset.outputsOk)
  now _ h := h
  tmp _ h := h
  btl _ h := h
  mnp _ h := h
  odoAll _ _ h := h
  dkcAll _ h := h
  cleAll _ _ h := h
  peers _ _ h := h
  lif _ _ _ h := h
  sup _ _ h := h
  inputs _ _ _ _ h := h
  downQuiet {d} x hoff h := by
    have hheld : d.outputsHeld = true := by simp [Dev.outputsHeld, hoff]
    have hheld' : ({ d with bdu := { d.bdu with inClampsDown := x } } : Dev).outputsHeld = true := hheld
    obtain ⟨htraction, hbrake, hduty, hclamp, htrain⟩ := h
    rw [hheld] at htraction hbrake hduty
    refine ⟨?_, ?_, fun _ => hduty rfl, hclamp, htrain⟩
    · rw [hheld']
      exact htraction
    · rw [hheld']
      exact hbrake
  bdu b hdown hup hlatch hrun hlevel htimer _ h := by
    obtain ⟨-, -, -, hclamp, htrain⟩ := h
    refine Dev.settle_outputsOk (by rw [hdown, hup]; exact hclamp) (fun hl => ?_)
    rw [hrun, hlevel, htimer]
    exact htrain (hlatch hl)
  handed _ h := h
  duty _ hd h := ⟨h.1, h.2.1, hd, h.2.2.2⟩
  train _ _ _ hl h := ⟨h.1, h.2.1, h.2.2.1, h.2.2.2.1, fun hl' => absurd (hl'.symm.trans hl) (by decide)⟩

/-! ### The direction line (R112) and the demand (R103) -/

@[simp] theorem Dev.stopTrain_dirLine (d : Dev) : d.stopTrain.bdu.dirLine = d.bdu.dirLine := by
  unfold Dev.stopTrain
  split <;> rfl

@[simp] theorem Dev.stopTrain_odo (d : Dev) : d.stopTrain.odo = d.odo := by
  unfold Dev.stopTrain
  split <;> rfl

@[simp] theorem Dev.stopTrain_sup (d : Dev) : d.stopTrain.sup = d.sup := by
  unfold Dev.stopTrain
  split <;> rfl

theorem Dev.setLatch_lineFollows {d : Dev} (l : Latch) (h : d.lineFollows) : (d.setLatch l).lineFollows := by
  refine ite_keeps (P := fun d => d.lineFollows) (fun _ => h) (fun _ => ?_)
  show (Dev.stopTrain _).bdu.dirLine = (Dev.stopTrain _).odo.pos.dir
  rw [Dev.stopTrain_dirLine, Dev.stopTrain_odo]
  cases l <;> exact h

/-- Every elementary change of a step keeps the direction line at the record's direction. -/
theorem outer_lineFollows : Outer (fun d => d.lineFollows) where
  counters _ h := h
  freeCount _ h := h
  enqueue k dst b t h := by
    obtain ⟨l, cs, heq⟩ := Dev.enqueue_changes _ k dst b t
    rw [heq]
    exact h
  withdraw _ h := h
  faults _ _ h := h
  cle _ _ _ h := h
  odo _ _ hdir h := Eq.trans h hdir.symm
  place _ _ := rfl
  orderSpeed h := h
  dkc _ _ h := h
  stc _ _ h := h
  settle h := h
  zeroDemand h := h
  stopTrain h := by
    rw [Dev.lineFollows, Dev.stopTrain_dirLine, Dev.stopTrain_odo]
    exact h
  setLatch l h := Dev.setLatch_lineFollows l h
  clamps _ _ _ h := h
  turn _ _ _ := rfl
  enterState _ h := Dev.enterState_keeps (P := fun d => d.lineFollows) (fun _ h => h) (fun _ h => h)
    (fun _ h => Dev.setLatch_lineFollows _ h) h
  superviseUnknown h := h
  reset b _ := by cases b <;> rfl
  now _ h := h
  tmp _ h := h
  btl _ h := h
  mnp _ h := h
  odoAll _ hdir h := Eq.trans h hdir.symm
  dkcAll _ h := h
  cleAll _ _ h := h
  peers _ _ h := h
  lif _ _ _ h := h
  sup _ _ h := h
  inputs _ _ _ _ h := h
  downQuiet _ _ h := h
  bdu _ _ _ _ _ _ _ hdir h := Eq.trans hdir h
  handed _ h := h
  duty _ _ h := h
  train _ _ _ _ h := h

theorem Dev.setLatch_demandOk {d : Dev} (l : Latch) (h : d.demandOk) : (d.setLatch l).demandOk :=
  ite_keeps (P := fun d => d.demandOk) (fun _ => h) (fun _ => Nat.zero_le _)

/-- Every elementary change of a step keeps the demand within the permitted speed. -/
theorem outer_demandOk : Outer (fun d => d.demandOk) where
  counters _ h := h
  freeCount _ h := h
  enqueue k dst b t h := by
    obtain ⟨l, cs, heq⟩ := Dev.enqueue_changes _ k dst b t
    rw [heq]
    exact h
  withdraw _ h := h
  faults _ _ h := h
  cle _ _ _ h := h
  odo _ _ _ h := h
  place _ h := h
  orderSpeed h := h
  dkc _ _ h := h
  stc _ _ h := h
  settle h := h
  zeroDemand _ := Nat.zero_le _
  stopTrain h := by
    rw [Dev.demandOk, Dev.stopTrain_sup]
    exact h
  setLatch l h := Dev.setLatch_demandOk l h
  clamps _ _ _ h := h
  turn _ _ h := h
  enterState _ h := Dev.enterState_keeps (P := fun d => d.demandOk) (fun _ _ => Nat.zero_le _) (fun _ h => h)
    (fun _ h => Dev.setLatch_demandOk _ h) h
  superviseUnknown _ := Nat.zero_le _
  reset b _ := by cases b <;> exact Nat.le_refl 0
  now _ h := h
  tmp _ h := h
  btl _ h := h
  mnp _ h := h
  odoAll _ _ h := h
  dkcAll _ h := h
  cleAll _ _ h := h
  peers _ _ h := h
  lif _ _ _ h := h
  sup _ hs h := hs h
  inputs _ _ _ _ h := h
  downQuiet _ _ h := h
  bdu _ _ _ _ _ _ _ _ h := h
  handed _ h := h
  duty _ _ h := h
  train _ _ _ _ h := h

/-! ### The invariants of every step, and reset -/

/-- Settles O59: every elementary change keeps the outputs, and the direction line. -/
theorem everyStepKeepsTheOutputs : Obligations.EveryStepKeepsTheOutputs :=
  fun s t hstep => ⟨outer_outputsOk.step s t hstep, outer_lineFollows.step s t hstep⟩

/-- Settles O60: the demand is 0 or the ramp's, which ends no higher than v_perm. -/
theorem everyStepKeepsTheDemandPermitted : Obligations.EveryStepKeepsTheDemandPermitted :=
  fun s t hstep => outer_demandOk.step s t hstep

theorem exec_reset (b : Bool) (s : State) :
    exec (.reset b) s = .next { s with dev := { Dev.afterReset b with freeCount := s.dev.freeCount } } := rfl

/-- Settles O57: the reset part meets the invariants outright, and the part after RESET is that of each `Outer`'s `reset`. -/
theorem resetSatisfiesTheInvariants : Obligations.ResetSatisfiesTheInvariants := by
  refine ⟨by decide, fun b s => ⟨_, exec_reset b s, ?_⟩⟩
  obtain ⟨hline, hclaims, hfaults, hpeers⟩ := outer_listsOk.reset b s.dev.freeCount
  exact ⟨hline, hclaims, hfaults, hpeers, outer_outputsOk.reset b _, outer_lineFollows.reset b _, outer_demandOk.reset b _⟩

/-- A counter of a list of zeros reads as 0 (R190). -/
theorem Dev.counter_reset (c : Counter) : Dev.reset.counter c = 0 := by
  have hzero (n i : Nat) : (List.replicate n (0 : BitVec 16)).getD i 0 = 0 := by
    rw [List.getD_eq_getElem?_getD, List.getElem?_replicate]
    split <;> rfl
  exact hzero _ _

/-- Settles O2: each value is the one the block's reset record holds. -/
theorem resetLeavesTheStatedValues : Obligations.ResetLeavesTheStatedValues := by
  refine ⟨?_, fun s => ⟨rfl, rfl⟩⟩
  intro d
  refine ⟨rfl, rfl, rfl, rfl, rfl, rfl, rfl, rfl, rfl, rfl, rfl, rfl, rfl, rfl, rfl, rfl, rfl, rfl, rfl, rfl, rfl, rfl, rfl, rfl,
    rfl, rfl, rfl, rfl, rfl, rfl, rfl, rfl, rfl, rfl, rfl, rfl, rfl, rfl, Dev.counter_reset⟩

/-- Settles O56: precedence is the lexicographic order of R60, in which the station number decides last. -/
theorem ticketsRankInOneOrder : Obligations.TicketsRankInOneOrder := by
  have hiff (t u : Ticket) : t.outranks u = true ↔ (t.occupancy = true ∧ u.occupancy = false) ∨
      (t.occupancy = u.occupancy ∧ (u.loss < t.loss ∨ (t.loss = u.loss ∧ (u.priority < t.priority ∨
        (t.priority = u.priority ∧ t.station < u.station))))) := by
    unfold Ticket.outranks
    by_cases ho : t.occupancy = u.occupancy
    · by_cases hl : t.loss = u.loss
      · by_cases hp : t.priority = u.priority <;> simp [ho, hl, hp]
      · simp [ho, hl]
    · cases ht : t.occupancy <;> cases hu : u.occupancy <;> simp_all
  refine ⟨hiff, fun t => ?_, fun t u hne => ⟨Ticket.outranks_asymm, fun h => ?_⟩, fun t u v htu huv => ?_⟩
  · rw [← Bool.not_eq_true, hiff]
    simp
  · rw [← Bool.not_eq_true, hiff] at h
    rw [hiff]
    cases ht : t.occupancy <;> cases hu : u.occupancy <;> simp_all <;> omega
  · rw [hiff] at *
    rcases htu with ⟨ht, hu⟩ | ⟨hoccupancy, htu⟩
    · rcases huv with ⟨hu', -⟩ | ⟨hoccupancy', -⟩
      · rw [hu'] at hu
        cases hu
      · exact .inl ⟨ht, hoccupancy' ▸ hu⟩
    · rcases huv with ⟨hu, hv⟩ | ⟨hoccupancy', huv⟩
      · exact .inl ⟨hoccupancy.trans hu, hv⟩
      · exact .inr ⟨hoccupancy.trans hoccupancy', by omega⟩

end Sys2Proof.Machine

/-! SUPPORT. Bytes and the transmit queue: what is built is read back (R165, R169), and a frame queued stands in its class (R173). -/

namespace Sys2Proof.Machine

/-! ### Bytes -/

@[simp] theorem beBytes_length (w n : Nat) : (beBytes w n).length = w := by
  induction w with
  | zero => rfl
  | succ w ih => simp [beBytes, ih]

theorem beBytes_foldl (w n acc : Nat) :
    (beBytes w n).foldl (fun acc b => acc * 256 + b.toNat) acc = acc * 256 ^ w + n % 256 ^ w := by
  induction w generalizing acc with
  | zero => simp [beBytes, Nat.mod_one]
  | succ w ih =>
    rw [beBytes, List.foldl_cons, ih, Nat.mod_pow_succ, BitVec.toNat_ofNat]
    ring

/-- The number that the bytes of a number spell. -/
theorem beValue_beBytes (w n : Nat) : beValue (beBytes w n) = n % 256 ^ w := by
  rw [beValue, beBytes_foldl, Nat.zero_mul, Nat.zero_add]

theorem getD_append_add (l m : List Byte) (k : Nat) : (l ++ m).getD (l.length + k) 0 = m.getD k 0 := by
  rw [List.getD_eq_getElem?_getD, List.getD_eq_getElem?_getD, List.getElem?_append_right (Nat.le_add_right ..),
    Nat.add_sub_cancel_left]

/-- Bytes that stand in a list at a place are read there as the number they spell. -/
theorem beAt_append (l m r : List Byte) : beAt (l ++ (m ++ r)) l.length m.length = beValue m := by
  unfold beAt
  congr 1
  refine List.ext_getElem (by simp) fun k h _ => ?_
  simp only [List.length_map, List.length_range] at h
  rw [List.getElem_map, List.getElem_range, getD_append_add, List.getD_eq_getElem?_getD, List.getElem?_append_left h]
  simp [h]

theorem beAt_beBytes (l r : List Byte) (w n : Nat) : beAt (l ++ (beBytes w n ++ r)) l.length w = n % 256 ^ w := by
  have h := beAt_append l (beBytes w n) r
  rwa [beBytes_length, beValue_beBytes] at h

/-! ### The frame envelope (R165) -/

theorem FrameKind.ofCode_code (k : FrameKind) : FrameKind.ofCode k.code = some k := by
  cases k <;> decide

theorem FrameKind.code_lt (k : FrameKind) : k.code < 256 := by
  cases k <;> decide

/-- What of a frame the check runs over: the header and the payload (R165). -/
def frameBody (dest src : Nat) (k : FrameKind) (p : List Byte) : List Byte :=
  [BitVec.ofNat 8 dest, BitVec.ofNat 8 src, BitVec.ofNat 8 k.code, BitVec.ofNat 8 p.length] ++ p

theorem frameBytes_eq (dest src : Nat) (k : FrameKind) (p : List Byte) :
    frameBytes dest src k p = frameBody dest src k p ++ beBytes 2 (crc16 (frameBody dest src k p)).toNat := rfl

@[simp] theorem frameBody_length (dest src : Nat) (k : FrameKind) (p : List Byte) :
    (frameBody dest src k p).length = 4 + p.length := by
  simp [frameBody]; omega

section
variable {dest src : Nat} {k : FrameKind} {p : List Byte}

theorem frameBytes_dest (h : dest < 256) : byteAt (frameBytes dest src k p) 0 = dest := by
  simpa [byteAt, frameBytes] using h

theorem frameBytes_src (h : src < 256) : byteAt (frameBytes dest src k p) 1 = src := by
  simpa [byteAt, frameBytes] using h

theorem frameBytes_kind : byteAt (frameBytes dest src k p) 2 = k.code := by
  simpa [byteAt, frameBytes] using k.code_lt

theorem frameBytes_length (h : p.length ≤ 60) : byteAt (frameBytes dest src k p) 3 = p.length := by
  have h' : p.length < 256 := by omega
  simpa [byteAt, frameBytes] using h'

theorem frameBytes_whole (h : p.length ≤ 60) : frameWhole (frameBytes dest src k p) = true := by
  have hlen : (frameBytes dest src k p).length = 6 + p.length := by
    rw [frameBytes_eq, List.length_append, frameBody_length, beBytes_length]
    omega
  simp [frameWhole, frameBytes_length h, hlen, h]

theorem frameBytes_payload (h : p.length ≤ 60) : framePayload (frameBytes dest src k p) = p := by
  rw [framePayload, frameBytes_length h]
  simp [frameBytes]

theorem frameBytes_crc (h : p.length ≤ 60) : frameCrcOk (frameBytes dest src k p) = true := by
  have htake : (frameBytes dest src k p).take (4 + p.length) = frameBody dest src k p := by
    rw [frameBytes_eq, ← frameBody_length dest src k p, List.take_left']
    rfl
  have hcheck := beAt_beBytes (frameBody dest src k p) [] 2 (crc16 (frameBody dest src k p)).toNat
  rw [List.append_nil, ← frameBytes_eq, frameBody_length] at hcheck
  rw [frameCrcOk, frameCheck, frameBytes_length h, htake, hcheck, beq_iff_eq]
  have hlt := (crc16 (frameBody dest src k p)).isLt
  exact BitVec.eq_of_toNat_eq (by rw [BitVec.toNat_ofNat]; omega)

end

/-- Settles O16: the header's bytes stand first, the payload after them, and the check is that of the body. -/
theorem frameBytesAreReadBack : Obligations.FrameBytesAreReadBack := by
  intro dest src k p hdest hsrc hlen b
  exact ⟨frameBytes_whole hlen, frameBytes_crc hlen, frameBytes_dest hdest, frameBytes_src hsrc,
    by rw [frameBytes_kind, FrameKind.ofCode_code], frameBytes_payload hlen⟩

/-! ### A frame placed by its class (R173) -/

/-- Insertion by a key, as the part of the list before the place and the part after it. -/
theorem insertSorted_eq {α : Type} (key : α → Nat) (x : α) (l : List α) :
    insertSorted key x l = l.takeWhile (fun y => decide (key y ≤ key x)) ++ x :: l.dropWhile (fun y => decide (key y ≤ key x)) := by
  induction l with
  | nil => rfl
  | cons y ys ih =>
    unfold insertSorted
    by_cases h : key x < key y
    · simp [h, Nat.not_le.2 h]
    · simp [h, Nat.not_lt.1 h, ih]

/-- A frame placed: the queue with it in its class, and an IDLE transmitter WAITING. -/
theorem Lif.place_eq (l : Lif) (e : TxEntry) :
    l.place e = { l with
      queue := l.queue.takeWhile (fun x => decide (x.kind.txClass ≤ e.kind.txClass)) ++
        e :: l.queue.dropWhile (fun x => decide (x.kind.txClass ≤ e.kind.txClass))
      tx := if l.tx = .idle then .waiting else l.tx } := by
  unfold Lif.place
  rw [insertSorted_eq]
  unfold Lif.follow
  cases htx : l.tx <;> simp

/-- The newest entry of a test leaves the queue; the others keep their order. -/
theorem dropLast?_append {p : TxEntry → Bool} {pre post : List TxEntry} {x : TxEntry} (hx : p x = true)
    (hpost : ∀ y ∈ post, p y = false) : dropLast? p (pre ++ x :: post) = some (pre ++ post) := by
  unfold dropLast?
  rw [if_pos (by simp [hx])]
  have hnone : ∀ y ∈ post.reverse, ¬p y = true := fun y hy => by simp [hpost y (by simpa using hy)]
  rw [List.reverse_append, List.reverse_cons, List.append_assoc, List.eraseP_append_right _ hnone]
  simp [List.eraseP_cons_of_pos, hx]

theorem dropLast?_none {p : TxEntry → Bool} {q : List TxEntry} (h : ∀ x ∈ q, p x = false) : dropLast? p q = none := by
  unfold dropLast?
  rw [if_neg]
  simpa using h

/-! ### What queuing a frame answers (R173) -/

section
variable {d : Dev} {k : FrameKind} {dst : Nat} {b : List Byte} {t : Option Nat}

theorem enqueue_of_inactive (h : d.lif.active = false) : d.enqueue k dst b t = (d, false) := by
  simp [Dev.enqueue, h]

theorem enqueue_coalesced (h : d.lif.active = true) (hk : k = .beacon) (hq : ∃ x ∈ d.lif.queue, x.kind = .beacon) :
    d.enqueue k dst b t = (d.bump .coalescedBeacons, true) := by
  simp [Dev.enqueue, h, hk, hq]

theorem enqueue_with_room (h : d.lif.active = true) (hk : k = .beacon → ∀ x ∈ d.lif.queue, x.kind ≠ .beacon)
    (hlen : d.lif.queue.length < 8) : d.enqueue k dst b t = ({ d with lif := d.lif.place ⟨k, dst, b, 0, t, false⟩ }, true) := by
  have hb : (k == .beacon && d.lif.queue.any (fun x => x.kind == .beacon)) = false := by simpa using hk
  simp [Dev.enqueue, h, hb, Config.maxQueue, hlen]

theorem enqueue_full {q : List TxEntry} (h : d.lif.active = true) (hk : k = .beacon → ∀ x ∈ d.lif.queue, x.kind ≠ .beacon)
    (hlen : 8 ≤ d.lif.queue.length) (hroom : makeRoom k.txClass d.lif.queue = some q) : d.enqueue k dst b t =
      (({ d with lif := ({ d.lif with queue := q }).place ⟨k, dst, b, 0, t, false⟩ } : Dev).bump .queueDrops, true) := by
  have hb : (k == .beacon && d.lif.queue.any (fun x => x.kind == .beacon)) = false := by simpa using hk
  simp [Dev.enqueue, h, hb, Config.maxQueue, Nat.not_lt.2 hlen, hroom]

theorem enqueue_dropped (h : d.lif.active = true) (hk : k = .beacon → ∀ x ∈ d.lif.queue, x.kind ≠ .beacon)
    (hlen : 8 ≤ d.lif.queue.length) (hroom : makeRoom k.txClass d.lif.queue = none) :
    d.enqueue k dst b t = (d.bump .queueDrops, false) := by
  have hb : (k == .beacon && d.lif.queue.any (fun x => x.kind == .beacon)) = false := by simpa using hk
  simp [Dev.enqueue, h, hb, Config.maxQueue, Nat.not_lt.2 hlen, hroom]

end

/-! What gives way in a full queue: the newest class 3 frame, or the BEACON, that is not being sent. -/

theorem evictReport_some {pre post : List TxEntry} {x : TxEntry} (hx : x.kind.txClass = 3 ∧ x.sending = false)
    (hpost : ∀ y ∈ post, ¬(y.kind.txClass = 3 ∧ y.sending = false)) : evictReport (pre ++ x :: post) = some (pre ++ post) :=
  dropLast?_append (by simpa using hx) fun y hy => by simpa using hpost y hy

theorem evictReport_none {q : List TxEntry} (h : ∀ x ∈ q, ¬(x.kind.txClass = 3 ∧ x.sending = false)) : evictReport q = none :=
  dropLast?_none fun x hx => by simpa using h x hx

theorem evictBeacon_some {pre post : List TxEntry} {x : TxEntry} (hx : x.kind = .beacon ∧ x.sending = false)
    (hpost : ∀ y ∈ post, ¬(y.kind = .beacon ∧ y.sending = false)) : evictBeacon (pre ++ x :: post) = some (pre ++ post) :=
  dropLast?_append (by simpa using hx) fun y hy => by simpa using hpost y hy

theorem evictBeacon_none {q : List TxEntry} (h : ∀ x ∈ q, ¬(x.kind = .beacon ∧ x.sending = false)) : evictBeacon q = none :=
  dropLast?_none fun x hx => by simpa using h x hx

section
variable {n : Nat} {q : List TxEntry}

theorem makeRoom_report {q' : List TxEntry} (hn : n ≤ 2) (h : evictReport q = some q') : makeRoom n q = some q' := by
  unfold makeRoom
  by_cases h1 : n ≤ 1
  · simp [h1, h]
  · simp [h, show n = 2 by omega]

theorem makeRoom_beacon (hn : n ≤ 1) (h : evictReport q = none) : makeRoom n q = evictBeacon q := by
  simp [makeRoom, hn, h]

theorem makeRoom_none_of_two (h : evictReport q = none) : makeRoom 2 q = none := by
  simp [makeRoom, h]

theorem makeRoom_none_of_three : makeRoom 3 q = none := rfl

end

/-- Settles O20: the branches of queuing, with what gives way in a full queue as the last entry of its test. -/
theorem fullQueueEvictsOrDrops : Obligations.FullQueueEvictsOrDrops := by
  intro d kind dest payload tag q n mine put answer report beacon evicted
  have hput : ∀ l : List TxEntry, put l = { d with lif := ({ d.lif with queue := l }).place mine } := fun l => by
    rw [Lif.place_eq]
  refine ⟨enqueue_of_inactive, enqueue_coalesced, fun hact hk hlen => ?_, fun hact hk hlen => ⟨?_, ?_, ?_, ?_, ?_⟩⟩
  · rw [hput]; exact enqueue_with_room hact hk hlen
  · intro hn pre x post hq hx hpost
    rw [hput]
    exact enqueue_full hact hk hlen (makeRoom_report hn ((congrArg evictReport hq).trans (evictReport_some hx hpost)))
  · intro hn hnone pre x post hq hx hpost
    rw [hput]
    exact enqueue_full hact hk hlen ((makeRoom_beacon hn (evictReport_none hnone)).trans
      ((congrArg evictBeacon hq).trans (evictBeacon_some hx hpost)))
  · intro hn hnone
    exact enqueue_dropped hact hk hlen ((makeRoom_beacon hn (evictReport_none fun x hx => (hnone x hx).1)).trans
      (evictBeacon_none fun x hx => (hnone x hx).2))
  · intro hn hnone
    exact enqueue_dropped hact hk hlen ((congrArg (makeRoom · q) hn).trans (makeRoom_none_of_two (evictReport_none hnone)))
  · intro hn
    exact enqueue_dropped hact hk hlen (congrArg (makeRoom · q) hn)

end Sys2Proof.Machine

/-! SUPPORT. Raising a fault, and the Claim Engine's own work: what each leaves unchanged. -/

namespace Sys2Proof.Machine

/-! ### Queuing and reporting: the Line Interface's queue and the counters -/

/-- Following the queue changes the transmitter's state alone (R163). -/
theorem Lif.follow_changes (l : Lif) : l.follow = { l with tx := l.follow.tx } := by
  unfold Lif.follow
  split
  · split <;> rfl
  · split <;> rfl
  · rfl
  · rfl

theorem Lif.place_changes (l : Lif) (e : TxEntry) : ∃ (q : List TxEntry) (t : TxState), l.place e = { l with queue := q, tx := t } :=
  ⟨_, _, l.place_eq e⟩

/-- Queuing a frame changes the queue, the transmitter and the counters alone (R173). -/
theorem Dev.enqueue_line (d : Dev) (k : FrameKind) (dst : Nat) (b : List Byte) (t : Option Nat) :
    ∃ (q : List TxEntry) (x : TxState) (cs : List (BitVec 16)),
      (d.enqueue k dst b t).1 = { d with lif := { d.lif with queue := q, tx := x }, counters := cs } := by
  unfold Dev.enqueue
  simp only [Lif.place_eq]
  split
  · exact ⟨_, _, _, rfl⟩
  · split
    · exact ⟨_, _, _, rfl⟩
    · split
      · exact ⟨_, _, _, rfl⟩
      · split <;> exact ⟨_, _, _, rfl⟩

/-- Withdrawing an INTENT changes the queue and the transmitter alone (R67). -/
theorem Dev.withdraw_line (d : Dev) (tag : Nat) :
    ∃ (q : List TxEntry) (x : TxState), d.withdraw tag = { d with lif := { d.lif with queue := q, tx := x } } := by
  refine ⟨(d.withdraw tag).lif.queue, (d.withdraw tag).lif.tx, ?_⟩
  rw [Dev.withdraw, Lif.follow_changes]

/-- A class 3 frame joins a queue with room, and changes no queue that is full (R173). -/
theorem Dev.send_report {d : Dev} {k : FrameKind} (hk : k.txClass = 3) (dst : Nat) (b : List Byte) :
    ∃ cs : List (BitVec 16), d.send k dst b =
      { d with lif := if d.lif.hasRoom then d.lif.place ⟨k, dst, b, 0, none, false⟩ else d.lif, counters := cs } := by
  have hbeacon : k ≠ .beacon := by rintro rfl; cases hk
  by_cases hact : d.lif.active = true
  · by_cases hlen : d.lif.queue.length < 8
    · rw [if_pos ⟨hact, hlen⟩, Dev.send, enqueue_with_room hact (fun h => absurd h hbeacon) hlen]
      exact ⟨_, rfl⟩
    · rw [if_neg (fun h => hlen h.2), Dev.send,
        enqueue_dropped hact (fun h => absurd h hbeacon) (Nat.not_lt.1 hlen) (by rw [hk]; rfl)]
      exact ⟨_, rfl⟩
  · rw [if_neg (fun h => hact h.1), Dev.send, enqueue_of_inactive (by simpa using hact)]
    exact ⟨_, rfl⟩

/-! ### A kind enters the set (R180) -/

/-- A fault set in which a kind is active. -/
def kindIn (l : List FaultEntry) (k : FaultKind) : Bool := l.any (fun e => e.kind == k)

theorem Dev.faultActive_eq (d : Dev) (k : FaultKind) : d.faultActive k = kindIn d.faults k := rfl

theorem kindIn_map {l : List FaultEntry} {f : FaultEntry → FaultEntry} (hf : ∀ x, (f x).kind = x.kind) (k : FaultKind) :
    kindIn (l.map f) k = kindIn l k := by
  simp [kindIn, List.any_map, Function.comp_def, hf]

theorem kindIn_insert (e : FaultEntry) (l : List FaultEntry) (k : FaultKind) :
    kindIn (faultInsert e l) k = (e.kind == k || kindIn l k) := by
  rw [kindIn, faultInsert, (insertSorted_perm _ e l).any_eq, List.any_cons]
  rfl

theorem kindIn_filter_ne (l : List FaultEntry) (j k : FaultKind) :
    kindIn (l.filter (fun e => e.kind != j)) k = (kindIn l k && k != j) := by
  rw [Bool.eq_iff_iff]
  simp only [kindIn, List.any_eq_true, List.mem_filter, Bool.and_eq_true, beq_iff_eq, bne_iff_ne]
  constructor
  · rintro ⟨e, ⟨he, hj⟩, rfl⟩
    exact ⟨⟨e, he, rfl⟩, hj⟩
  · rintro ⟨⟨e, he, rfl⟩, hj⟩
    exact ⟨e, ⟨he, hj⟩, rfl⟩

/-- A fault report's payload and queue entry (R168, R183). -/
def faultReportEntry (b : List Byte) : TxEntry := ⟨.faultReport, 0, b, 0, none, false⟩

theorem Dev.reportFault_changes (d : Dev) (e : FaultEntry) :
    ∃ (fs : List FaultEntry) (b : List Byte) (cs : List (BitVec 16)),
      d.reportFault e = { d with
        faults := fs
        lif := if d.lif.hasRoom then d.lif.place (faultReportEntry b) else d.lif
        counters := cs }
      ∧ ∀ j, kindIn fs j = kindIn d.faults j := by
  obtain ⟨cs, hsend⟩ := Dev.send_report (k := .faultReport) rfl 0 (faultReportPayload 1 e.kind e.repeats 0 e.sec e.offset)
    (d := { d with faults := d.faults.map (fun (x : FaultEntry) => if x.kind = e.kind then { x with reported := true } else x) })
  exact ⟨_, _, _, congrArg (fun x => Dev.bump x .raisedQueued) hsend, kindIn_map (fun x => by split <;> rfl)⟩

/-- The entry with which a kind enters the set (R180). -/
def Dev.newFault (d : Dev) (k : FaultKind) : FaultEntry :=
  { kind := k, repeats := 0, sec := d.odo.beaconPlace.1, offset := d.odo.beaconPlace.2, clearBlocked := false, reported := false }

theorem Dev.enterFault_repeat {d : Dev} {k : FaultKind} (h : d.faultActive k = true) : d.enterFault k = { d.bump k.cls.total with
    faults := d.faults.map (fun (x : FaultEntry) => if x.kind = k then { x with repeats := satInc x.repeats } else x) } := by
  have hcounted : (d.bump k.cls.total).faultActive k = true := h
  rw [Dev.enterFault, if_pos hcounted]
  rfl

/-- A kind that was not active joins the set, and is reported once the line is active (R180, R184). -/
theorem Dev.enterFault_new {d : Dev} {k : FaultKind} (h : d.faultActive k = false) :
    d.enterFault k = if d.lif.active then
        ({ (d.bump k.cls.total).bump .kindsEntered with faults := faultInsert (d.newFault k) d.faults } : Dev).reportFault (d.newFault k)
      else { (d.bump k.cls.total).bump .kindsEntered with faults := faultInsert (d.newFault k) d.faults } := by
  have hcounted : ¬(d.bump k.cls.total).faultActive k = true := by
    show ¬d.faultActive k = true
    simp [h]
  rw [Dev.enterFault, if_neg hcounted]
  rfl

/-- What a kind that enters the set leaves: the set, the counters and, where it is new and there is room, its report queued (R180). -/
theorem Dev.enterFault_changes (d : Dev) (k : FaultKind) :
    ∃ (fs : List FaultEntry) (b : List Byte) (cs : List (BitVec 16)),
      d.enterFault k = { d with
        faults := fs
        lif := if d.faultActive k = false ∧ d.lif.hasRoom then d.lif.place (faultReportEntry b) else d.lif
        counters := cs }
      ∧ ∀ j, kindIn fs j = (k == j || d.faultActive j) := by
  by_cases hk : d.faultActive k = true
  · refine ⟨(d.enterFault k).faults, [], (d.bump k.cls.total).counters, (Dev.enterFault_repeat hk).trans ?_, fun j => ?_⟩
    · rw [if_neg (by simp [hk]), Dev.enterFault_repeat hk]
      rfl
    rw [Dev.enterFault_repeat hk, kindIn_map (fun x => by split <;> rfl), ← Dev.faultActive_eq]
    by_cases hj : k = j
    · simp [← hj, hk]
    · simp [hj]
  · have hnew : d.faultActive k = false := by simpa using hk
    have hin (j : FaultKind) : kindIn (faultInsert (d.newFault k) d.faults) j = (k == j || d.faultActive j) := kindIn_insert ..
    rw [Dev.enterFault_new hnew]
    by_cases hact : d.lif.active = true
    · rw [if_pos hact]
      obtain ⟨fs, b, cs, hreport, hfs⟩ := Dev.reportFault_changes
        { (d.bump k.cls.total).bump .kindsEntered with faults := faultInsert (d.newFault k) d.faults } (d.newFault k)
      refine ⟨fs, b, cs, ?_, fun j => (hfs j).trans (hin j)⟩
      rw [hreport]
      simp only [hnew, true_and]
      rfl
    · refine ⟨_, [], ((d.bump k.cls.total).bump .kindsEntered).counters, ?_, hin⟩
      rw [if_neg hact, if_neg (fun h => hact h.2.1)]
      rfl

theorem Dev.enterFault_active (d : Dev) (k j : FaultKind) : (d.enterFault k).faultActive j = (k == j || d.faultActive j) := by
  obtain ⟨fs, b, cs, heq, hin⟩ := d.enterFault_changes k
  rw [heq]
  exact hin j

/-! ### A HALT-class raise (R153, R186) -/

/-- The station in HALTED as a HALT leaves it (R153). -/
theorem Dev.enterHalted_changes (d : Dev) (r : Remembered) : ∃ (b : Bdu) (k : Dkc) (x : Stc) (t : Option LinkTest) (cs : List (BitVec 16)),
    d.enterHalted r = { d with bdu := b, dkc := k, stc := x, lif := { d.lif with test := t }, counters := cs } := by
  unfold Dev.enterHalted
  rw [Dev.enterState_of_demanding rfl]
  exact ⟨_, _, _, _, _, rfl⟩

theorem Dev.takeHalt_changes (d : Dev) : ∃ (b : Bdu) (k : Dkc) (x : Stc) (t : Option LinkTest) (cs : List (BitVec 16)),
    d.takeHalt = { d with bdu := b, dkc := k, stc := x, lif := { d.lif with test := t }, counters := cs } := by
  unfold Dev.takeHalt
  split
  · exact d.enterHalted_changes _
  · exact d.enterHalted_changes _
  · exact d.enterHalted_changes _
  all_goals exact ⟨_, _, _, _, _, rfl⟩

/-- Outside the states with an order under way a HALT sets the halt hold at most (R153). -/
theorem Dev.takeHalt_of_calm {d : Dev} (h : d.stc.state ∉ [.running, .approach, .docking]) :
    ∃ hold : Bool, d.takeHalt = { d with stc := { d.stc with haltHold := hold } } := by
  unfold Dev.takeHalt
  split
  · next hs => simp [hs] at h
  · next hs => simp [hs] at h
  · next hs => simp [hs] at h
  all_goals exact ⟨_, rfl⟩

section
variable {k : FaultKind}

theorem Dev.raise_of_warn (hk : k.cls = .warn) (d : Dev) : d.raise k = d.enterFault k := by
  rw [Dev.raise, Dev.takeRaise, hk]

theorem Dev.raise_of_halt (hk : k.cls = .halt) (d : Dev) : d.raise k = (d.enterFault k).takeHalt := by
  rw [Dev.raise, Dev.takeRaise, hk]

/-- A kind below SAFE-STOP changes the fault set with its report, and halts the carriage at most (R180, R186). -/
theorem Dev.raise_changes (hk : k.cls ≠ .safeStop) (d : Dev) :
    ∃ (fs : List FaultEntry) (b : Bdu) (x : Dkc) (y : Stc) (l : Lif) (cs : List (BitVec 16)),
      d.raise k = { d with faults := fs, bdu := b, dkc := x, stc := y, lif := l, counters := cs }
        ∧ ∀ j, kindIn fs j = (k == j || d.faultActive j) := by
  obtain ⟨fs, b, cs, heq, hin⟩ := d.enterFault_changes k
  cases hc : k.cls with
  | warn => exact ⟨fs, d.bdu, d.dkc, d.stc, _, cs, (Dev.raise_of_warn hc d).trans heq, hin⟩
  | halt =>
    obtain ⟨b, x, y, t, cs', hhalt⟩ := (d.enterFault k).takeHalt_changes
    refine ⟨fs, b, x, y, { (d.enterFault k).lif with test := t }, cs', (Dev.raise_of_halt hc d).trans ?_, hin⟩
    rw [hhalt, heq]
  | safeStop => exact absurd hc hk

/-- The line over such a raise: the report joins where the kind is new and there is room, and a link test may end (R176, R180). -/
theorem Dev.raise_lif (hk : k.cls ≠ .safeStop) (d : Dev) : ∃ (b : List Byte) (t : Option LinkTest),
    (d.raise k).lif = { (if d.faultActive k = false ∧ d.lif.hasRoom then d.lif.place (faultReportEntry b) else d.lif) with test := t }
      ∧ (d.stc.state ∉ [.running, .approach, .docking] → t = d.lif.test) := by
  obtain ⟨fs, b, cs, heq, -⟩ := d.enterFault_changes k
  have htest : (if d.faultActive k = false ∧ d.lif.hasRoom then d.lif.place (faultReportEntry b) else d.lif).test = d.lif.test := by
    split
    · rw [Lif.place_eq]
    · rfl
  have hlif := congrArg Dev.lif heq
  have hstc := congrArg Dev.stc heq
  refine ⟨b, (d.raise k).lif.test, ?_⟩
  cases hc : k.cls with
  | warn =>
    rw [Dev.raise_of_warn hc d, hlif]
    exact ⟨rfl, fun _ => htest⟩
  | halt =>
    rw [Dev.raise_of_halt hc d]
    constructor
    · obtain ⟨b, x, y, t, cs', hhalt⟩ := (d.enterFault k).takeHalt_changes
      rw [hhalt, hlif]
    · intro hcalm
      obtain ⟨hold, hhalt⟩ := Dev.takeHalt_of_calm (d := d.enterFault k) (by rw [hstc]; exact hcalm)
      rw [hhalt, hlif]
      exact htest
  | safeStop => exact absurd hc hk

theorem Dev.raise_active (hk : k.cls ≠ .safeStop) (d : Dev) (j : FaultKind) :
    (d.raise k).faultActive j = (k == j || d.faultActive j) := by
  obtain ⟨fs, b, x, y, l, cs, heq, hin⟩ := d.raise_changes hk
  rw [heq]
  exact hin j

end

/-! ### The Claim Engine's own work: claims, queued frames, DEADLOCK (R66 to R82) -/

/-- `P` outlives each elementary change of the operations that stay within the claims: they queue and withdraw frames, change the
Claim Engine, count, and raise or end DEADLOCK. -/
structure ClaimWork (P : Dev → Prop) : Prop where
  counters : ∀ {d : Dev} (cs : List (BitVec 16)), P d → P { d with counters := cs }
  enqueue : ∀ {d : Dev} (k : FrameKind) (dst : Nat) (b : List Byte) (t : Option Nat), P d → P (d.enqueue k dst b t).1
  withdraw : ∀ {d : Dev} (t : Nat), P d → P (d.withdraw t)
  cle : ∀ {d : Dev} (c : Cle), P d → P { d with cle := c }
  deadlock : ∀ {d : Dev} (l : List FaultEntry), (∀ k, k ≠ .deadlock → kindIn l k = d.faultActive k) → P d → P { d with faults := l }

namespace ClaimWork

variable {P : Dev → Prop}

theorem bump (h : ClaimWork P) {d : Dev} (c : Counter) (hd : P d) : P (d.bump c) := h.counters _ hd

theorem updateClaim (h : ClaimWork P) {d : Dev} (n : Nat) (f : Claim → Claim) (hd : P d) : P (d.updateClaim n f) := h.cle _ hd

theorem send (h : ClaimWork P) {d : Dev} (k : FrameKind) (dst : Nat) (b : List Byte) (hd : P d) : P (d.send k dst b) :=
  h.enqueue _ _ _ _ hd

theorem abandon (h : ClaimWork P) {d : Dev} (c : Claim) (hd : P d) : P (d.abandon c) := by
  unfold Dev.abandon
  split
  · exact h.withdraw _ hd
  all_goals exact hd

theorem endedDeadlock (h : ClaimWork P) {d : Dev} (hd : P d) :
    P (({ d with cle := { d.cle with deadlock := none } } : Dev).causeEnded .deadlock) :=
  ite_keeps (P := P) (fun _ => h.bump _ (h.deadlock _ (fun k hk => by simp [kindIn_filter_ne, hk, Dev.faultActive_eq]) (h.cle _ hd)))
    (fun _ => h.cle _ hd)

theorem tidyDeadlock (h : ClaimWork P) {d : Dev} (hd : P d) : P d.tidyDeadlock :=
  ite_keeps (fun _ => h.endedDeadlock hd) (fun _ => hd)

theorem endDeadlock (h : ClaimWork P) {d : Dev} (hd : P d) : P d.endDeadlock :=
  ite_keeps (fun _ => h.endedDeadlock hd) (fun _ => hd)

theorem raiseDeadlock (h : ClaimWork P) {d : Dev} (hd : P d) : P (d.raise .deadlock) := by
  rw [Dev.raise_of_warn rfl]
  have hcount : ∀ c, P (d.bump c) := fun c => h.bump c hd
  have hreport : ∀ (e : FaultEntry) (x : Dev), P x → P (x.reportFault e) := fun e x hx =>
    h.bump _ (h.send _ _ _ (h.deadlock _ (fun _ _ => kindIn_map (fun y => by split <;> rfl) _) hx))
  by_cases hk : d.faultActive .deadlock = true
  · rw [Dev.enterFault_repeat hk]
    exact h.deadlock _ (fun _ _ => kindIn_map (fun y => by split <;> rfl) _) (hcount _)
  · rw [Dev.enterFault_new (by simpa using hk)]
    have hjoined := h.deadlock (faultInsert (d.newFault .deadlock) d.faults)
      (fun j hj => by
        rw [kindIn_insert]
        simp only [Dev.newFault, Dev.faultActive_eq, Dev.bump_faults, Bool.or_eq_right_iff_imp, beq_iff_eq]
        exact fun e => absurd e.symm hj) (h.bump .kindsEntered (hcount FaultKind.deadlock.cls.total))
    exact ite_keeps (fun _ => hreport _ _ hjoined) (fun _ => hjoined)

theorem dropClaims (h : ClaimWork P) {d : Dev} (p : Claim → Bool) (hd : P d) : P (d.dropClaims p) :=
  h.tidyDeadlock (h.cle _ (foldl_keeps (fun _ c hx => h.abandon c hx) _ _ hd))

theorem sendRelease (h : ClaimWork P) {d : Dev} (secs : List Nat) (hd : P d) : P (d.sendRelease secs) :=
  ite_keeps (fun _ => hd) (fun _ => h.counters _ (h.enqueue _ _ _ _ (h.cle _ hd)))

theorem announceRelease (h : ClaimWork P) {d : Dev} (secs : List Nat) (hd : P d) : P (d.announceRelease secs) := by
  unfold Dev.announceRelease
  split
  · exact h.cle _ hd
  · exact h.sendRelease _ hd

theorem event (h : ClaimWork P) {d : Dev} {act : Dev → Dev} (ha : ∀ d, P d → P (act d)) (hd : P d) : P (Dev.event act d) :=
  h.sendRelease _ (h.sendRelease _ (h.cle _ (ha _ (h.cle _ hd))))

theorem releaseClaims (h : ClaimWork P) {d : Dev} (p : Claim → Bool) (hd : P d) : P (d.releaseClaims p) :=
  h.tidyDeadlock (h.announceRelease _ (h.cle _ hd))

theorem surrenderFrom (h : ClaimWork P) {d : Dev} (k : Nat) (hd : P d) : P (d.surrenderFrom k) :=
  h.tidyDeadlock (h.announceRelease _ (h.cle _ (foldl_keeps (fun _ c hx => h.abandon c hx) _ _ hd)))

theorem settleAbort (h : ClaimWork P) {d : Dev} (hd : P d) : P d.settleAbort :=
  ite_keeps (fun _ => h.cle _ (h.releaseClaims _ hd)) (fun _ => hd)

theorem claimsAbort (h : ClaimWork P) {d : Dev} (hd : P d) : P d.claimsAbort :=
  h.event (fun _ hx => h.settleAbort (h.cle _ (h.dropClaims _ hx))) hd

theorem claimsAtStandstill (h : ClaimWork P) {d : Dev} (hd : P d) : P d.claimsAtStandstill :=
  ite_keeps (fun _ => h.dropClaims _ (h.releaseClaims _ hd)) (fun _ => hd)

theorem claimsStandstill (h : ClaimWork P) {d : Dev} (hd : P d) : P d.claimsStandstill :=
  h.event (fun _ hx => h.claimsAtStandstill (h.settleAbort hx)) hd

theorem claimsOrderEnd (h : ClaimWork P) {d : Dev} (hd : P d) : P d.claimsOrderEnd :=
  h.event (fun _ hx => ite_keeps (fun _ => h.claimsAtStandstill (h.cle _ (h.endDeadlock (h.dropClaims _ hx))))
    (fun _ => h.cle _ (h.endDeadlock (h.dropClaims _ hx)))) hd

theorem sendPointsRequest (h : ClaimWork P) {d : Dev} (c : Claim) (hd : P d) : P (d.sendPointsRequest c) := by
  unfold Dev.sendPointsRequest
  split
  · exact h.send _ _ _ hd
  · exact hd

theorem requestPoints (h : ClaimWork P) {d : Dev} (c : Claim) (k : Bool) (hd : P d) : P (d.requestPoints c k) :=
  h.updateClaim _ _ (h.sendPointsRequest c hd)

theorem mutualYield (h : ClaimWork P) {d : Dev} (t : Claim) (p : Nat) (hd : P d) : P (d.mutualYield t p) := by
  unfold Dev.mutualYield
  split
  · exact h.bump _ (h.cle _ (h.releaseClaims _ hd))
  · next k _ =>
    have hyield : P (((d.surrenderFrom k).raiseLoss).bump .mutualYields).endDeadlock :=
      h.endDeadlock (h.bump _ (h.cle _ (h.surrenderFrom _ hd)))
    exact ite_keeps (P := P) (fun _ => h.updateClaim _ _ hyield) (fun _ => hyield)

theorem examineMutual (h : ClaimWork P) {d : Dev} (hd : P d) : P d.examineMutual := by
  unfold Dev.examineMutual
  split
  · next p b _ _ =>
    have hended : P (if d.cle.deadlock.any (fun q => q != p) then d.endDeadlock else d) :=
      ite_keeps (fun _ => h.endDeadlock hd) (fun _ => hd)
    generalize (if d.cle.deadlock.any (fun q => q != p) then d.endDeadlock else d) = x at hended ⊢
    simp only
    split
    · exact ite_keeps (fun _ => h.endDeadlock hended) (fun _ => hended)
    · exact ite_keeps (fun _ => hended) (fun _ => ite_keeps (fun _ => h.raiseDeadlock (h.cle _ hended)) (fun _ =>
        ite_keeps (fun _ => h.mutualYield _ _ hended) (fun _ => hended)))
  · exact hd

theorem contend (h : ClaimWork P) {d : Dev} (c : Claim) (hd : P d) : P (d.contend c) := by
  have hsent := h.enqueue .intent 0 (ticketPayload c.sec d.currentTicket) (some d.cle.nextTag)
    (h.bump .contentionsStarted (h.cle { d.cle with nextTag := d.cle.nextTag + 1 } hd))
  exact ite_keeps (fun _ => h.updateClaim _ _ hsent) (fun _ => h.bump _ (h.updateClaim _ _ hsent))

theorem examineFront (h : ClaimWork P) {d : Dev} (hd : P d) : P d.examineFront := by
  unfold Dev.examineFront
  split
  · exact h.tidyDeadlock hd
  · next c _ =>
    refine ite_keeps (fun _ => h.dropClaims _ hd) (fun _ => ite_keeps (fun _ => h.tidyDeadlock (h.updateClaim _ _ hd)) (fun _ => ?_))
    have hexamined : P (match d.blocked c.sec with
        | some (p, b) => if c.state = .blocked p b none then d
          else (d.updateClaim c.sec (fun e => { e with state := .blocked p b none })).examineMutual
        | none => (d.contend c).tidyDeadlock) := by
      split
      · exact ite_keeps (fun _ => hd) (fun _ => h.examineMutual (h.updateClaim _ _ hd))
      · exact h.tidyDeadlock (h.contend c hd)
    split
    · exact hd
    · exact hd
    · exact hd
    · exact hexamined
    · exact hexamined

theorem examineBlocked (h : ClaimWork P) {d : Dev} (hd : P d) : P d.examineBlocked := by
  unfold Dev.examineBlocked
  split
  · exact h.examineFront hd
  · exact hd

theorem refront (h : ClaimWork P) {d : Dev} (old : Option (Option Nat)) (hd : P d) : P (d.refront old) :=
  ite_keeps (fun _ => h.examineFront hd) (fun _ => hd)

theorem onViewChanged (h : ClaimWork P) {d : Dev} (hd : P d) : P d.onViewChanged :=
  h.event (fun _ hx => h.examineBlocked hx) hd

theorem quietCleared (h : ClaimWork P) {d : Dev} (hd : P d) : P d.quietCleared := by
  refine h.event (fun x hx => ?_) hd
  split
  · exact h.examineFront hx
  · exact h.examineFront hx
  · exact hx

theorem intentDropped (h : ClaimWork P) {d : Dev} (tag : Nat) (hd : P d) : P (d.intentDropped tag) :=
  h.event (fun _ hx => ite_keeps (fun _ => h.examineFront (h.bump _ (h.cle _ hx))) (fun _ => hx)) hd

theorem loseContention (h : ClaimWork P) {d : Dev} (c : Claim) (p : Nat) (b : BlockBasis) (hd : P d) : P (d.loseContention c p b) :=
  h.examineMutual (h.tidyDeadlock (h.updateClaim _ _ (h.bump _ (h.cle _ (h.abandon c hd)))))

theorem junctionSilent (h : ClaimWork P) {d : Dev} (n : Nat) (hd : P d) : P (d.junctionSilent n) := by
  refine foldl_keeps (fun x c hx => ?_) _ _ hd
  split
  · exact h.requestPoints _ _ (h.bump _ hx)
  · exact h.requestPoints _ _ (h.bump _ hx)
  all_goals exact hx

theorem onFreshness (h : ClaimWork P) {d : Dev} (r : PeerRec) (hd : P d) : P (d.onFreshness r) :=
  h.event (fun _ hx => h.examineBlocked (ite_keeps (fun _ => h.junctionSilent _ hx) (fun _ => hx))) hd

end ClaimWork

/-- What the Claim Engine's own work may have changed of a part: the claims, the queue, the counters, and DEADLOCK in the fault set. -/
def Dev.claimsApart (d e : Dev) : Prop :=
  ∃ (c : Cle) (q : List TxEntry) (t : TxState) (fs : List FaultEntry) (cs : List (BitVec 16)),
    e = { d with cle := c, lif := { d.lif with queue := q, tx := t }, faults := fs, counters := cs }
      ∧ ∀ k, k ≠ .deadlock → kindIn fs k = d.faultActive k

theorem Dev.claimsApart_refl (d : Dev) : d.claimsApart d := ⟨_, _, _, _, _, rfl, fun _ _ => rfl⟩

/-- The Claim Engine's own work leaves every other block as it was. -/
theorem claimWork_apart (d : Dev) : ClaimWork d.claimsApart where
  counters _ h := by
    obtain ⟨c, q, t, fs, _, rfl, hfs⟩ := h
    exact ⟨_, _, _, _, _, rfl, hfs⟩
  enqueue k dst b t h := by
    obtain ⟨c, q, x, fs, cs, rfl, hfs⟩ := h
    obtain ⟨q', x', cs', heq⟩ := Dev.enqueue_line _ k dst b t
    exact ⟨_, _, _, _, _, heq, hfs⟩
  withdraw tag h := by
    obtain ⟨c, q, x, fs, cs, rfl, hfs⟩ := h
    obtain ⟨q', x', heq⟩ := Dev.withdraw_line _ tag
    exact ⟨_, _, _, _, _, heq, hfs⟩
  cle _ h := by
    obtain ⟨_, q, t, fs, cs, rfl, hfs⟩ := h
    exact ⟨_, _, _, _, _, rfl, hfs⟩
  deadlock l hl h := by
    obtain ⟨c, q, t, fs, cs, rfl, hfs⟩ := h
    exact ⟨_, _, _, _, _, rfl, fun k hk => (hl k hk).trans (hfs k hk)⟩

end Sys2Proof.Machine

/-! SUPPORT. The Line Interface's events: its timers (R163, R174, R175), a frame received (R166), a frame sent (R163). -/

namespace Sys2Proof.Machine

/-! ### The timers -/

theorem Lif.follow_of_idle {l : Lif} (h : l.tx = .idle) : l.follow = { l with tx := if l.queue.isEmpty then .idle else .waiting } := by
  unfold Lif.follow
  rw [h]
  cases hq : l.queue.isEmpty
  · simp
  · simp [← h]

theorem exec_backoffExpiry {s : State} (htx : s.dev.lif.tx = .backoff) (hdue : s.dev.due s.dev.lif.backoffTimer = true) :
    exec .backoffExpiry s = .next { s with dev := { s.dev with lif := { s.dev.lif with
      tx := if s.dev.lif.queue.isEmpty then .idle else .waiting, backoffTimer := none } } } := by
  have hexec : exec .backoffExpiry s = s.becomes s.dev.txBackoffExpiry := rfl
  rw [hexec, State.becomes_eq, Dev.txBackoffExpiry, Dev.whileDue_due _ _ hdue]
  simp only [htx]
  rw [Lif.follow_of_idle rfl]
  rfl

/-- The part with its beacon timer started again (R174). -/
def Dev.beaconAgain (d : Dev) : Dev :=
  d.setLif { d.lif with beaconTimer := d.timerMs d.tmp.plan.beaconPeriod }

@[simp] theorem Dev.beaconAgain_queue (d : Dev) : d.beaconAgain.lif.queue = d.lif.queue := rfl

theorem exec_beaconTimerExpiry {s : State} (hdue : s.dev.due s.dev.lif.beaconTimer = true) :
    exec .beaconTimerExpiry s = .next { s with dev := s.dev.beaconAgain.send .beacon 0 [] } := by
  have hexec : exec .beaconTimerExpiry s = s.becomes s.dev.beaconTimerExpiry := rfl
  rw [hexec, State.becomes_eq, Dev.beaconTimerExpiry, Dev.whileDue_due _ _ hdue]
  rfl

theorem exec_lineQuietExpiry {s : State} (hdue : s.dev.due s.dev.lif.quietTimer = true) :
    exec .lineQuietExpiry s = .next { s with dev :=
      (s.dev.setLif { s.dev.lif with quietTimer := none, quiet := true }).raise .lineQuiet } := by
  have hexec : exec .lineQuietExpiry s = s.becomes s.dev.lineQuietExpiry := rfl
  rw [hexec, State.becomes_eq, Dev.lineQuietExpiry, Dev.whileDue_due _ _ hdue]

/-- A report that joins the queue joins its frames, and wakes an IDLE transmitter (R173). -/
theorem Lif.place_report (l : Lif) (b : List Byte) :
    (∀ y ∈ l.queue, y ∈ (l.place (faultReportEntry b)).queue)
      ∧ (∀ y ∈ (l.place (faultReportEntry b)).queue, y ∈ l.queue ∨ (y.kind = .faultReport ∧ y.dest = 0))
      ∧ ((l.place (faultReportEntry b)).tx = l.tx ∨ (l.tx = .idle ∧ (l.place (faultReportEntry b)).tx = .waiting)) := by
  have hmem : ∀ y, y ∈ (l.place (faultReportEntry b)).queue ↔ y = faultReportEntry b ∨ y ∈ l.queue := fun y => by
    rw [Lif.place, Outer.follow_queue, mem_insertSorted]
  refine ⟨fun y hy => (hmem y).2 (.inr hy), fun y hy => ((hmem y).1 hy).symm.imp_right ?_, ?_⟩
  · rintro rfl
    exact ⟨rfl, rfl⟩
  · rw [Lif.place_eq]
    by_cases h : l.tx = .idle <;> simp [h]

/-- Settles O22: the backoff and beacon timers by queuing, the line quiet timer by a HALT-class raise. -/
theorem lineTimersExpire : Obligations.LineTimersExpire := by
  refine ⟨fun s => ⟨exec_backoffExpiry, fun hact hdue => ⟨fun hq => ?_, fun hq hlen => ?_⟩⟩, fun s => ?_⟩
  · rw [exec_beaconTimerExpiry hdue, Dev.send, enqueue_coalesced (d := s.dev.beaconAgain) hact rfl (by simpa using hq)]
    rfl
  · rw [exec_beaconTimerExpiry hdue, Dev.send,
      enqueue_with_room (d := s.dev.beaconAgain) hact (fun _ => by simpa using hq) hlen, Lif.place_eq]
    rfl
  · intro d hdue
    let a : Dev := d.setLif { d.lif with quietTimer := none, quiet := true }
    have hclass : FaultKind.lineQuiet.cls ≠ .safeStop := by decide
    obtain ⟨fs, b, x, y, l, cs, heq, -⟩ := a.raise_changes hclass
    obtain ⟨p, t, hlif, htest⟩ := a.raise_lif hclass
    obtain ⟨hold, hnew, htx⟩ := a.lif.place_report p
    refine ⟨_, exec_lineQuietExpiry hdue, ?_, ?_, ?_, ?_, ?_, ?_, ?_, ?_⟩
    · rw [a.raise_active hclass]; rfl
    · rw [hlif]
      split
      · rw [Lif.place_eq]; rfl
      · rfl
    · rw [hlif]
      split
      · exact hold
      · exact fun y hy => hy
    · rw [hlif]
      split
      · exact hnew
      · exact fun y hy => .inl hy
    · intro hinactive hroom
      rw [hlif, if_pos ⟨hinactive, hroom⟩]
      exact ⟨_, Lif.mem_place _ _, rfl, rfl⟩
    · rw [hlif]
      split
      · exact htx
      · exact .inl rfl
    · intro hcalm
      rw [hlif]
      exact htest hcalm
    · rw [heq]
      exact ⟨rfl, rfl, rfl, rfl, rfl, rfl⟩

/-! ### The frame being sent -/

section
variable {q pre post : List TxEntry} {x : TxEntry}

/-- The one frame being sent, found in the queue. -/
theorem find_sending (hx : x.sending = true) (hothers : ∀ y ∈ pre ++ post, y.sending = false) :
    (pre ++ x :: post).find? (·.sending) = some x := by
  have hpre : ∀ y ∈ pre, ¬y.sending = true := fun y hy => by simp [hothers y (by simp [hy])]
  rw [List.find?_append, List.find?_eq_none.2 hpre, Option.none_or, List.find?_cons_of_pos hx]

theorem withoutSending_eq (hx : x.sending = true) (hothers : ∀ y ∈ pre ++ post, y.sending = false) :
    withoutSending (pre ++ x :: post) = pre ++ post := by
  have hkept : ∀ l : List TxEntry, (∀ y ∈ l, y.sending = false) → l.filter (fun e => !e.sending) = l := fun l hl =>
    List.filter_eq_self.2 fun y hy => by simp [hl y hy]
  rw [withoutSending, List.filter_append, List.filter_cons_of_neg (by simp [hx]),
    hkept pre (fun y hy => hothers y (by simp [hy])), hkept post (fun y hy => hothers y (by simp [hy]))]

end

theorem exec_transmitStart {s : State} {x : TxEntry} {rest : List TxEntry} (htx : s.dev.lif.tx = .waiting)
    (hq : s.dev.lif.queue = x :: rest) : exec .transmitStart s = .next { s with dev := s.dev.setLif { s.dev.lif with
      tx := .sending, rx := .receiving, awaitIdle := false, queue := { x with sending := true } :: rest
      sending := frameBytes x.dest s.dev.station x.kind (s.dev.sendingPayload x) } } := by
  have hexec : exec .transmitStart s = s.becomes s.dev.transmitStart := rfl
  simp only [hexec, State.becomes_eq, Dev.transmitStart, htx, hq]

/-- The part when the frame being sent has gone out and left the queue (R163). -/
def Dev.sentOne (d : Dev) (q : List TxEntry) : Dev :=
  (d.setLif { d.lif with tx := if q.isEmpty then .idle else .waiting, rx := .idle, sending := [], queue := q }).bump .framesSent

theorem exec_frameSent {s : State} {pre post : List TxEntry} {x : TxEntry} (htx : s.dev.lif.tx = .sending)
    (hq : s.dev.lif.queue = pre ++ x :: post) (hx : x.sending = true) (hothers : ∀ y ∈ pre ++ post, y.sending = false) :
    exec .frameSent s = .next { s with dev := match x.intentTag with
      | some tag => (s.dev.sentOne (pre ++ post)).intentSent tag
      | none => s.dev.sentOne (pre ++ post) } := by
  have hexec : exec .frameSent s = s.becomes s.dev.frameSent := rfl
  have hfind : s.dev.lif.queue.find? (·.sending) = some x := by rw [hq, find_sending hx hothers]
  have hgone : withoutSending s.dev.lif.queue = pre ++ post := by rw [hq, withoutSending_eq hx hothers]
  rw [hexec, State.becomes_eq, Dev.frameSent, htx, hfind]
  simp only [Dev.bump_lif, hgone]
  rw [Lif.follow_of_idle rfl]
  rfl

/-- Settles O19: the head of the queue driven, and the frame that was being sent gone from it. -/
theorem framesAreSent : Obligations.FramesAreSent := by
  refine ⟨fun s x rest => ?_, fun s x pre post => ?_⟩
  · intro d htx hq
    exact exec_transmitStart htx hq
  · intro d htx hq hx hothers
    have hexec := exec_frameSent htx hq hx hothers
    refine ⟨fun hno => ?_, fun tag hk ht => ?_⟩
    · have htag : x.intentTag = none := by
        unfold TxEntry.intentTag
        rcases hno with hk | ht
        · rw [if_neg hk]
        · rw [ht, ite_self]
      rw [hexec, htag]
      rfl
    · have htag : x.intentTag = some tag := by rw [TxEntry.intentTag, if_pos hk, ht]
      rw [hexec, htag]
      rfl

/-! ### A frame received (R166) -/

theorem Lif.not_deaf {l : Lif} (ha : l.active = true) (hi : l.awaitIdle = false) (hr : l.rx ≠ .discarding) : l.deaf = false := by
  simp [Lif.deaf, ha, hi, hr]

theorem Lif.deaf_of {l : Lif} (h : l.active = false ∨ l.awaitIdle = true ∨ l.rx = .discarding) : l.deaf = true := by
  rcases h with h | h | h <;> simp [Lif.deaf, h]

/-- The part with its receiver IDLE. -/
def Dev.rxIdle (d : Dev) : Dev := d.setLif { d.lif with rx := .idle }

@[simp] theorem Dev.rxIdle_quiet (d : Dev) : d.rxIdle.lif.quiet = d.lif.quiet := rfl
@[simp] theorem Dev.rxIdle_mailbox (d : Dev) : d.rxIdle.lif.mailbox = d.lif.mailbox := rfl
@[simp] theorem Dev.rxIdle_station (d : Dev) : d.rxIdle.station = d.station := rfl

theorem exec_frameReceive {s : State} {b : List Byte} (hdeaf : s.dev.lif.deaf = false) (htx : s.dev.lif.tx ≠ .sending)
    (hwhole : frameWhole b = true) : exec (.frameReceive b) s = .next { s with dev := s.dev.rxIdle.checkFrame b } := by
  have hexec : exec (.frameReceive b) s = s.becomes (s.dev.frameReceive b) := rfl
  have htx' : (s.dev.lif.tx == TxState.sending) = false := by simpa using htx
  rw [hexec, State.becomes_eq, Dev.frameReceive, hdeaf, htx', hwhole]
  rfl

theorem exec_frameReceive_deaf {s : State} {b : List Byte} (hdeaf : s.dev.lif.deaf = true) : exec (.frameReceive b) s = .next s := by
  have hexec : exec (.frameReceive b) s = s.becomes (s.dev.frameReceive b) := rfl
  rw [hexec, State.becomes_eq, Dev.frameReceive, hdeaf]
  rfl

theorem exec_frameAbandoned {s : State} {c : AbandonCause} :
    exec (.frameAbandoned c) s = .next { s with dev := if s.dev.lif.deaf then s.dev else s.dev.abandonFrame } := rfl

theorem exec_lineIdle {s : State} : exec .lineIdle s = .next { s with dev := s.dev.lineIdle } := rfl

section
variable {d : Dev} {b : List Byte} {k : FrameKind}

theorem Dev.checkFrame_crc (h : frameCrcOk b = false) : d.checkFrame b = d.bump .crcErrors := by
  simp [Dev.checkFrame, h]

theorem Dev.checkFrame_kind (h : frameCrcOk b = true) (hk : FrameKind.ofCode (byteAt b 2) = none) :
    d.checkFrame b = d.bump .formatErrors := by
  simp [Dev.checkFrame, h, hk]

theorem Dev.checkFrame_layout (h : frameCrcOk b = true) (hk : FrameKind.ofCode (byteAt b 2) = some k)
    (hl : layoutOk k (framePayload b) = false) : d.checkFrame b = d.bump .formatErrors := by
  simp [Dev.checkFrame, h, hk, hl]

/-- The frame that bytes hold (R165). -/
def readFrame (k : FrameKind) (b : List Byte) : Frame :=
  { dest := byteAt b 0, src := byteAt b 1, kind := k, payload := framePayload b, check := frameCheck b }

theorem Dev.checkFrame_valid (h : frameCrcOk b = true) (hk : FrameKind.ofCode (byteAt b 2) = some k)
    (hl : layoutOk k (framePayload b) = true) :
    d.checkFrame b = ((d.bump .goodFrames).validHeard).placeFrame (readFrame k b) := by
  simp [Dev.checkFrame, h, hk, hl, readFrame]

/-- The part with the line quiet timer started again (R175). -/
def Dev.heardNow (d : Dev) : Dev := d.setLif { d.lif with quietTimer := d.timerMs d.tmp.plan.quietTime }

theorem Dev.validHeard_of_calm (h : d.lif.quiet = false) : d.validHeard = d.heardNow := by
  have hoff : ({ d.lif with quietTimer := d.timerMs d.tmp.plan.quietTime, quiet := false } : Lif)
      = { d.lif with quietTimer := d.timerMs d.tmp.plan.quietTime } := by rw [← h]
  unfold Dev.validHeard Dev.heardNow
  rw [hoff]
  exact if_neg (by simp [h])

/-- LINE-QUIET's cause ends with the first valid frame, and the claims are examined (R175, R66). -/
theorem Dev.validHeard_of_quiet (h : d.lif.quiet = true) :
    d.validHeard.lif.quiet = false ∧ d.validHeard.lif.quietTimer = d.timerMs d.tmp.plan.quietTime
      ∧ d.validHeard.lif.mailbox = d.lif.mailbox ∧ d.validHeard.faultActive .lineQuiet = false ∧ d.validHeard.station = d.station := by
  let a : Dev := d.setLif { d.lif with quietTimer := d.timerMs d.tmp.plan.quietTime, quiet := false }
  have heq : d.validHeard = (a.causeEnded .lineQuiet).quietCleared := by
    unfold Dev.validHeard
    rw [if_pos h]
  have hended : (a.causeEnded .lineQuiet).faultActive .lineQuiet = false ∧ (a.causeEnded .lineQuiet).lif = a.lif
      ∧ (a.causeEnded .lineQuiet).tmp = a.tmp := by
    unfold Dev.causeEnded
    split
    · exact ⟨(kindIn_filter_ne _ _ _).trans (by simp), rfl, rfl⟩
    · next hno => exact ⟨by simpa using hno, rfl, rfl⟩
  obtain ⟨hoff, hlif, htmp⟩ := hended
  obtain ⟨c, q, t, fs, cs, hwork, hfs⟩ := (claimWork_apart _).quietCleared (a.causeEnded .lineQuiet).claimsApart_refl
  rw [heq, hwork]
  refine ⟨?_, ?_, ?_, (hfs _ (by decide)).trans hoff, congrArg (fun t => t.carriage.station) htmp⟩
  · exact congrArg Lif.quiet hlif
  · exact congrArg Lif.quietTimer hlif
  · exact (congrArg Lif.mailbox hlif).trans (rfl : a.lif.mailbox = d.lif.mailbox)

variable {f : Frame}

theorem Dev.placeFrame_room (hdest : f.dest = 0 ∨ f.dest = d.station) (hroom : d.lif.mailbox.length < 16) :
    d.placeFrame f = d.setLif { d.lif with mailbox := d.lif.mailbox ++ [f] } := by
  have hmine : (f.dest != 0 && f.dest != d.station) = false := by rcases hdest with h | h <;> simp [h]
  simp [Dev.placeFrame, hmine, Config.maxMailbox, hroom]

theorem Dev.placeFrame_other (h0 : f.dest ≠ 0) (hdest : f.dest ≠ d.station) : d.placeFrame f = d := by
  simp [Dev.placeFrame, h0, hdest]

theorem Dev.placeFrame_full (hdest : f.dest = 0 ∨ f.dest = d.station) (hfull : 16 ≤ d.lif.mailbox.length) :
    d.placeFrame f = d.bump .rxOverflow := by
  have hmine : (f.dest != 0 && f.dest != d.station) = false := by rcases hdest with h | h <;> simp [h]
  simp [Dev.placeFrame, hmine, Config.maxMailbox, Nat.not_lt.2 hfull]

end

/-- The frame that the bytes built for it hold (R165). -/
theorem readFrame_frameBytes {dest src : Nat} {k : FrameKind} {p : List Byte} (hdest : dest < 256) (hsrc : src < 256)
    (hlen : p.length ≤ 60) : (readFrame k (frameBytes dest src k p)).dest = dest ∧ (readFrame k (frameBytes dest src k p)).src = src
      ∧ (readFrame k (frameBytes dest src k p)).kind = k ∧ (readFrame k (frameBytes dest src k p)).payload = p :=
  ⟨frameBytes_dest (src := src) (k := k) (p := p) hdest, frameBytes_src (dest := dest) (k := k) (p := p) hsrc, rfl,
    frameBytes_payload hlen⟩

/-- Settles O18: a built frame passes every check; the checks of other bytes in their order; the deaf receiver. -/
theorem receivedFramesAreJudged : Obligations.ReceivedFramesAreJudged := by
  refine ⟨fun s dest src k p => ?_, fun s cause b => ?_⟩
  · intro d hact hidle hrx htx hdest hsrc hlen hlayout hmine hroom
    let b := frameBytes dest src k p
    obtain ⟨hfd, hfs, hfk, hfp⟩ := readFrame_frameBytes (k := k) hdest hsrc hlen
    have hmine' : (readFrame k b).dest = 0 ∨ (readFrame k b).dest = d.station := by rw [hfd]; exact hmine
    have hexec : exec (.frameReceive b) s = .next { s with dev :=
        ((d.rxIdle.bump .goodFrames).validHeard).placeFrame (readFrame k b) } := by
      rw [exec_frameReceive (Lif.not_deaf hact hidle hrx) htx (frameBytes_whole hlen), Dev.checkFrame_valid (frameBytes_crc hlen)
        (by rw [frameBytes_kind, FrameKind.ofCode_code]) (by rw [frameBytes_payload hlen]; exact hlayout)]
    refine ⟨readFrame k b, hfd, hfs, hfk, hfp, fun hq => ?_, fun hq => ⟨_, hexec, ?_⟩⟩
    · rw [hexec, Dev.validHeard_of_calm (d := d.rxIdle.bump .goodFrames) hq,
        Dev.placeFrame_room (d := (d.rxIdle.bump .goodFrames).heardNow) hmine' hroom]
      rfl
    · obtain ⟨hquiet, htimer, hmail, hoff, hstation⟩ := Dev.validHeard_of_quiet (d := d.rxIdle.bump .goodFrames) hq
      rw [Dev.placeFrame_room (hstation ▸ hmine') (hmail ▸ hroom)]
      exact ⟨hquiet, htimer, congrArg (· ++ [readFrame k b]) hmail, hoff⟩
  · intro d
    refine ⟨fun hact hidle hrx htx hwhole => ?_, fun hact hidle hrx => ?_, fun hdeaf => ?_, fun hrx => ?_, fun hrx => ?_⟩
    · have hexec := exec_frameReceive (Lif.not_deaf hact hidle hrx) htx hwhole
      refine ⟨fun h => ?_, fun h hk => ?_, fun k h hk hl => ?_, fun k h h0 hdest => ?_, fun k h hdest hfull => ?_⟩
      · rw [hexec, Dev.checkFrame_crc h]; rfl
      · rw [hexec, Dev.checkFrame_kind h hk]; rfl
      · rw [hexec, Dev.checkFrame_layout h hk hl]; rfl
      · obtain ⟨hcrc, hk, hl, hq⟩ := h
        rw [hexec, Dev.checkFrame_valid hcrc hk hl, Dev.validHeard_of_calm (d := s.dev.rxIdle.bump .goodFrames) hq,
          Dev.placeFrame_other (d := (s.dev.rxIdle.bump .goodFrames).heardNow) h0 hdest]
        rfl
      · obtain ⟨hcrc, hk, hl, hq⟩ := h
        rw [hexec, Dev.checkFrame_valid hcrc hk hl, Dev.validHeard_of_calm (d := s.dev.rxIdle.bump .goodFrames) hq,
          Dev.placeFrame_full (d := (s.dev.rxIdle.bump .goodFrames).heardNow) hdest hfull]
        rfl
    · rw [exec_frameAbandoned, Lif.not_deaf hact hidle hrx]
      rfl
    · rw [exec_frameAbandoned, Lif.deaf_of hdeaf, exec_frameReceive_deaf (Lif.deaf_of hdeaf)]
      exact ⟨rfl, rfl⟩
    · rw [exec_lineIdle, Dev.lineIdle, if_pos (by simpa using hrx)]
      rfl
    · rw [exec_lineIdle, Dev.lineIdle, if_neg (by simpa using hrx)]
      rfl

end Sys2Proof.Machine

/-! SUPPORT. What the shared operations never touch: the map, the loader, the port, the peers, the inputs, the timers of the line. -/

namespace Sys2Proof.Machine

/-- A part with everything that the shared operations may change at its reset value: what is left, they keep. -/
def Dev.still (d : Dev) : Dev :=
  { d with
    odo := { Odo.reset with
      active := d.odo.active, chA := d.odo.chA, chB := d.odo.chB, sampleTimer := d.odo.sampleTimer, history := d.odo.history
      zeroRun := d.odo.zeroRun, standstill := d.odo.standstill, padPresence := d.odo.padPresence, padLines := d.odo.padLines }
    cle := { Cle.reset with active := d.cle.active }
    sup := { Sup.reset with
      evalTimer := d.sup.evalTimer, aEff := d.sup.aEff, rd := d.sup.rd, sd := d.sup.sd, serviceBand := d.sup.serviceBand
      exhausted := d.sup.exhausted, skipped := d.sup.skipped, chainLen := d.sup.chainLen }
    bdu := { Bdu.reset with
      active := d.bdu.active, inLocalStop := d.bdu.inLocalStop, inDriveReady := d.bdu.inDriveReady
      inSupplyLow := d.bdu.inSupplyLow, inClampsDown := d.bdu.inClampsDown, inClampsUp := d.bdu.inClampsUp
      srcServiceBand := d.bdu.srcServiceBand, srcLocalStop := d.bdu.srcLocalStop, srcDriveNotReady := d.bdu.srcDriveNotReady }
    dkc := { Dkc.reset with active := d.dkc.active }
    stc := Stc.reset
    lif := { d.lif with queue := [], tx := .idle, test := none }
    faults := []
    counters := []
    freeCount := 0 }

theorem Dev.still_odo {d : Dev} {o : Odo} (h : o.sensed = d.odo.sensed) : ({ d with odo := o } : Dev).still = d.still := by
  simp only [Odo.sensed, Prod.mk.injEq] at h
  obtain ⟨ha, hA, hB, ht, hh, hz, hs, hp, hl⟩ := h
  simp only [Dev.still, ha, hA, hB, ht, hh, hz, hs, hp, hl]

theorem Dev.still_cle {d : Dev} {c : Cle} (h : c.active = d.cle.active) : ({ d with cle := c } : Dev).still = d.still := by
  simp only [Dev.still, h]

theorem Dev.still_dkc {d : Dev} {k : Dkc} (h : k.active = d.dkc.active) : ({ d with dkc := k } : Dev).still = d.still := by
  simp only [Dev.still, h]

theorem Dev.still_stopTrain (d : Dev) : d.stopTrain.still = d.still := by
  unfold Dev.stopTrain
  simp only
  split <;> rfl

theorem Dev.still_setLatch (d : Dev) (l : Latch) : (d.setLatch l).still = d.still := by
  unfold Dev.setLatch
  split
  · rfl
  · exact (Dev.still_stopTrain _).trans (by cases l <;> rfl)

theorem Dev.still_entering (d : Dev) (s : StationState) : (d.entering s).still = d.still := by
  have hline : { (d.entering s).lif with queue := [], tx := .idle, test := none } = { d.lif with queue := [], tx := .idle, test := none } := by
    obtain ⟨t, ht⟩ := d.entering_lif s
    rw [ht]
  have hdock : (d.entering s).dkc.active = d.dkc.active := by
    unfold Dev.entering
    simp only
    split <;> rfl
  unfold Dev.still
  rw [hline, hdock]
  rfl

/-- No operation that the blocks share changes what a still part shows. -/
theorem inner_still (x : Dev) : InnerLoss fun d => d.still = x where
  counters _ h := h
  freeCount _ h := h
  enqueue k dst b t h := by
    obtain ⟨q, y, cs, heq⟩ := Dev.enqueue_line _ k dst b t
    rw [heq]
    exact h
  withdraw tag h := by
    obtain ⟨q, y, heq⟩ := Dev.withdraw_line _ tag
    rw [heq]
    exact h
  faults _ _ h := h
  cle _ ha _ h := (Dev.still_cle ha).trans h
  odo _ ho _ h := (Dev.still_odo ho).trans h
  place _ h := h
  orderSpeed h := h
  dkc _ ha h := (Dev.still_dkc ha).trans h
  stc _ _ h := h
  settle h := h
  zeroDemand h := h
  stopTrain h := (Dev.still_stopTrain _).trans h
  setLatch l h := (Dev.still_setLatch _ l).trans h
  clamps _ _ _ h := h
  turn _ ho h := (Dev.still_odo ho).trans h
  enterState s h := Dev.enterState_keeps (P := fun d => d.still = x) (fun _ h => h) (fun _ h => h)
    (fun _ h => (Dev.still_setLatch _ _).trans h) ((Dev.still_entering _ s).trans h)
  superviseUnknown h := h

/-! ### Entering a state: what the blocks take from it (R144) -/

/-- A state entered changes the Brake and Drive Unit, the demand, the docking, the station, the link test and the counters alone. -/
theorem Dev.enterState_changes (d : Dev) (s : StationState) :
    ∃ (x : Sup) (b : Bdu) (k : Dkc) (t : Option LinkTest) (cs : List (BitVec 16)),
      d.enterState s = { d with
        sup := x, bdu := b, dkc := k, stc := (d.entering s).stc, lif := { d.lif with test := t }, counters := cs } := by
  obtain ⟨t, ht⟩ := d.entering_lif s
  refine ⟨(d.enterState s).sup, (d.enterState s).bdu, (d.enterState s).dkc, t, (d.enterState s).counters, ?_⟩
  rw [← ht]
  cases hd : s.demanding
  · by_cases hs : s = .safeStop
    · subst hs
      obtain ⟨b, y, cs, hlatch⟩ := ((d.entering .safeStop).zeroDemand.settle).setLatch_changes .safeStop
      rw [Dev.enterState_safeStop, hlatch]
      rfl
    · rw [Dev.enterState_of_quiet hd hs]
      rfl
  · rw [Dev.enterState_of_demanding hd]
    rfl

theorem Dev.enterState_stc (d : Dev) (s : StationState) : (d.enterState s).stc = (d.entering s).stc := by
  obtain ⟨x, b, k, t, cs, heq⟩ := d.enterState_changes s
  rw [heq]

@[simp] theorem Dev.enterState_state (d : Dev) (s : StationState) : (d.enterState s).stc.state = s := by
  rw [Dev.enterState_stc]
  rfl

@[simp] theorem Dev.enterState_cle (d : Dev) (s : StationState) : (d.enterState s).cle = d.cle := by
  obtain ⟨x, b, k, t, cs, heq⟩ := d.enterState_changes s
  rw [heq]

@[simp] theorem Dev.enterState_odo (d : Dev) (s : StationState) : (d.enterState s).odo = d.odo := by
  obtain ⟨x, b, k, t, cs, heq⟩ := d.enterState_changes s
  rw [heq]

@[simp] theorem Dev.enterState_tmp (d : Dev) (s : StationState) : (d.enterState s).tmp = d.tmp := by
  obtain ⟨x, b, k, t, cs, heq⟩ := d.enterState_changes s
  rw [heq]

@[simp] theorem Dev.enterState_btl (d : Dev) (s : StationState) : (d.enterState s).btl = d.btl := by
  obtain ⟨x, b, k, t, cs, heq⟩ := d.enterState_changes s
  rw [heq]

@[simp] theorem Dev.enterState_faults (d : Dev) (s : StationState) : (d.enterState s).faults = d.faults := by
  obtain ⟨x, b, k, t, cs, heq⟩ := d.enterState_changes s
  rw [heq]

@[simp] theorem Dev.enterState_now (d : Dev) (s : StationState) : (d.enterState s).now = d.now := by
  obtain ⟨x, b, k, t, cs, heq⟩ := d.enterState_changes s
  rw [heq]

@[simp] theorem Dev.enterState_queue (d : Dev) (s : StationState) : (d.enterState s).lif.queue = d.lif.queue := by
  obtain ⟨x, b, k, t, cs, heq⟩ := d.enterState_changes s
  rw [heq]

end Sys2Proof.Machine

/-! SUPPORT. The boot read (R194), the lock (R8) and the entry into the rest state (R143). -/

namespace Sys2Proof.Machine

theorem ceilDiv_thirty (n : Nat) : ceilDiv n 30 = (n + 29) / 30 := rfl

/-! ### A failed boot -/

theorem Dev.failBoot_state (d : Dev) (r : BootReason) (x : Option BootDetail) : (d.failBoot r x).stc.state = .bootFailed := by
  simp [Dev.failBoot]

theorem Dev.failBoot_tmp (d : Dev) (r : BootReason) (x : Option BootDetail) : (d.failBoot r x).tmp = Tmp.reset := by
  rw [Dev.failBoot, Dev.enterState_tmp]
  rfl

theorem Dev.failBoot_btl (d : Dev) (r : BootReason) (x : Option BootDetail) :
    (d.failBoot r x).btl = { d.btl with phase := .failed, reason := r, detail := x, blockTimer := none } := by
  rw [Dev.failBoot, Dev.enterState_btl]

/-! ### A block read -/

theorem exec_bootBlockRead (s : State) (b : List Byte) : exec (.bootBlockRead b) s = .next { s with dev := s.dev.bootBlock b } := rfl

section
variable {d : Dev} {b : List Byte}

theorem blockOk_iff : blockOk b = true ↔ crc16 (b.take 30) = BitVec.ofNat 16 (beAt b 30 2) := by
  rw [blockOk, beq_iff_eq]

theorem Dev.bootBlock_disagrees (hread : d.btl.phase = .reading) (h : blockOk b = false) :
    d.bootBlock b = d.failBoot .blockCheck (some (.block d.btl.next)) := by
  simp [Dev.bootBlock, hread, h]

theorem Dev.bootBlock_fails {e : Dev} {r : BootReason} {x : Option BootDetail} (hread : d.btl.phase = .reading) (h : blockOk b = true)
    (ht : d.takeBlock b = (e, some (r, x))) : d.bootBlock b = e.failBoot r x := by
  simp [Dev.bootBlock, hread, h, ht]

theorem Dev.bootBlock_taken {e : Dev} (hread : d.btl.phase = .reading) (h : blockOk b = true) (ht : d.takeBlock b = (e, none)) :
    d.bootBlock b = e.blockTaken := by
  simp [Dev.bootBlock, hread, h, ht]

theorem Dev.takeBlock_carriage (hn : d.btl.next = 0) (h1 : 1 ≤ byteAt (b.take 30) 0) (h32 : byteAt (b.take 30) 0 ≤ 32) :
    d.takeBlock b = ({ d with tmp := { d.tmp with carriageData := b.take 30 } }, none) := by
  have hin : (decide (byteAt (b.take 30) 0 = 0) || decide (32 < byteAt (b.take 30) 0)) = false := by
    simp only [Bool.or_eq_false_iff, decide_eq_false_iff_not]
    omega
  simp [Dev.takeBlock, hn, hin]

theorem Dev.takeBlock_badCarriage (hn : d.btl.next = 0) (h : byteAt (b.take 30) 0 = 0 ∨ 32 < byteAt (b.take 30) 0) :
    d.takeBlock b = (d, some (.carriageId, none)) := by
  simp [Dev.takeBlock, hn, h]

/-- The part with a plan block's data and the blocks to read that follow from its counts (R194). -/
def Dev.planTaken (d : Dev) (p : List Byte) : Dev :=
  { d with tmp := { d.tmp with planData := p }, btl := { d.btl with total := blocksToRead (planCounts p) } }

theorem Dev.takeBlock_plan (hn : d.btl.next = 1) : d.takeBlock b = (d.planTaken (b.take 30),
    if countsOver (planCounts (b.take 30)) then some (.mapInvalid, some (.check .counts 0)) else none) := by
  simp [Dev.takeBlock, hn, Dev.planTaken]

/-- The part with a later block's data after the records taken before. -/
def Dev.recordsTaken (d : Dev) (p : List Byte) : Dev :=
  { d with tmp := { d.tmp with recordData := d.tmp.recordData ++ p } }

theorem Dev.takeBlock_records (hn : 2 ≤ d.btl.next) : d.takeBlock b = (d.recordsTaken (b.take 30), none) := by
  unfold Dev.takeBlock
  split
  · next h => omega
  · next h => omega
  · rfl

theorem countsOver_iff {c : Nat × Nat × Nat} : countsOver c = true ↔ 240 < c.1 ∨ 63 < c.2.1 ∨ 1024 < c.2.2 := by
  rw [countsOver, Bool.or_eq_true, Bool.or_eq_true, decide_eq_true_iff, decide_eq_true_iff, decide_eq_true_iff, or_assoc]
  rfl

/-- The next block is asked for while blocks remain (R194). -/
theorem Dev.blockTaken_more (h : d.btl.next + 1 ≠ d.btl.total) :
    d.blockTaken = { d with btl := { d.btl with next := d.btl.next + 1, blockTimer := some (d.now + 10000) } } := by
  rw [Dev.blockTaken, if_neg h]
  rfl

/-- The part after its last block, before the map is judged. -/
def Dev.lastTaken (d : Dev) : Dev :=
  { d with btl := { d.btl with next := d.btl.next + 1, blockTimer := some (d.now + 10000) } }

theorem Dev.blockTaken_last (h : d.btl.next + 1 = d.btl.total) : d.blockTaken = d.lastTaken.finishBoot := by
  rw [Dev.blockTaken, if_pos h]
  rfl

theorem Dev.blockTimeout_due (hread : d.btl.phase = .reading) (hdue : d.due d.btl.blockTimer = true) :
    d.blockTimeout = d.failBoot .noResponse (some (.block d.btl.next)) := by
  simp [Dev.blockTimeout, hread, hdue]

end

/-- Settles O3: each block by its address, and each failure with its reason. -/
theorem bootBlocksAreJudged : Obligations.BootBlocksAreJudged := by
  intro s d failed agrees timer hread
  have hfailed (o) (e : Dev) (r : BootReason) (x : Option BootDetail) (total : Nat)
      (ho : o = .next { s with dev := e.failBoot r x }) (hb : e.btl = { d.btl with total := total }) : failed o r x total :=
    ⟨_, ho, e.failBoot_state r x, e.failBoot_tmp r x, by rw [e.failBoot_btl, hb]⟩
  refine ⟨fun b hb => ⟨fun hn h1 h32 hmore => ?_, fun hn hsec hpad hmark => ?_, fun hn hmore => ?_⟩, fun b hb => ?_,
    fun b hb hn hout => ?_, fun b hb hn => ?_, fun hdue => ?_⟩
  · rw [exec_bootBlockRead, Dev.bootBlock_taken hread (blockOk_iff.2 hb) (Dev.takeBlock_carriage hn h1 h32),
      Dev.blockTaken_more (by show d.btl.next + 1 ≠ d.btl.total; omega)]
    simp only [d, hn]
    rfl
  · intro total hmore
    have hlimits : countsOver (planCounts (b.take 30)) = false := by
      rw [← Bool.not_eq_true, countsOver_iff]
      simp only [planCounts]
      omega
    have htake : d.takeBlock b = (d.planTaken (b.take 30), none) := by rw [Dev.takeBlock_plan hn, hlimits]; rfl
    rw [exec_bootBlockRead, Dev.bootBlock_taken hread (blockOk_iff.2 hb) htake,
      Dev.blockTaken_more (by show d.btl.next + 1 ≠ total; omega)]
    simp only [Dev.planTaken, d, hn]
    rfl
  · rw [exec_bootBlockRead, Dev.bootBlock_taken hread (blockOk_iff.2 hb) (Dev.takeBlock_records hn),
      Dev.blockTaken_more (d := d.recordsTaken (b.take 30)) hmore]
    rfl
  · refine hfailed _ d _ _ _ ?_ rfl
    rw [exec_bootBlockRead, Dev.bootBlock_disagrees hread (by simpa using mt blockOk_iff.1 hb)]
  · refine hfailed _ d _ _ _ ?_ rfl
    rw [exec_bootBlockRead, Dev.bootBlock_fails hread (blockOk_iff.2 hb) (Dev.takeBlock_badCarriage hn hout)]
  · intro p hover
    have hlimits : countsOver (planCounts p) = true := countsOver_iff.2 hover
    have htake : d.takeBlock b = (d.planTaken p, some (.mapInvalid, some (.check .counts 0))) := by
      rw [Dev.takeBlock_plan hn, hlimits]
      rfl
    refine hfailed _ (d.planTaken p) _ _ _ ?_ rfl
    rw [exec_bootBlockRead, Dev.bootBlock_fails hread (blockOk_iff.2 hb) htake]
  · have hexec : exec .blockTimerExpiry s = .next { s with dev := d.blockTimeout } := rfl
    refine hfailed _ d _ _ _ ?_ rfl
    rw [hexec, Dev.blockTimeout_due hread hdue]

/-! ### The listen timer (R143) -/

/-- In the states past the boot the outputs are held by BDU's own inactivity alone (R110). -/
theorem Dev.outputsHeld_of {d : Dev} {s : StationState} (hs : d.stc.state = s) (h : s ∉ [.start, .bootFailed, .bootHold]) :
    d.outputsHeld = !d.bdu.active := by
  simp only [List.mem_cons, List.not_mem_nil, or_false, not_or] at h
  obtain ⟨h1, h2, h3⟩ := h
  rw [Dev.outputsHeld, hs, beq_false_of_ne h1, beq_false_of_ne h2, beq_false_of_ne h3, Bool.or_false, Bool.or_false, Bool.or_false]

/-- The outputs in the states past the boot, as the sources and the latches have them (R110, R111, R113). -/
def Bdu.settled (b : Bdu) : Bdu :=
  { b with
    duty := if !b.active || b.forced then 0 else b.duty
    traction := b.active && !b.forced
    serviceBrake := !b.active || b.sourced || b.latched }

theorem Dev.settle_of_live {d : Dev} (h : d.outputsHeld = !d.bdu.active) : d.settle = { d with bdu := d.bdu.settled } := by
  have htraction : (!(!d.bdu.active || d.bdu.forced)) = (d.bdu.active && !d.bdu.forced) := by
    cases d.bdu.active <;> rfl
  simp only [Dev.settle, Bdu.settled, h, htraction]

/-- Only HALTED and SAFE-STOP stop the correction watch (R140). -/
theorem Dev.entering_dkc (d : Dev) {s : StationState} (hh : s ≠ .halted) (hs : s ≠ .safeStop) : (d.entering s).dkc = d.dkc := by
  simp [Dev.entering, hh, hs]

/-- A state entered in which SUP hands on no demand, outside SAFE-STOP and the boot (R104, R144). -/
theorem Dev.enterState_of_rest {d : Dev} {s : StationState} (h : s ∈ [.listen, .noPosition, .standing, .parked]) :
    d.enterState s = { d.entering s with
      sup := { d.sup with demand := 0 }
      dkc := d.dkc
      bdu := ({ d.bdu with srcHalted := false, demandHanded := 0, duty := 0 } : Bdu).settled } := by
  have hlive : s ∉ [.start, .bootFailed, .bootHold] := by revert h; cases s <;> decide
  have hquiet : s.demanding = false := by revert h; cases s <;> decide
  have hstop : s ≠ .safeStop := by rintro rfl; revert h; decide
  have hhalt : s ≠ .halted := by rintro rfl; revert h; decide
  have hsrc : (s == .halted) = false := by simpa using hhalt
  rw [Dev.enterState_of_quiet hquiet hstop, Dev.settle_of_live (Dev.outputsHeld_of rfl hlive), ← d.entering_dkc hhalt hstop]
  simp only [Dev.entering, Dev.zeroDemand, hsrc]

/-- Settles O6: the rest state entered, field by field. -/
theorem listenTimerExpiryTakesRestState : Obligations.ListenTimerExpiryTakesRestState := by
  intro s d hlisten hdue st b
  have hexec : exec .listenTimerExpiry s = .next { s with dev := d.listenExpiry } := rfl
  have hrest : d.restState = st := by
    simp [Dev.restState, st, Odo.known]
  have hst : st = .noPosition ∨ st = .parked ∨ st = .standing := by
    simp only [st]
    split
    · exact .inl rfl
    · split
      · exact .inr (.inl rfl)
      · exact .inr (.inr rfl)
  have hlist : d.listenExpiry = ({ d with stc := { d.stc with listenTimer := none } } : Dev).enterState st := by
    rw [Dev.listenExpiry, if_pos (by simp [hlisten, hdue]), ← hrest]
    rfl
  have hduty : b.settled = { b with
      traction := d.bdu.active && !b.forced, serviceBrake := !d.bdu.active || b.sourced || b.latched } := by
    simp only [Bdu.settled, b, ite_self]
  rw [hexec, hlist, Dev.enterState_of_rest (by rcases hst with h | h | h <;> simp [h])]
  show Host.Outcome.next { s with dev := { ({ d with stc := { d.stc with listenTimer := none } } : Dev).entering st with
    sup := { d.sup with demand := 0 }, dkc := d.dkc, bdu := b.settled } } = _
  rw [hduty]
  clear_value st
  rcases hst with rfl | rfl | rfl <;> rfl

/-! ### Parameters brought into their ranges (R6 to R8) -/

theorem clamp_eq {lo hi : Nat} (h : lo ≤ hi) (n : Nat) : clamp lo hi n = max lo (min hi n) := by
  unfold clamp
  split
  · omega
  · split <;> omega

/-- A field of the boot data: where it stands, its width, its default and its range (R6, R7). -/
structure Field where
  data : List Byte
  pos : Nat
  width : Nat
  dflt : Nat
  lo : Nat
  hi : Nat

/-- The field's value in use, and whether it was replaced (R8). -/
def Field.value (f : Field) : Nat × Bool := settle f.data f.pos f.width f.dflt f.lo f.hi

/-- The field as the statement's parameter. -/
def Field.param (f : Field) : Param :=
  { used := f.value.1, stored := orDefault f.width f.dflt (beAt f.data f.pos f.width), lo := f.lo, hi := f.hi }

theorem Field.param_used {f : Field} (h : f.lo ≤ f.hi) : f.param.used = max f.param.lo (min f.param.hi f.param.stored) :=
  clamp_eq h _

theorem Field.param_replaced {f : Field} (h : f.lo ≤ f.hi) : f.param.replaced = f.value.2 := by
  rw [Bool.eq_iff_iff]
  simp only [Param.replaced, Field.param, Field.value, settle, clamp_eq h, Bool.or_eq_true, decide_eq_true_eq, bne_iff_ne]
  omega

/-- The plan's line speed, the upper bound of the class speeds. -/
def lineField (data : List Byte) : Field := ⟨data, 16, 2, 1000, 100, 1500⟩

def planFields (data : List Byte) : List Field :=
  [⟨data, 4, 2, 250, 100, 1000⟩, ⟨data, 6, 2, 150, 50, 1000⟩, ⟨data, 8, 2, 2000, 500, 10000⟩, ⟨data, 10, 2, 1500, 500, 10000⟩,
    ⟨data, 12, 2, 500, 0, 5000⟩, ⟨data, 14, 2, 10000, 0, 50000⟩, lineField data, ⟨data, 18, 2, 200, 10, (lineField data).value.1⟩,
    ⟨data, 20, 2, 400, 10, (lineField data).value.1⟩, ⟨data, 22, 2, 700, 10, (lineField data).value.1⟩,
    ⟨data, 24, 2, 1000, 10, (lineField data).value.1⟩, ⟨data, 26, 2, 5000, 1000, 30000⟩]

def carriageFields (data : List Byte) : List Field :=
  [⟨data, 1, 2, 8000, 2000, 20000⟩, ⟨data, 3, 2, 500, 100, 5000⟩, ⟨data, 5, 2, 500, 100, 5000⟩, ⟨data, 7, 1, 10, 2, 50⟩,
    ⟨data, 8, 1, 5, 1, 50⟩, ⟨data, 9, 1, 1, 1, 10⟩, ⟨data, 10, 1, 3, 1, 20⟩, ⟨data, 11, 2, 200, 100, 800⟩,
    ⟨data, 13, 2, 300, 50, 1000⟩, ⟨data, 15, 2, 3000, 500, 10000⟩, ⟨data, 17, 2, 100, 20, 500⟩, ⟨data, 19, 1, 25, 10, 100⟩,
    ⟨data, 20, 2, 2500, 500, 10000⟩, ⟨data, 22, 1, 30, 10, 200⟩, ⟨data, 23, 2, 100, 20, 500⟩, ⟨data, 25, 2, 20000, 5000, 60000⟩,
    ⟨data, 27, 2, 2000, 100, 10000⟩]

theorem lineField_least (data : List Byte) : 10 ≤ (lineField data).value.1 := by
  have h := Field.param_used (f := lineField data) (show 100 ≤ 1500 by decide)
  have hle : 100 ≤ (lineField data).param.used := h ▸ Nat.le_max_left ..
  exact le_trans (by decide) hle

theorem planFields_ordered (data : List Byte) : ∀ f ∈ planFields data, f.lo ≤ f.hi := by
  have hline := lineField_least data
  simp [planFields, lineField] at hline ⊢
  exact hline

theorem carriageFields_ordered (data : List Byte) : ∀ f ∈ carriageFields data, f.lo ≤ f.hi := by
  simp [carriageFields]

theorem params_lock (t : Tmp) : params t.planData t.carriageData t.lock.1
    = (planFields t.planData ++ carriageFields t.carriageData).map Field.param := rfl

theorem lock_replaced (t : Tmp) : t.lock.2 = (((planFields t.planData).map Field.value).filter (·.2)).length
    + (((carriageFields t.carriageData).map Field.value).filter (·.2)).length := rfl

/-- How many parameters a lock replaces (R8). -/
theorem countP_params (t : Tmp) : (params t.planData t.carriageData t.lock.1).countP Param.replaced = t.lock.2 := by
  have hcount (l : List Field) (hl : ∀ f ∈ l, f.lo ≤ f.hi) :
      (l.map Field.param).countP Param.replaced = ((l.map Field.value).filter (·.2)).length := by
    rw [List.countP_map, ← List.countP_eq_length_filter, List.countP_map]
    exact List.countP_congr fun f hf => by simp [Field.param_replaced (hl f hf)]
  rw [params_lock, List.map_append, List.countP_append, lock_replaced, hcount _ (planFields_ordered _),
    hcount _ (carriageFields_ordered _)]

theorem params_used (t : Tmp) : ∀ q ∈ params t.planData t.carriageData t.lock.1, q.used = max q.lo (min q.hi q.stored) := by
  intro q hq
  rw [params_lock] at hq
  obtain ⟨f, hf, rfl⟩ := List.mem_map.1 hq
  refine Field.param_used ?_
  rcases List.mem_append.1 hf with h | h
  · exact planFields_ordered _ f h
  · exact carriageFields_ordered _ f h

theorem lock_replaced_le (t : Tmp) : t.lock.2 ≤ 29 := by
  rw [lock_replaced]
  refine (Nat.add_le_add (List.length_filter_le ..) (List.length_filter_le ..)).trans ?_
  simp [planFields, carriageFields]

/-! ### The same kind raised again and again (R180) -/

/-- A kind stands in the set with a repeat count. -/
def Dev.repeatsOf (d : Dev) (k : FaultKind) (m : Nat) : Prop := ∃ y ∈ d.faults, y.kind = k ∧ y.repeats.toNat = m

section
variable {d : Dev} {k : FaultKind}

theorem Dev.enterFault_first (h : d.faultActive k = false) : (d.enterFault k).repeatsOf k 0 := by
  have hmem : d.newFault k ∈ faultInsert (d.newFault k) d.faults := (mem_insertSorted ..).2 (.inl rfl)
  rw [Dev.enterFault_new h]
  split
  · refine ⟨{ d.newFault k with reported := true }, ?_, rfl, rfl⟩
    have hline (e : Dev) (b : List Byte) : (e.send .faultReport 0 b).faults = e.faults := by
      obtain ⟨l, cs, heq⟩ := e.enqueue_changes .faultReport 0 b none
      rw [Dev.send, heq]
    simp only [Dev.reportFault, Dev.bump_faults, hline]
    exact List.mem_map.2 ⟨_, hmem, if_pos rfl⟩
  · exact ⟨_, hmem, rfl, rfl⟩

theorem Dev.enterFault_again {m : Nat} (h : d.repeatsOf k m) (hm : m < 255) : (d.enterFault k).repeatsOf k (m + 1) := by
  obtain ⟨y, hy, hk, hr⟩ := h
  have hactive : d.faultActive k = true := List.any_eq_true.2 ⟨y, hy, by simp [hk]⟩
  rw [Dev.enterFault_repeat hactive]
  refine ⟨_, List.mem_map.2 ⟨y, hy, if_pos hk⟩, hk, ?_⟩
  rw [satInc_toNat]
  omega

/-- A WARN-class kind raised `n` times leaves the rest of the part but the line's queue, the set and the counters. -/
theorem Dev.raiseTimes_tmp (hk : k.cls = .warn) (n : Nat) : (d.raiseTimes k n).tmp = d.tmp := by
  induction n generalizing d with
  | zero => rfl
  | succ n ih =>
    obtain ⟨fs, b, cs, heq, -⟩ := d.enterFault_changes k
    rw [Dev.raiseTimes, ih, Dev.raise_of_warn hk, heq]

theorem Dev.raiseTimes_again (hk : k.cls = .warn) {m n : Nat} (h : d.repeatsOf k m) (hm : m + n ≤ 255) :
    (d.raiseTimes k n).repeatsOf k (m + n) := by
  induction n generalizing d m with
  | zero => exact h
  | succ n ih =>
    rw [Dev.raiseTimes, Dev.raise_of_warn hk]
    have hstep := ih (d.enterFault_again h (by omega)) (by omega)
    rwa [Nat.add_assoc, Nat.add_comm 1 n] at hstep

theorem Dev.raiseTimes_first (hk : k.cls = .warn) {n : Nat} (h : d.faultActive k = false) (hn : n ≤ 255) :
    (d.raiseTimes k (n + 1)).repeatsOf k n := by
  rw [Dev.raiseTimes, Dev.raise_of_warn hk]
  have hfirst := Dev.raiseTimes_again hk (d.enterFault_first h) (n := n) (by omega)
  rwa [Nat.zero_add] at hfirst

end

/-! ### The entry into LISTEN makes every block active (R195) -/

theorem Dev.reportHeld_still (d : Dev) : d.reportHeld.still = d.still := (inner_still d.still).reportHeld rfl

theorem Dev.raise_still (d : Dev) (k : FaultKind) : (d.raise k).still = d.still := (inner_still d.still).raise k rfl

theorem Dev.driveSource_still (d : Dev) : d.driveSource.still
    = { d.still with bdu := { d.still.bdu with srcDriveNotReady := !d.still.bdu.inDriveReady } } := by
  unfold Dev.driveSource
  simp only
  split <;> rfl

theorem Dev.localStopOn_still (d : Dev) : d.localStopOn.still = { d.still with bdu := { d.still.bdu with srcLocalStop := true } } :=
  Dev.raise_still _ _

theorem Dev.supplyLowOn_still (d : Dev) : d.supplyLowOn.still = d.still :=
  (Dev.raise_still _ _).trans (Dev.still_setLatch _ _)

/-- BDU active, its sources as the inputs have them (R110, R117). -/
theorem Dev.bduActivate_still (d : Dev) : d.bduActivate.still = { d.still with bdu := { d.still.bdu with
    active := true, srcDriveNotReady := !d.still.bdu.inDriveReady, srcLocalStop := d.still.bdu.inLocalStop || d.still.bdu.srcLocalStop } } := by
  let a : Dev := (({ d with bdu := { d.bdu with active := true } } : Dev).settle).driveSource
  have ha : a.still = { d.still with bdu := { d.still.bdu with active := true, srcDriveNotReady := !d.still.bdu.inDriveReady } } :=
    Dev.driveSource_still _
  have hin : a.bdu.inLocalStop = d.bdu.inLocalStop := congrArg (fun x => x.bdu.inLocalStop) ha
  have hstop : (if a.bdu.inLocalStop then a.localStopOn else a).still
      = { d.still with bdu := { d.still.bdu with
        active := true, srcDriveNotReady := !d.still.bdu.inDriveReady, srcLocalStop := d.still.bdu.inLocalStop || d.still.bdu.srcLocalStop } } := by
    show _ = { d.still with bdu := { d.still.bdu with
      active := true, srcDriveNotReady := !d.bdu.inDriveReady, srcLocalStop := d.bdu.inLocalStop || d.bdu.srcLocalStop } }
    rw [hin]
    cases h : d.bdu.inLocalStop
    · rw [if_neg (by decide), ha]
      rfl
    · rw [if_pos rfl, Dev.localStopOn_still, ha]
      rfl
  refine (ite_keeps (P := fun x => x.still = (if a.bdu.inLocalStop then a.localStopOn else a).still)
    (fun _ => Dev.supplyLowOn_still _) (fun _ => rfl) : d.bduActivate.still = _).trans hstop

theorem Dev.odoActivate_still (d : Dev) : d.odoActivate.still = { d.still with odo := { d.still.odo with
    active := true, sampleTimer := d.still.timerMs Config.sampleMs, history := List.replicate 10 0 } } :=
  (inner_still _).startPosition rfl

theorem Dev.dockActivate_still (d : Dev) : d.dockActivate.still = { d.still with dkc := { d.still.dkc with active := true } } := by
  let a : Dev := { d with dkc := { d.dkc with active := true, sub := if d.bdu.clampsHeld then .clamped else .idle } }
  have ha : a.watchClamps.still = a.still := (inner_still a.still).watchClamps rfl
  exact ite_keeps (P := fun x => x.still = a.still) (fun _ => (Dev.raise_still _ _).trans ha) (fun _ => ha)

theorem Dev.cleActivate_still (d : Dev) : d.cleActivate.still = { d.still with cle := { d.still.cle with active := true } } :=
  (inner_still _).claimsAnchored rfl

/-- The station in LISTEN with its timer, before the blocks are activated (R143, R195). -/
def Dev.listening (d : Dev) : Dev :=
  let a := ({ d with btl := { d.btl with phase := .done, blockTimer := none } } : Dev).enterState .listen
  { a with stc := { a.stc with listenTimer := a.timerMs a.tmp.plan.lostTime } }

theorem Dev.enterListen_eq (d : Dev) :
    d.enterListen = d.listening.lifActivate.reportHeld.bduActivate.odoActivate.supActivate.dockActivate.cleActivate := rfl

theorem Dev.listening_still (d : Dev) :
    d.listening.still = { d.still with btl := { d.btl with phase := .done, blockTimer := none } } :=
  (inner_still { d.still with btl := { d.btl with phase := .done, blockTimer := none } }).enterState
    (d := { d with btl := { d.btl with phase := .done, blockTimer := none } }) .listen rfl

theorem Dev.lifActivate_still (d : Dev) : d.lifActivate.still = { d.still with lif := { d.still.lif with
    active := true, awaitIdle := true, lfsr := BitVec.ofNat 16 d.still.station
    beaconTimer := d.still.timerMs d.still.tmp.plan.beaconPeriod, quietTimer := d.still.timerMs d.still.tmp.plan.quietTime } } := rfl

theorem Dev.supActivate_still (d : Dev) : d.supActivate.still = { d.still with sup := { d.still.sup with
    evalTimer := d.still.timerMs Config.evaluationMs, aEff := d.still.tmp.carriage.serviceDecel } } := rfl

/-- What the entry into LISTEN leaves for good, and what the blocks make active (R195). -/
theorem Dev.enterListen_still (d : Dev) : d.enterListen.still = { d.still with
    btl := { d.btl with phase := .done, blockTimer := none }
    lif := { d.still.lif with
      active := true, awaitIdle := true, lfsr := BitVec.ofNat 16 d.station
      beaconTimer := d.timerMs d.tmp.plan.beaconPeriod, quietTimer := d.timerMs d.tmp.plan.quietTime }
    bdu := { d.still.bdu with
      active := true, srcDriveNotReady := !d.bdu.inDriveReady, srcLocalStop := d.bdu.inLocalStop || d.bdu.srcLocalStop }
    odo := { d.still.odo with active := true, sampleTimer := d.timerMs Config.sampleMs, history := List.replicate 10 0 }
    sup := { d.still.sup with evalTimer := d.timerMs Config.evaluationMs, aEff := d.tmp.carriage.serviceDecel }
    dkc := { d.still.dkc with active := true }
    cle := { d.still.cle with active := true } } := by
  rw [Dev.enterListen_eq, Dev.cleActivate_still, Dev.dockActivate_still, Dev.supActivate_still, Dev.odoActivate_still,
    Dev.bduActivate_still, Dev.reportHeld_still, Dev.lifActivate_still, Dev.listening_still]
  rfl

/-- Settles O4: the map judged at the last block; a lock clamps each field and raises CONFIG-CLAMPED once for each replacement. -/
theorem lastBootBlockLocksTheMap : Obligations.LastBootBlockLocksTheMap := by
  intro s b d p hread hb completes
  have hdone (e : Dev) (hexec : exec (.bootBlockRead b) s = .next { s with dev := e.finishBoot })
      (hfault : e.faultActive .configClamped = d.faultActive .configClamped) : completes e.tmp := by
    simp only [completes]
    rw [hexec, Dev.finishBoot]
    split
    · next hcheck =>
      let x := e.lockMap
      have htmp : x.tmp = e.tmp.lock.1 := Dev.raiseTimes_tmp rfl _
      have hstill := x.enterListen_still
      rw [hcheck]
      refine ⟨x, rfl, htmp, by rw [htmp]; rfl, by rw [htmp]; rfl, by rw [htmp]; rfl, ?_, (congrArg Dev.tmp hstill :),
        (congrArg (fun y : Dev => y.btl.phase) hstill :), (congrArg (fun y : Dev => y.btl.blockTimer) hstill :),
        (congrArg (fun y : Dev => y.lif.active) hstill :), (congrArg (fun y : Dev => y.odo.active) hstill :),
        (congrArg (fun y : Dev => y.bdu.active) hstill :)⟩
      rw [htmp]
      refine ⟨params_used e.tmp, fun hoff => ?_⟩
      have hoff' : ({ e with tmp := e.tmp.lock.1 } : Dev).faultActive .configClamped = false := hfault.trans hoff
      rw [countP_params]
      refine ⟨fun hn => ?_, fun hn => ?_⟩
      · show (Dev.raiseTimes _ _ e.tmp.lock.2).faultActive _ = false
        rw [hn]
        exact hoff'
      · have hle := lock_replaced_le e.tmp
        obtain ⟨y, hy, hk, hr⟩ := Dev.raiseTimes_first (n := e.tmp.lock.2 - 1) rfl hoff' (by omega)
        rw [Nat.sub_add_cancel hn] at hy
        exact ⟨y, hy, hk, hr⟩
    · next c n hcheck =>
      rw [hcheck]
      refine ⟨_, rfl, e.failBoot_tmp _ _, ?_⟩
      rw [e.failBoot_btl, e.failBoot_state]
      exact ⟨rfl, rfl, rfl, rfl⟩
  refine ⟨fun hn hlast => hdone (d.recordsTaken p).lastTaken ?_ rfl, fun hn h0 h1 h2 => hdone (d.planTaken p).lastTaken ?_ rfl⟩
  · rw [exec_bootBlockRead, Dev.bootBlock_taken hread (blockOk_iff.2 hb) (Dev.takeBlock_records hn),
      Dev.blockTaken_last (d := d.recordsTaken p) hlast]
  · have hcounts : planCounts p = (0, 0, 0) := by rw [planCounts, h0, h1, h2]
    have htake : d.takeBlock b = (d.planTaken p, none) := by
      rw [Dev.takeBlock_plan hn, hcounts]
      rfl
    have hlast : (d.planTaken p).btl.next + 1 = (d.planTaken p).btl.total := by
      simp only [Dev.planTaken, hcounts, hn]
      rfl
    rw [exec_bootBlockRead, Dev.bootBlock_taken hread (blockOk_iff.2 hb) htake, Dev.blockTaken_last hlast]

end Sys2Proof.Machine

/-! SUPPORT. The maintenance port (R189 to R192) and the consoles' frames by their checks (R145, R147, R153, R176, R52). -/

namespace Sys2Proof.Machine

/-! ### The port's reads and window (R189 to R191) -/

theorem u8_eq (n : Nat) : u8 n = [BitVec.ofNat 8 n] := by
  simp [u8, beBytes]

theorem WindowTable.ofCode_badCommand {d : Dev} {table : Byte} {index : BitVec 16} {auto : Byte}
    (h : WindowTable.ofCode table.toNat = none ∨ 1 < auto.toNat) : d.setWindow table index auto = d.badCommand := by
  unfold Dev.setWindow
  split
  · next t ht hauto =>
    simp only [decide_eq_true_eq] at hauto
    rcases h with h | h
    · rw [h] at ht; cases ht
    · omega
  · rfl

theorem Dev.setWindow_taken {d : Dev} {table : Byte} {t : WindowTable} (index : BitVec 16) {auto : Byte}
    (ht : WindowTable.ofCode table.toNat = some t) (ha : auto.toNat ≤ 1) : d.setWindow table index auto
      = ({ d with mnp := { d.mnp with table := t, index := index.toNat, auto := auto == 1 } } : Dev).respond .ok [] := by
  simp [Dev.setWindow, ht, ha]

/-- The status record begins with the station state's code (R190). -/
theorem Dev.statusRecord_head (d : Dev) : d.statusRecord.head? = some (BitVec.ofNat 8 d.stc.state.code) := by
  simp only [Dev.statusRecord, Dev.stationSummary, u8_eq, List.append_assoc, List.cons_append, List.head?_cons]

theorem Dev.respond_ok (d : Dev) (b : List Byte) :
    d.respond .ok b = { d with mnp := { d.mnp with output := 0 :: b, reported := none } } := rfl

section
variable {d : Dev}

theorem Dev.readWindow_some {r : List Byte} (h : (d.windowRecords d.mnp.table)[d.mnp.index]? = some r) :
    d.readWindow = { d with mnp := { d.mnp with
      output := 0 :: (beBytes 1 d.mnp.table.ctorIdx ++ beBytes 2 d.mnp.index ++ beBytes 1 r.length ++ r)
      reported := none, index := if d.mnp.auto then d.mnp.index + 1 else d.mnp.index } } := by
  unfold Dev.readWindow
  cases ha : d.mnp.auto
  · simp only [h, Dev.respond, ha, Bool.false_eq_true, if_false]
    rfl
  · simp only [h, Dev.respond, ha, if_true]
    rfl

theorem Dev.readWindow_none (h : (d.windowRecords d.mnp.table)[d.mnp.index]? = none) :
    d.readWindow = { d with mnp := { d.mnp with
      output := 0 :: (beBytes 1 d.mnp.table.ctorIdx ++ beBytes 2 d.mnp.index ++ [0]), reported := none } } := by
  unfold Dev.readWindow
  simp only [h]
  rfl

end

/-- Settles O54: what each port command shifts out. -/
theorem portReadsAndWindow : Obligations.PortReadsAndWindow := by
  intro s table index auto d m shifts head
  have hset : exec (.setWindow table index auto) s = .next { s with dev := d.setWindow table index auto } := rfl
  have hread : exec .readWindow s = .next { s with dev := d.readWindow } := rfl
  refine ⟨?_, ⟨?_, d.statusRecord_head, ?_⟩, fun t ht ha => ?_, fun h => ?_, ?_, fun r hr => ?_, fun hr => ?_⟩
  · rfl
  · have hexec : exec .readStatus s = .next { s with dev := d.respond .ok d.statusRecord } := rfl
    simp only [shifts, hexec, Dev.respond_ok]
    rfl
  · rw [Dev.statusRecord]
    rfl
  · simp only [shifts, hset, Dev.setWindow_taken index ht ha]
    rfl
  · simp only [shifts, hset, WindowTable.ofCode_badCommand h]
    rfl
  · rfl
  · simp only [shifts, hread, Dev.readWindow_some hr]
    rfl
  · simp only [shifts, hread, Dev.readWindow_none hr]
    rfl

/-! ### Counters and boot writes (R190, R192) -/

theorem Counter.index_lt (c : Counter) : c.index < Counter.count := by
  cases c <;> decide

theorem reduced_toNat (x y : BitVec 16) : (reduced x y).toNat = x.toNat - y.toNat := by
  rw [reduced, BitVec.toNat_ofNat]
  have := x.isLt
  omega

section
variable {d : Dev}

/-- Each counter reduced by what was reported for it (R190). -/
theorem Dev.readCountersComplete_some {vs : List (BitVec 16)} (h : d.mnp.reported = some vs) :
    d.readCountersComplete = { d with counters := d.counters.zipWith reduced vs, mnp := { d.mnp with reported := none } } := by
  simp only [Dev.readCountersComplete, h]

theorem Dev.counter_zipWith {vs : List (BitVec 16)} (hd : d.counters.length = Counter.count) (hv : vs.length = Counter.count)
    (m : Mnp) (c : Counter) : (({ d with counters := d.counters.zipWith reduced vs, mnp := m } : Dev).counter c).toNat
      = (d.counter c).toNat - (vs.getD c.index 0).toNat := by
  have hc := c.index_lt
  have h1 : c.index < d.counters.length := by omega
  have h2 : c.index < vs.length := by omega
  simp [Dev.counter, List.getD_eq_getElem?_getD, h1, h2, reduced_toNat]

theorem Mnp.writing_iff {m : Mnp} : m.writing = true ↔ ∃ w, m.write = some w ∧ w.ending = .inProgress := by
  simp [Mnp.writing, Option.any_eq_true]

variable {block : BitVec 16} {data : List Byte}

theorem Dev.writeBoot_locked (h : d.stc.state ≠ .bootHold) : d.writeBoot block data = d.respond .locked [] := by
  simp [Dev.writeBoot, h]

theorem Dev.writeBoot_busy (h : d.stc.state = .bootHold) (hw : d.mnp.writing = true) : d.writeBoot block data = d.respond .busy [] := by
  simp [Dev.writeBoot, h, hw]

theorem Dev.writeBoot_range (h : d.stc.state = .bootHold) (hw : d.mnp.writing = false) (hb : 511 < block.toNat) :
    d.writeBoot block data = d.respond .range [] := by
  simp [Dev.writeBoot, h, hw, hb]

theorem Dev.writeBoot_taken (h : d.stc.state = .bootHold) (hw : d.mnp.writing = false) (hb : block.toNat ≤ 511) :
    d.writeBoot block data = ({ d with mnp := { d.mnp with
        write := some { block := block.toNat, ending := .inProgress, data := data }
        writeTimer := d.timerMs Config.bootWriteMs } } : Dev).respond .ok [] := by
  simp [Dev.writeBoot, h, hw, Nat.not_lt.2 hb]

theorem Dev.endWrite_writing {w : BootWrite} (hw : d.mnp.write = some w) (hp : w.ending = .inProgress) (x : WriteEnd) :
    d.endWrite x = { d with mnp := { d.mnp with write := some { w with ending := x, data := [] }, writeTimer := none } } := by
  rw [Dev.endWrite, if_pos (Mnp.writing_iff.2 ⟨w, hw, hp⟩), hw]
  rfl

end

/-- Settles O55: the counters reduced entry by entry, and a write's answers by its checks in their order. -/
theorem countersAndBootWrites : Obligations.CountersAndBootWrites := by
  refine ⟨fun s => ?_, fun s block data w => ?_⟩
  · intro d
    have hexec : exec .readCountersComplete s = .next { s with dev := d.readCountersComplete } := rfl
    refine ⟨rfl, fun vs hvs hd hv => ?_, fun h => ?_⟩
    · rw [hexec, Dev.readCountersComplete_some hvs]
      exact ⟨_, rfl, rfl, Dev.counter_zipWith hd hv _, rfl⟩
    · rw [hexec, Dev.readCountersComplete, h]
  · intro d m busy port ended
    have hwrite : exec (.writeBoot block data) s = .next { s with dev := d.writeBoot block data } := rfl
    have hread : exec (.bootWriteReadback data) s = .next { s with dev := d.writeReadback data } := rfl
    have htime : exec .bootWriteTimeout s = .next { s with dev := d.whileDue d.mnp.writeTimer (fun d => d.endWrite .noResponse) } := rfl
    have hidle : ¬busy → d.mnp.writing = false := fun h => by simpa using mt Mnp.writing_iff.1 h
    refine ⟨fun h => ?_, fun h hb => ?_, fun h hb hr => ?_, fun h hb hr => ?_, fun hw hp => ?_, fun hw hp hdue => ?_⟩
    · simp only [port, hwrite, Dev.writeBoot_locked h]
      rfl
    · simp only [port, hwrite, Dev.writeBoot_busy h (Mnp.writing_iff.2 hb)]
      rfl
    · simp only [port, hwrite, Dev.writeBoot_range h (hidle hb) hr]
      rfl
    · simp only [port, hwrite, Dev.writeBoot_taken h (hidle hb) hr]
      rfl
    · have hend : (if d.mnp.write.any (fun w => w.data == data) then WriteEnd.done else .mismatch) = if w.data = data then .done else .mismatch := by
        have hw' : d.mnp.write = some w := hw
        simp [hw']
      simp only [port, hread, Dev.writeReadback, Dev.endWrite_writing hw hp, hend]
      rfl
    · simp only [port, htime]
      rw [Dev.whileDue_due _ _ hdue, Dev.endWrite_writing hw hp]

/-! ### A console's frame that passes the source check (R41, R145, R167) -/

/-- The part once the mailbox's head has been taken out. -/
def Dev.without (d : Dev) (rest : List Frame) : Dev := d.setLif { d.lif with mailbox := rest }

theorem Dev.takenIn_eq (d : Dev) (f : Frame) (rest : List Frame) : d.takenIn f rest = ((d.without rest).intake f).only f.src := rfl

section
variable {d : Dev} {f : Frame} {rest : List Frame}

/-- The content of a frame that passes the source check is taken (R41, R42). -/
theorem Dev.intake_record (h : d.passes f rest) : ∃ r, ((d.without rest).intake f).record = some r := by
  obtain ⟨-, h1, h32, hs, hsender⟩ := h
  cases hr : d.peer f.src with
  | none => exact ⟨_, congrArg Intake.record (Dev.intake_new (d := d.without rest) h1 h32 hs hr)⟩
  | some r =>
    have hk : r.kind = f.kind.sender := by simpa [hr] using hsender
    exact ⟨_, congrArg Intake.record (Dev.intake_known (d := d.without rest) h1 h32 hs hr hk)⟩

theorem Dev.fromConsole_passes (h : d.passes f rest) (act : Dev → Dev) :
    (d.without rest).fromConsole f act = act (d.takenIn f rest) := by
  obtain ⟨r, hr⟩ := Dev.intake_record h
  simp only [Dev.fromConsole, hr, Dev.takenIn_eq]

theorem Dev.dispatch_head {is : Frame → Bool} (h : d.lif.mailbox = f :: rest) (hk : is f = true) (take : Dev → Frame → Dev) :
    d.dispatch is take = take (d.without rest) f := by
  simp only [Dev.dispatch, h, hk, if_true]
  rfl

/-- A console's frame dispatched is what its block does with it after intake. -/
theorem Dev.dispatch_console {is : Frame → Bool} (h : d.passes f rest) (hk : is f = true) (act : Dev → Frame → Dev) :
    d.dispatch is (fun d f => d.fromConsole f (fun d => act d f)) = act (d.takenIn f rest) f := by
  obtain ⟨hmail, -⟩ := id h
  rw [Dev.dispatch_head hmail hk, Dev.fromConsole_passes h]

end

theorem Frame.isKind_of {f : Frame} {k : FrameKind} (h : f.kind = k) : f.isKind k = true := by
  simp [Frame.isKind, h]

theorem Frame.isTest_iff {f : Frame} {n : Nat} (h : f.kind = .linkTest) : f.isTest n = true ↔ byteAt f.payload 0 = n := by
  simp [Frame.isTest, h]

section
variable {s : State} {f : Frame} {rest : List Frame}

theorem exec_moveOrder (h : s.dev.passes f rest) (hk : f.kind = .moveOrder) : exec .moveOrder s = .next { s with
    dev := if f.toAll then (s.dev.takenIn f rest).orderToAll
      else (s.dev.takenIn f rest).judgeOrder f.src (readMoveOrder f.payload) } := by
  have hexec : exec .moveOrder s = s.becomes (s.dev.dispatch (Frame.isKind .moveOrder) Dev.takeMoveOrder) := rfl
  rw [hexec, State.becomes_eq]
  exact congrArg (fun d => Host.Outcome.next { s with dev := d }) (Dev.dispatch_console h (Frame.isKind_of hk)
    (fun d f => if f.toAll then d.orderToAll else d.judgeOrder f.src (readMoveOrder f.payload)))

theorem exec_halt (h : s.dev.passes f rest) (hk : f.kind = .halt) :
    exec .halt s = .next { s with dev := (s.dev.takenIn f rest).consoleHalt } := by
  have hexec : exec .halt s = s.becomes (s.dev.dispatch (Frame.isKind .halt) (fun d f => d.fromConsole f Dev.consoleHalt)) := rfl
  rw [hexec, State.becomes_eq]
  exact congrArg (fun d => Host.Outcome.next { s with dev := d })
    (Dev.dispatch_console h (Frame.isKind_of hk) (fun d _ => d.consoleHalt))

theorem exec_abort (h : s.dev.passes f rest) (hk : f.kind = .abort) :
    exec .abort s = .next { s with dev := (s.dev.takenIn f rest).abort f.toAll f.src } := by
  have hexec : exec .abort s = s.becomes (s.dev.dispatch (Frame.isKind .abort)
    (fun d f => d.fromConsole f (fun d => d.abort f.toAll f.src))) := rfl
  rw [hexec, State.becomes_eq, Dev.dispatch_console h (Frame.isKind_of hk) (fun d f => d.abort f.toAll f.src)]

theorem exec_freeStation (h : s.dev.passes f rest) (hk : f.kind = .freeStation) :
    exec .freeStation s = .next { s with dev := (s.dev.takenIn f rest).freeStation (byteAt f.payload 0) } := by
  have hexec : exec .freeStation s = s.becomes (s.dev.dispatch (Frame.isKind .freeStation)
    (fun d f => d.fromConsole f (fun d => d.freeStation (byteAt f.payload 0)))) := rfl
  rw [hexec, State.becomes_eq, Dev.dispatch_console h (Frame.isKind_of hk) (fun d f => d.freeStation (byteAt f.payload 0))]

theorem exec_clearFaults (h : s.dev.passes f rest) (hk : f.kind = .clearFaults) :
    exec .clearFaults s = .next { s with dev := (s.dev.takenIn f rest).clearFaults } := by
  have hexec : exec .clearFaults s = s.becomes (s.dev.dispatch (Frame.isKind .clearFaults)
    (fun d f => d.fromConsole f Dev.clearFaults)) := rfl
  rw [hexec, State.becomes_eq]
  exact congrArg (fun d => Host.Outcome.next { s with dev := d })
    (Dev.dispatch_console h (Frame.isKind_of hk) (fun d _ => d.clearFaults))

theorem exec_linkTestStart (h : s.dev.passes f rest) (hk : f.kind = .linkTest) (hm : byteAt f.payload 0 = 1) :
    exec .linkTestStart s = .next { s with dev := (s.dev.takenIn f rest).testStart f } := by
  have hexec : exec .linkTestStart s = s.becomes (s.dev.dispatch (Frame.isTest 1)
    (fun d f => d.fromConsole f (fun d => d.testStart f))) := rfl
  rw [hexec, State.becomes_eq, Dev.dispatch_console h ((Frame.isTest_iff hk).2 hm) Dev.testStart]

theorem exec_linkTestData (h : s.dev.passes f rest) (hk : f.kind = .linkTest) (hm : byteAt f.payload 0 = 2) :
    exec .linkTestData s = .next { s with dev := (s.dev.takenIn f rest).testData f } := by
  have hexec : exec .linkTestData s = s.becomes (s.dev.dispatch (Frame.isTest 2)
    (fun d f => d.fromConsole f (fun d => d.testData f))) := rfl
  rw [hexec, State.becomes_eq, Dev.dispatch_console h ((Frame.isTest_iff hk).2 hm) Dev.testData]

theorem exec_linkTestStop (h : s.dev.passes f rest) (hk : f.kind = .linkTest) (hm : byteAt f.payload 0 = 3) :
    exec .linkTestStop s = .next { s with dev := (s.dev.takenIn f rest).testStop f } := by
  have hexec : exec .linkTestStop s = s.becomes (s.dev.dispatch (Frame.isTest 3)
    (fun d f => d.fromConsole f (fun d => d.testStop f))) := rfl
  rw [hexec, State.becomes_eq, Dev.dispatch_console h ((Frame.isTest_iff hk).2 hm) Dev.testStop]

end

/-! ### The link test by its mode (R176) -/

section
variable {d : Dev} {f : Frame}

theorem Dev.testStart_ready (h : (d.stc.state = .standing ∨ d.stc.state = .parked) ∧ d.stc.order = none) : d.testStart f
      = d.setTest (some { console := f.src, reg := testSeed (beAt f.payload 1 2), bitErrors := 0, compared := 0 }) := by
  simp [Dev.testStart, h]

theorem Dev.testStart_ignored (h : ¬((d.stc.state = .standing ∨ d.stc.state = .parked) ∧ d.stc.order = none)) :
    d.testStart f = d.bump .testIgnored := by
  rw [Dev.testStart, if_neg (by simpa using h)]
  rfl

theorem Dev.testData_other (h : ∀ t, d.lif.test = some t → t.console ≠ f.src) : d.testData f = d.bump .testIgnored := by
  unfold Dev.testData
  split
  · next t ht => rw [if_neg (h t ht)]; rfl
  · rfl

theorem Dev.testStop_other (h : ∀ t, d.lif.test = some t → t.console ≠ f.src) : d.testStop f = d.bump .testIgnored := by
  unfold Dev.testStop
  split
  · next t ht => rw [if_neg (h t ht)]; rfl
  · rfl

end

/-- Settles O42: each mode in each state of the test. -/
theorem linkTestActsByMode : Obligations.LinkTestActsByMode := by
  intro s f rest d hpass hkind e mode ignored ready
  refine ⟨fun hm hr => ?_, fun hm hr => ?_, fun t hm ht hc => ?_, fun t hm ht hc => ?_, fun hm ht => ?_⟩
  · rw [exec_linkTestStart hpass hkind hm, Dev.testStart_ready hr]
    rfl
  · intro c hc
    simp only [hm, List.mem_cons, Prod.mk.injEq, List.not_mem_nil, or_false] at hc
    obtain ⟨-, rfl⟩ | ⟨h, -⟩ | ⟨h, -⟩ := hc
    · rw [exec_linkTestStart hpass hkind hm, Dev.testStart_ignored hr]
    · omega
    · omega
  · rw [exec_linkTestData hpass hkind hm]
    have ht' : (s.dev.takenIn f rest).lif.test = some t := ht
    simp only [Dev.testData, ht', hc, if_true]
    rfl
  · rw [exec_linkTestStop hpass hkind hm]
    have ht' : (s.dev.takenIn f rest).lif.test = some t := ht
    simp only [Dev.testStop, ht', hc, if_true]
    rfl
  · intro c hc
    simp only [List.mem_cons, Prod.mk.injEq, List.not_mem_nil, or_false] at hc
    obtain ⟨h, -⟩ | ⟨h, rfl⟩ | ⟨h, rfl⟩ := hc
    · omega
    · rw [exec_linkTestData hpass hkind h, Dev.testData_other ht]
    · rw [exec_linkTestStop hpass hkind h, Dev.testStop_other ht]

/-- Settles O34: R52's table. -/
theorem freeStationFreesALostCarriage : Obligations.FreeStationFreesALostCarriage := by
  intro s f rest d n hpass hkind e
  have hexec : exec .freeStation s = .next { s with dev := e.freeStation n } := exec_freeStation hpass hkind
  refine ⟨fun r hr hk hl hf => ?_, fun r hr hk hl => ?_, fun h => ?_⟩
  · intro freed
    have hs : r.station = n := Dev.peer_station hr
    have heq : e.freeStation n = ({ e with peers := freed } : Dev).onViewChanged := by
      have hset : e.freeStation n = (e.setPeer { r with frozen := false, held := [], sec := 0, waiting := none }).onViewChanged := by
        simp [Dev.freeStation, hr, hk, hl, hf]
      rw [hset, Dev.setPeer]
      simp only [freed, hs]
    exact ⟨_, hexec, by rw [heq, Dev.onViewChanged_peers], heq⟩
  · rw [hexec]
    simp [Dev.freeStation, hr, hk, hl]
  · rw [hexec]
    unfold Dev.freeStation
    split
    · rfl
    · next r hr =>
      rcases h r hr with hk | ⟨hl, hf⟩
      · rw [if_pos (by simpa using hk)]
      · rw [if_neg (c := (r.freshness != .lost) = true) (by simp [hl]), if_pos (c := (!r.frozen) = true) (by simp [hf]), ite_self]

/-! ### HALT (R153) -/

section
variable {d : Dev}

theorem Dev.takeHalt_remembering {m : Remembered}
    (h : (d.stc.state, m) ∈ [(StationState.running, Remembered.running), (.approach, .approach), (.docking, .docking)]) :
    d.takeHalt = d.enterHalted m := by
  simp only [List.mem_cons, Prod.mk.injEq, List.not_mem_nil, or_false] at h
  obtain ⟨hs, rfl⟩ | ⟨hs, rfl⟩ | ⟨hs, rfl⟩ := h <;> simp only [Dev.takeHalt, hs]

theorem Dev.takeHalt_hold (h : d.stc.state ∈ [.listen, .noPosition, .standing, .parked]) :
    d.takeHalt = { d with stc := { d.stc with haltHold := true } } := by
  simp only [List.mem_cons, List.not_mem_nil, or_false] at h
  obtain hs | hs | hs | hs := h <;> simp only [Dev.takeHalt, hs]

theorem Dev.consoleHalt_taken (h : d.stc.state ∈ [.running, .approach, .docking, .listen, .noPosition, .standing, .parked]) :
    d.consoleHalt = d.takeHalt.bump .haltsTaken := by
  simp only [List.mem_cons, List.not_mem_nil, or_false] at h
  obtain hs | hs | hs | hs | hs | hs | hs := h <;> simp only [Dev.consoleHalt, hs]

theorem Dev.settle_serviceBrake_of_halted (h : d.bdu.srcHalted = true) : d.settle.bdu.serviceBrake = true := by
  simp [Dev.settle, Bdu.sourced, h]

end

/-- Settles O37: HALTED entered from a moving state, and the halt hold alone in the others. -/
theorem haltActsByState : Obligations.HaltActsByState := by
  intro s f rest d hpass hkind e
  have hexec : exec .halt s = .next { s with dev := e.consoleHalt } := exec_halt hpass hkind
  clear_value e
  refine ⟨fun m hm => ?_, fun hs => ?_, fun hs => ?_⟩
  · have hmoving : e.stc.state ∈ [.running, .approach, .docking, .listen, .noPosition, .standing, .parked] := by
      simp only [List.mem_cons, Prod.mk.injEq, List.not_mem_nil, or_false] at hm ⊢
      tauto
    have hhalt : e.consoleHalt = ((((({ e with stc := { e.stc with remembered := some m, haltHold := true } } : Dev).entering
        .halted).settle).bump .entriesHalted).bump .haltsTaken) := by
      rw [Dev.consoleHalt_taken hmoving, Dev.takeHalt_remembering hm, Dev.enterHalted, Dev.enterState_of_demanding rfl]
    refine ⟨_, hexec, ?_⟩
    rw [hhalt]
    exact ⟨rfl, rfl, Dev.settle_serviceBrake_of_halted rfl, rfl, rfl, rfl, rfl, rfl, rfl, rfl, rfl⟩
  · rw [hexec]
    simp only [Dev.consoleHalt, hs]
  · rw [hexec]
    by_cases hstop : e.stc.state = .safeStop
    · simp only [Dev.consoleHalt, hstop]
    · have hcalm : e.stc.state ∈ [.listen, .noPosition, .standing, .parked] := by
        simp only [List.mem_cons, List.not_mem_nil, or_false] at hs ⊢
        tauto
      have htaken : e.stc.state ∈ [.running, .approach, .docking, .listen, .noPosition, .standing, .parked] :=
        List.mem_of_mem_drop (i := 3) hcalm
      rw [Dev.consoleHalt_taken htaken, Dev.takeHalt_hold hcalm]

/-! ### MOVE-ORDER refused or answered at once (R147) -/

theorem MoveFields.valid_iff {m : MoveFields} : m.valid = true ↔
    1 ≤ m.id ∧ m.speedClass ≤ 3 ∧ m.priority ≤ 3 ∧ m.mode ≤ 1 ∧ m.count = m.route.length := by
  simp [MoveFields.valid, and_assoc]

section
variable {d : Dev} {m : MoveFields} {n : Nat}

/-- An order is judged at rest: in STANDING, or PARKED with none current (R147). -/
def Dev.atRest (d : Dev) : Prop := d.stc.state = .standing ∨ (d.stc.state = .parked ∧ d.stc.order = none)

theorem Dev.orderChecks_of_rest (h : d.atRest) : d.orderChecks m =
    if d.faultActive .planMismatch then some .planMismatch else if d.stc.haltHold then some .stopped
    else if !m.valid then some .orderInvalid else none := by
  rcases h with hs | ⟨hs, ho⟩
  · simp [Dev.orderChecks, hs]
  · simp [Dev.orderChecks, hs, ho]

theorem Dev.orderChecks_busy (h : d.stc.state = .running ∨ d.stc.state = .approach ∨ d.stc.state = .docking
    ∨ (d.stc.state = .parked ∧ d.stc.order.isSome = true)) : d.orderChecks m = some .busy := by
  rcases h with hs | hs | hs | ⟨hs, ho⟩
  · simp only [Dev.orderChecks, hs]
  · simp only [Dev.orderChecks, hs]
  · simp only [Dev.orderChecks, hs]
  · simp [Dev.orderChecks, hs, ho]

theorem Dev.orderChecks_stopped (h : d.stc.state = .halted ∨ d.stc.state = .safeStop) : d.orderChecks m = some .stopped := by
  rcases h with hs | hs <;> simp only [Dev.orderChecks, hs]

theorem Dev.orderChecks_noPosition (h : d.stc.state = .noPosition) : d.orderChecks m = some .noPosition := by
  simp only [Dev.orderChecks, h]

theorem Dev.orderChecks_listen (h : d.stc.state = .listen) : d.orderChecks m = some .listening := by
  simp only [Dev.orderChecks, h]

theorem Dev.judgeOrder_refused {r : RefuseReason} (h : d.orderChecks m = some r) : d.judgeOrder n m = d.refuseOrder n m.id r := by
  simp only [Dev.judgeOrder, h]

theorem Dev.refuseOrder_counted {r : RefuseReason} {c : Counter} (h : r.counter = some c) (id : Nat) :
    d.refuseOrder n id r = (d.orderReport n .moveOrder id (.refused r)).bump c := by
  simp only [Dev.refuseOrder, h]

/-- The first seven checks passed: the parked pad, standstill and the route remain (R147). -/
theorem Dev.judgeOrder_there (h : d.orderChecks m = none) (ht : d.stc.state = .parked ∧ d.stc.parkedPad = some m.pad) :
    d.judgeOrder n m = (d.orderReport n .moveOrder m.id .arrived).bump .ordersAtOnce := by
  simp [Dev.judgeOrder, h, ht]

theorem Dev.judgeOrder_moving (h : d.orderChecks m = none) (ht : ¬(d.stc.state = .parked ∧ d.stc.parkedPad = some m.pad))
    (hs : d.odo.standstill = false) : d.judgeOrder n m = d.refuseOrder n m.id .notStandstill := by
  have ht' : (d.stc.state == .parked && d.stc.parkedPad == some m.pad) = false := by simpa using ht
  simp [Dev.judgeOrder, h, ht', hs]

theorem Dev.judgeOrder_route {r : RefuseReason} (h : d.orderChecks m = none)
    (ht : ¬(d.stc.state = .parked ∧ d.stc.parkedPad = some m.pad)) (hs : d.odo.standstill = true)
    (hv : validateRoute d.tmp.sections d.tmp.pads d.tmp.carriage.length d.tmp.carriage.dockTol d.odo.pos.point m.route m.pad = .error r) :
    d.judgeOrder n m = d.refuseOrder n m.id r := by
  have ht' : (d.stc.state == .parked && d.stc.parkedPad == some m.pad) = false := by simpa using ht
  simp [Dev.judgeOrder, h, ht', hs, hv]

end

/-- Settles O35: the checks of R147 in their order. -/
theorem moveOrderIsAnswered : Obligations.MoveOrderIsAnswered := by
  intro s f rest d m hpass hkind e st refused rest' known fields there
  have hexec : exec .moveOrder s = .next { s with dev := if f.toAll then e.orderToAll else e.judgeOrder f.src m } :=
    exec_moveOrder hpass hkind
  clear_value e
  have hone (hd : f.dest ≠ 0) : exec .moveOrder s = .next { s with dev := e.judgeOrder f.src m } := by
    rw [hexec, if_neg (by simpa [Frame.toAll] using hd)]
  have hrefused (r : RefuseReason) (c : Counter) (hc : r.counter = some c) (hj : e.judgeOrder f.src m = e.refuseOrder f.src m.id r) :
      refused r c := fun hd => by rw [hone hd, hj, Dev.refuseOrder_counted hc]
  have hchecked (r : RefuseReason) (c : Counter) (hc : r.counter = some c) (hj : e.orderChecks m = some r) : refused r c :=
    hrefused r c hc (Dev.judgeOrder_refused hj)
  have hmismatch (hk : known) : ¬e.faultActive .planMismatch = true := by rw [show e.faultActive .planMismatch = false from hk]; decide
  have hpassed (hr : rest') (hk : known) (hh : e.stc.haltHold = false) (hv : fields) : e.orderChecks m = none := by
    rw [Dev.orderChecks_of_rest hr, if_neg (hmismatch hk), if_neg (by simp [hh]), if_neg (by simp [MoveFields.valid_iff.2 hv])]
  refine ⟨fun h => hchecked _ _ rfl (Dev.orderChecks_busy h), fun h => hchecked _ _ rfl (Dev.orderChecks_noPosition h),
    fun h => hchecked _ _ rfl (Dev.orderChecks_stopped h), fun h => hchecked _ _ rfl (Dev.orderChecks_listen h),
    fun hr hk => hchecked _ _ rfl ?_, fun hr hk hh => hchecked _ _ rfl ?_, fun hr hk hh hv => hchecked _ _ rfl ?_,
    fun hr hk hh hv ht hs => hrefused _ _ rfl (Dev.judgeOrder_moving (hpassed hr hk hh hv) ht hs),
    fun r c hr hk hh hv ht hs hroute hc => hrefused r c hc (Dev.judgeOrder_route (hpassed hr hk hh hv) ht hs hroute),
    fun hd hr hk hh hv ht => ?_, fun hd => ?_⟩
  · rw [Dev.orderChecks_of_rest hr, if_pos (by simpa [known] using hk)]
  · rw [Dev.orderChecks_of_rest hr, if_neg (hmismatch hk), if_pos hh]
  · have hinvalid : m.valid = false := by simpa using mt MoveFields.valid_iff.1 hv
    rw [Dev.orderChecks_of_rest hr, if_neg (hmismatch hk), if_neg (by simp [hh]), if_pos (by simp [hinvalid])]
  · rw [hone hd, Dev.judgeOrder_there (hpassed hr hk hh hv) ht]
  · rw [hexec, if_pos (by simpa [Frame.toAll] using hd)]
    rfl

end Sys2Proof.Machine

/-! SUPPORT. The end of an order, a failed docking and a lost position (R136, R152, R157, R158): what they may change, and what
they leave behind. -/

namespace Sys2Proof.Machine

/-! ### What the end of an order may change -/

/-- A part as the end of an order, a state entered or the Claim Engine's work may leave it: the position but for its route index, the
peers, the map and every fault but DEADLOCK are as they were, and the demand is the one before or 0. -/
def Dev.closesTo (d e : Dev) : Prop :=
  ∃ (o : Odo) (x : Sup) (b : Bdu) (k : Dkc) (s : Stc) (c : Cle) (q : List TxEntry) (t : TxState) (y : Option LinkTest)
    (fs : List FaultEntry) (cs : List (BitVec 16)),
    e = { d with
      odo := o, sup := x, bdu := b, dkc := k, stc := s, cle := c, lif := { d.lif with queue := q, tx := t, test := y }
      faults := fs, counters := cs }
    ∧ (o = d.odo ∨ o = d.odo.offRoute) ∧ (x.demand = d.sup.demand ∨ x.demand = 0) ∧ ∀ j, j ≠ .deadlock → kindIn fs j = d.faultActive j

theorem Odo.offRoute_offRoute (o : Odo) : o.offRoute.offRoute = o.offRoute := by
  cases hd : o.nextDue <;> cases hw : o.window <;> simp [Odo.offRoute, hd, hw]

theorem Dev.closesTo_refl (d : Dev) : d.closesTo d :=
  ⟨_, _, _, _, _, _, _, _, _, _, _, rfl, .inl rfl, .inl rfl, fun _ _ => rfl⟩

theorem Dev.closesTo_trans {d e f : Dev} (h : d.closesTo e) (h' : e.closesTo f) : d.closesTo f := by
  obtain ⟨o, x, b, k, s, c, q, t, y, fs, cs, rfl, ho, hx, hfs⟩ := h
  obtain ⟨o', x', b', k', s', c', q', t', y', fs', cs', rfl, ho', hx', hfs'⟩ := h'
  refine ⟨_, _, _, _, _, _, _, _, _, _, _, rfl, ?_, ?_, fun j hj => (hfs' j hj).trans (hfs j hj)⟩
  · obtain rfl | rfl := ho' <;> obtain rfl | rfl := ho <;> simp [Odo.offRoute_offRoute]
  · obtain h' | h' := hx' <;> obtain h | h := hx <;> simp [h, h']

section
variable {d : Dev}

theorem Dev.claimsApart_closesTo {e : Dev} (h : d.claimsApart e) : d.closesTo e := by
  obtain ⟨c, q, t, fs, cs, rfl, hfs⟩ := h
  exact ⟨_, _, _, _, _, _, _, _, _, _, _, rfl, .inl rfl, .inl rfl, hfs⟩

theorem Dev.closesTo_blocks (b : Bdu) (k : Dkc) (s : Stc) (cs : List (BitVec 16)) :
    d.closesTo { d with bdu := b, dkc := k, stc := s, counters := cs } :=
  ⟨_, _, _, _, _, _, _, _, _, _, _, rfl, .inl rfl, .inl rfl, fun _ _ => rfl⟩

theorem Dev.enterState_demand (d : Dev) (s : StationState) :
    (d.enterState s).sup.demand = d.sup.demand ∨ (d.enterState s).sup.demand = 0 := by
  cases hd : s.demanding
  · by_cases hs : s = .safeStop
    · subst hs
      obtain ⟨b, y, cs, hlatch⟩ := ((d.entering .safeStop).zeroDemand.settle).setLatch_changes .safeStop
      rw [Dev.enterState_safeStop]
      right
      unfold Dev.setLatch
      split <;> rfl
    · rw [Dev.enterState_of_quiet hd hs]
      exact .inr rfl
  · rw [Dev.enterState_of_demanding hd]
    exact .inl rfl

theorem Dev.closesTo_enterState (d : Dev) (s : StationState) : d.closesTo (d.enterState s) := by
  have hdem := d.enterState_demand s
  obtain ⟨x, b, k, t, cs, heq⟩ := d.enterState_changes s
  rw [heq] at hdem ⊢
  exact ⟨_, _, _, _, _, _, _, _, _, _, _, rfl, .inl rfl, hdem, fun _ _ => rfl⟩

theorem Dev.closesTo_enterHalted (d : Dev) (r : Remembered) : d.closesTo (d.enterHalted r) :=
  Dev.closesTo_trans (e := ({ d with stc := { d.stc with remembered := some r, haltHold := true } } : Dev).enterState .halted)
    (Dev.closesTo_trans (Dev.closesTo_blocks _ _ _ _) (Dev.closesTo_enterState _ _)) (Dev.closesTo_blocks _ _ _ _)

theorem Dev.closesTo_leaveSafeStop (d : Dev) : d.closesTo d.leaveSafeStop := by
  unfold Dev.leaveSafeStop
  split
  · exact Dev.closesTo_trans (Dev.closesTo_blocks _ _ _ _) (Dev.closesTo_enterState _ _)
  · exact d.closesTo_refl

/-! ### The end of an order (R152) -/

/-- BDU's record once both clamp commands have been dropped (R128, R136). -/
def Dev.commandsDropped (d : Dev) : Bdu :=
  if d.bdu.clampDown || d.bdu.clampUp then ({ d with bdu := { d.bdu with clampDown := false, clampUp := false } } : Dev).settle.bdu
  else d.bdu

theorem Dev.commandsDropped_clamps (d : Dev) : d.commandsDropped.clampDown = false ∧ d.commandsDropped.clampUp = false := by
  unfold Dev.commandsDropped
  split
  · exact ⟨rfl, rfl⟩
  · next h => simpa using h

theorem Dev.watchClamps_changes (d : Dev) : ∃ w : Timer, d.watchClamps = { d with dkc := { d.dkc with watchTimer := w } } := by
  unfold Dev.watchClamps
  split
  · split
    · exact ⟨d.dkc.watchTimer, rfl⟩
    · exact ⟨_, rfl⟩
  · exact ⟨_, rfl⟩

theorem Dev.dropped_changes (d : Dev) : ∃ w : Timer, (if d.bdu.clampDown || d.bdu.clampUp then d.dropClampCommands else d)
    = { d with bdu := d.commandsDropped, dkc := { d.dkc with watchTimer := w } } := by
  unfold Dev.commandsDropped
  split
  · obtain ⟨w, hw⟩ := ({ d with bdu := { d.bdu with clampDown := false, clampUp := false } } : Dev).settle.watchClamps_changes
    exact ⟨w, hw⟩
  · exact ⟨d.dkc.watchTimer, rfl⟩

/-- DKC's record at the end of an order, with the clamp watch as it then runs (R128). -/
def Dkc.ended (k : Dkc) (b : Bdu) (w : Timer) : Dkc :=
  { k with
    clampTimer := none, corrTimer := none, watchTimer := w, dest := none, anchored := false, motionSeen := false, abortTaken := false
    corrections := 0, downLeft := false, sub := if b.clampsHeld then .clamped else .idle }

theorem Bdu.clampsHeld_dropped (d : Dev) : d.commandsDropped.clampsHeld = d.bdu.clampsHeld := by
  unfold Dev.commandsDropped
  split <;> rfl

theorem Dev.dockOrderEnd_changes (d : Dev) :
    ∃ w : Timer, d.dockOrderEnd = { d with bdu := d.commandsDropped, dkc := d.dkc.ended d.bdu w } := by
  obtain ⟨w, hw⟩ := ({ d with dkc := { d.dkc with clampTimer := none, corrTimer := none } } : Dev).dropped_changes
  refine ⟨w, ?_⟩
  unfold Dev.dockOrderEnd
  simp only [hw]
  rw [show (if Bdu.clampsHeld _ = true then DockState.clamped else .idle)
    = if d.bdu.clampsHeld then .clamped else .idle from by rw [← Bdu.clampsHeld_dropped]; rfl]
  rfl

/-- The station's record at the end of an order (R152). -/
def Stc.ended (s : Stc) (ord : Order) (o : OrderOutcome) (k : Option FaultKind) : Stc :=
  { s with order := none, abortPending := false, heldReport := false, lastOrder := ⟨ord.id, some o, if o == .failed then k else none⟩ }

/-- The end of an order, block by block. -/
theorem Dev.endOrder_changes {ord : Order} (h : d.stc.order = some ord) (o : OrderOutcome) (k : Option FaultKind) :
    ∃ (c : Cle) (q : List TxEntry) (t : TxState) (fs : List FaultEntry) (cs : List (BitVec 16)) (w : Timer),
      d.endOrder o k = { d with
        odo := d.odo.offRoute, sup := { d.sup with vOrder := none }, cle := c, lif := { d.lif with queue := q, tx := t }
        faults := fs, counters := cs, bdu := d.commandsDropped, dkc := d.dkc.ended d.bdu w, stc := d.stc.ended ord o k }
      ∧ ∀ j, j ≠ .deadlock → kindIn fs j = d.faultActive j := by
  obtain ⟨q, t, cs, hsend⟩ := d.enqueue_line .orderReport ord.console (orderReportPayload .moveOrder ord.id (o.report k)) none
  have hreport : (d.orderReport ord.console .moveOrder ord.id (o.report k)).bump o.counter
      = { d with lif := { d.lif with queue := q, tx := t }, counters := (({ d with counters := cs } : Dev).bump o.counter).counters } := by
    rw [Dev.orderReport, Dev.send, hsend]
    rfl
  obtain ⟨c, q', t', fs, cs', hcle, hfs⟩ := (claimWork_apart _).claimsOrderEnd (Dev.claimsApart_refl
    { d with
      lif := { d.lif with queue := q, tx := t }
      counters := (({ d with counters := cs } : Dev).bump o.counter).counters
      odo := d.odo.offRoute, sup := { d.sup with vOrder := none } })
  obtain ⟨w, hdock⟩ := Dev.dockOrderEnd_changes _
  refine ⟨c, q', t', fs, cs', w, ?_, hfs⟩
  rw [Dev.endOrder, h]
  simp only [hreport, hcle]
  exact congrArg (fun e : Dev => { e with stc := e.stc.ended ord o k }) hdock

theorem Dev.endOrder_none (h : d.stc.order = none) (o : OrderOutcome) (k : Option FaultKind) : d.endOrder o k = d := by
  rw [Dev.endOrder, h]

theorem Dev.closesTo_endOrder (d : Dev) (o : OrderOutcome) (k : Option FaultKind) : d.closesTo (d.endOrder o k) := by
  cases h : d.stc.order with
  | none =>
    rw [Dev.endOrder_none h]
    exact d.closesTo_refl
  | some ord =>
    obtain ⟨c, q, t, fs, cs, w, heq, hfs⟩ := Dev.endOrder_changes h o k
    exact ⟨_, _, _, _, _, _, _, _, _, _, _, heq, .inr rfl, .inl rfl, hfs⟩

theorem Dev.endOrder_order (d : Dev) (o : OrderOutcome) (k : Option FaultKind) : (d.endOrder o k).stc.order = none := by
  cases h : d.stc.order with
  | none => rw [Dev.endOrder_none h, h]
  | some ord =>
    obtain ⟨c, q, t, fs, cs, w, heq, -⟩ := Dev.endOrder_changes h o k
    rw [heq]
    rfl

/-! ### After a failed order (R152, step 7) -/

theorem Dev.closesTo_stateAfterFailure (d : Dev) : d.closesTo d.stateAfterFailure := by
  unfold Dev.stateAfterFailure
  split
  · exact d.closesTo_enterHalted _
  · exact d.closesTo_enterHalted _
  · exact d.closesTo_enterHalted _
  · exact Dev.closesTo_blocks _ _ _ _
  · exact d.closesTo_enterState _
  · exact d.closesTo_leaveSafeStop
  all_goals exact d.closesTo_refl

/-- HALTED entered, at the station's record (R153). -/
theorem Dev.enterHalted_stc (d : Dev) (r : Remembered) :
    (d.enterHalted r).stc = { d.stc with state := .halted, remembered := some r, haltHold := true } := by
  rw [Dev.enterHalted, Dev.bump_stc, Dev.enterState_stc]
  rfl

theorem Dev.enterState_order (d : Dev) (s : StationState) : (d.enterState s).stc.order = d.stc.order := by
  rw [Dev.enterState_stc]
  rfl

theorem Dev.enterState_parkedPad (d : Dev) (s : StationState) : (d.enterState s).stc.parkedPad = d.stc.parkedPad := by
  rw [Dev.enterState_stc]
  rfl

theorem Dev.enterState_lastOrder (d : Dev) (s : StationState) : (d.enterState s).stc.lastOrder = d.stc.lastOrder := by
  rw [Dev.enterState_stc]
  rfl

/-- The order, the parked pad and the last order, which a state entered keeps. -/
def Stc.orders (s : Stc) : Option Order × Option Nat × LastOrder := (s.order, s.parkedPad, s.lastOrder)

theorem Dev.enterState_orders (d : Dev) (s : StationState) : (d.enterState s).stc.orders = d.stc.orders := by
  rw [Dev.enterState_stc]
  rfl

theorem Dev.leaveSafeStop_orders (d : Dev) : d.leaveSafeStop.stc.orders = d.stc.orders := by
  unfold Dev.leaveSafeStop
  split
  · exact Dev.enterState_orders _ _
  · rfl

theorem Dev.stateAfterFailure_orders (d : Dev) : d.stateAfterFailure.stc.orders = d.stc.orders := by
  unfold Dev.stateAfterFailure
  split
  · rw [Dev.enterHalted_stc]
    rfl
  · rw [Dev.enterHalted_stc]
    rfl
  · rw [Dev.enterHalted_stc]
    rfl
  · rfl
  · exact Dev.enterState_orders _ _
  · exact d.leaveSafeStop_orders
  all_goals rfl

theorem Dev.stateAfterFailure_halts (h : d.stc.state ∈ [.running, .approach, .docking]) : d.stateAfterFailure = d.enterHalted .rest := by
  simp only [List.mem_cons, List.not_mem_nil, or_false] at h
  obtain hs | hs | hs := h <;> simp only [Dev.stateAfterFailure, hs]

theorem Dev.closesTo_failOrder (d : Dev) (k : FaultKind) : d.closesTo (d.failOrder k) := by
  unfold Dev.failOrder
  split
  · exact Dev.closesTo_trans (d.closesTo_endOrder _ _) (Dev.closesTo_stateAfterFailure _)
  · exact d.closesTo_refl

theorem Dev.failOrder_of {ord : Order} (h : d.stc.order = some ord) (k : FaultKind) :
    d.failOrder k = (d.endOrder .failed (some k)).stateAfterFailure := by
  simp only [Dev.failOrder, h, Option.isSome_some, if_true]

theorem Dev.failOrder_order (d : Dev) (k : FaultKind) : (d.failOrder k).stc.order = none := by
  unfold Dev.failOrder
  split
  · exact (congrArg Prod.fst (Dev.stateAfterFailure_orders _)).trans (d.endOrder_order _ _)
  · next h => simpa using h

/-! ### A failed docking (R136) -/

/-- DKC and its commands once docking has failed, before the order ends (R136). -/
theorem Dev.failDocking_changes (d : Dev) (c : DockCause) (k : FaultKind) : ∃ (cs : List (BitVec 16)) (w : Timer),
    d.failDocking c k = Dev.failOrder { d with
      bdu := d.commandsDropped
      dkc := { d.dkc with clampTimer := none, corrTimer := none, watchTimer := w, last := .failed c, sub := .failed }
      counters := cs } k := by
  obtain ⟨w, hw⟩ := ({ d with dkc := { d.dkc with clampTimer := none, corrTimer := none } } : Dev).dropped_changes
  refine ⟨(d.bump c.counter).counters, w, ?_⟩
  unfold Dev.failDocking
  simp only [hw]
  rfl

theorem Dev.closesTo_failDocking (d : Dev) (c : DockCause) (k : FaultKind) : d.closesTo (d.failDocking c k) := by
  obtain ⟨cs, w, heq⟩ := d.failDocking_changes c k
  rw [heq]
  exact Dev.closesTo_trans (Dev.closesTo_blocks _ _ _ _) (Dev.closesTo_failOrder _ _)

/-! ### A raise of any class (R158, R180) -/

theorem Dev.closesTo_enterSafeStop (d : Dev) (k : FaultKind) : d.closesTo (d.enterSafeStop k) := by
  have hentered : d.closesTo (((({ d with stc := { d.stc with listenTimer := none, remembered := none, stopKind := some k } } : Dev).enterState
      .safeStop).bump .entriesSafeStop).claimsAbort) :=
    Dev.closesTo_trans (Dev.closesTo_trans (Dev.closesTo_blocks _ _ _ _) (Dev.closesTo_enterState _ _))
      (Dev.closesTo_trans (Dev.closesTo_blocks _ _ _ _)
        (Dev.claimsApart_closesTo ((claimWork_apart _).claimsAbort (Dev.claimsApart_refl _))))
  unfold Dev.enterSafeStop
  simp only
  split
  · exact hentered
  · split
    · exact Dev.closesTo_trans hentered (Dev.closesTo_endOrder _ _ _)
    · exact Dev.closesTo_trans hentered (Dev.closesTo_endOrder _ _ _)

theorem Dev.closesTo_takeHalt (d : Dev) : d.closesTo d.takeHalt := by
  unfold Dev.takeHalt
  split
  · exact d.closesTo_enterHalted _
  · exact d.closesTo_enterHalted _
  · exact d.closesTo_enterHalted _
  all_goals exact Dev.closesTo_blocks _ _ _ _

theorem Dev.closesTo_takeRaise (d : Dev) (k : FaultKind) : d.closesTo (d.takeRaise k) := by
  unfold Dev.takeRaise
  split
  · exact d.closesTo_refl
  · exact d.closesTo_takeHalt
  · split
    iterate 8 exact d.closesTo_enterSafeStop k
    all_goals exact d.closesTo_refl

theorem Dev.closesTo_active {e : Dev} (h : d.closesTo e) {j : FaultKind} (hj : j ≠ .deadlock) : e.faultActive j = d.faultActive j := by
  obtain ⟨o, x, b, k, s, c, q, t, y, fs, cs, rfl, -, -, hfs⟩ := h
  exact hfs j hj

theorem Dev.closesTo_pos {e : Dev} (h : d.closesTo e) : e.odo = d.odo ∨ e.odo = d.odo.offRoute := by
  obtain ⟨o, x, b, k, s, c, q, t, y, fs, cs, rfl, ho, -, -⟩ := h
  exact ho

theorem Dev.closesTo_known {e : Dev} (h : d.closesTo e) : e.odo.known = d.odo.known := by
  obtain ho | ho := Dev.closesTo_pos h <;> rw [ho]
  rfl

theorem Dev.closesTo_demand {e : Dev} (h : d.closesTo e) (hd : d.sup.demand = 0) : e.sup.demand = 0 := by
  obtain ⟨o, x, b, k, s, c, q, t, y, fs, cs, rfl, -, hx, -⟩ := h
  obtain hx | hx := hx
  · exact hx.trans hd
  · exact hx

theorem Dev.closesTo_peers {e : Dev} (h : d.closesTo e) : e.peers = d.peers := by
  obtain ⟨o, x, b, k, s, c, q, t, y, fs, cs, rfl, -⟩ := h
  rfl

/-- A raise of any class, at the fault set: its kind is active, and every other but DEADLOCK is as it was (R180). -/
theorem Dev.raised_active (d : Dev) (k : FaultKind) {j : FaultKind} (hj : j ≠ .deadlock) :
    (d.raise k).faultActive j = (k == j || d.faultActive j) := by
  rw [Dev.raise, Dev.closesTo_active (Dev.closesTo_takeRaise _ k) hj, Dev.enterFault_active]

/-- A raise of any class, at the odometer: the route index alone may be given up with an order that ends (R28, R158). -/
theorem Dev.raised_odo (d : Dev) (k : FaultKind) : (d.raise k).odo = d.odo ∨ (d.raise k).odo = d.odo.offRoute := by
  obtain ⟨fs, b, cs, heq, -⟩ := d.enterFault_changes k
  have := Dev.closesTo_pos (Dev.closesTo_takeRaise (d.enterFault k) k)
  rwa [show (d.enterFault k).odo = d.odo by rw [heq]] at this

theorem Dev.raised_known (d : Dev) (k : FaultKind) : (d.raise k).odo.known = d.odo.known := by
  obtain ho | ho := d.raised_odo k <;> rw [ho]
  rfl

/-! ### The position lost (R38) -/

theorem Odo.forget_offRoute (o : Odo) : o.forget.offRoute = o.forget := rfl

theorem Odo.offRoute_forget (o : Odo) : o.offRoute.forget = o.forget := rfl

theorem Dev.closesTo_superviseUnknown (d : Dev) : d.closesTo d.superviseUnknown :=
  ⟨_, _, _, _, _, _, _, _, _, _, _, rfl, .inl rfl, .inr rfl, fun _ _ => rfl⟩

theorem Dev.closesTo_dockUnknown (d : Dev) (k : FaultKind) : d.closesTo (d.dockUnknown k) := by
  unfold Dev.dockUnknown
  split
  iterate 4 exact d.closesTo_failDocking _ _
  all_goals exact d.closesTo_refl

theorem Dev.closesTo_stationUnknown (d : Dev) (k : FaultKind) : d.closesTo (d.stationUnknown k) := by
  have hfirst : d.closesTo { d with stc := { d.stc with parkedPad := none } } := Dev.closesTo_blocks _ _ _ _
  unfold Dev.stationUnknown
  simp only
  split
  · exact Dev.closesTo_trans hfirst (Dev.closesTo_failOrder _ _)
  · split
    iterate 2 exact Dev.closesTo_trans hfirst (Dev.closesTo_enterState _ _)
    all_goals exact hfirst

theorem Dev.failOrder_parkedPad (d : Dev) (k : FaultKind) : (d.failOrder k).stc.parkedPad = d.stc.parkedPad := by
  unfold Dev.failOrder
  split
  · refine (congrArg (fun x => x.2.1) (Dev.stateAfterFailure_orders _)).trans ?_
    cases h : d.stc.order with
    | none => rw [Dev.endOrder_none h]; rfl
    | some ord =>
      obtain ⟨c, q, t, fs, cs, w, heq, -⟩ := Dev.endOrder_changes h .failed (some k)
      rw [heq]
      rfl
  · rfl

theorem Dev.stationUnknown_none (d : Dev) (k : FaultKind) :
    (d.stationUnknown k).stc.order = none ∧ (d.stationUnknown k).stc.parkedPad = none := by
  unfold Dev.stationUnknown
  simp only
  split
  · exact ⟨Dev.failOrder_order _ _, (Dev.failOrder_parkedPad _ _)⟩
  · next h =>
    have hn : d.stc.order = none := by simpa using h
    split
    iterate 2 exact ⟨(Dev.enterState_order _ _).trans hn, Dev.enterState_parkedPad _ _⟩
    all_goals exact ⟨hn, rfl⟩

/-- What is left of a part that has lost its position: the record UNKNOWN, no order, no parked pad, no demand (R38). -/
structure Dev.Lost (d e : Dev) : Prop where
  odo : e.odo = d.odo.forget
  order : e.stc.order = none
  pad : e.stc.parkedPad = none
  demand : e.sup.demand = 0
  active : ∀ j, j ≠ .deadlock → e.faultActive j = d.faultActive j

theorem Dev.losePosition_lost (h : d.odo.known = true) (k : FaultKind) : d.Lost (d.losePosition k) := by
  have hclaims : ({ d with odo := d.odo.forget } : Dev).closesTo ({ d with odo := d.odo.forget } : Dev).claimsUnknown :=
    Dev.claimsApart_closesTo ((claimWork_apart _).dropClaims _ (Dev.claimsApart_refl _))
  have hsup := Dev.closesTo_superviseUnknown ({ d with odo := d.odo.forget } : Dev).claimsUnknown
  have hrest := Dev.closesTo_trans (Dev.closesTo_dockUnknown ({ d with odo := d.odo.forget } : Dev).claimsUnknown.superviseUnknown k)
    (Dev.closesTo_stationUnknown _ k)
  have hall := Dev.closesTo_trans (Dev.closesTo_trans hclaims hsup) hrest
  rw [Dev.losePosition, if_pos h]
  exact
    { odo := by obtain ho | ho := Dev.closesTo_pos hall <;> exact ho
      order := (Dev.stationUnknown_none _ k).1
      pad := (Dev.stationUnknown_none _ k).2
      demand := Dev.closesTo_demand hrest rfl
      active := fun j hj => Dev.closesTo_active hall hj }

/-- A loss with the kind that says why: the kind is active besides (R19, R25). -/
theorem Dev.loseWith_lost (h : d.odo.known = true) (k : FaultKind) : ∃ e : Dev, e.odo.forget = d.odo.forget ∧ e.Lost (d.loseWith k)
    ∧ ∀ j, j ≠ .deadlock → (d.loseWith k).faultActive j = (k == j || d.faultActive j) := by
  have hlost := Dev.losePosition_lost ((d.raised_known k).trans h) k
  refine ⟨d.raise k, ?_, hlost, fun j hj => (hlost.active j hj).trans (d.raised_active k hj)⟩
  obtain ho | ho := d.raised_odo k <;> rw [ho]
  rfl

end

end Sys2Proof.Machine

/-! SUPPORT. The pad reader's edges (R34) and what an edge under an order does (R130 to R132). -/

namespace Sys2Proof.Machine

/-! ### The pad reader -/

theorem codeOnes_eq (l : BitVec 7) : codeOnes l = ((List.finRange 7).map (fun i => (l.getLsb i).toNat)).sum := by
  have hsum (p : Nat → Bool) (n : Nat) : ((List.range n).filter p).length = ((List.range n).map (fun i => (p i).toNat)).sum := by
    induction n with
    | zero => rfl
    | succ n ih => cases h : p n <;> simp [List.range_succ, ih, h]
  rw [codeOnes, hsum, ← List.map_coe_finRange_eq_range, List.map_map]
  rfl

section
variable {d : Dev} {l : BitVec 7}

theorem exec_padEdge (s : State) (b : Bool) (l : BitVec 7) :
    exec (.padEdge b l) s = .next { s with dev := s.dev.padLinesChange b l } := rfl

/-- The levels kept of the pad reader (R34). -/
def Dev.padLevels (d : Dev) (b : Bool) (l : BitVec 7) : Dev :=
  { d with odo := { d.odo with padPresence := b, padLines := l } }

theorem Dev.padLinesChange_edge (h : d.odo.padPresence = false) : d.padLinesChange true l = (d.padLevels true l).padEdge l := by
  simp [Dev.padLinesChange, Dev.padLevels, h]

theorem Dev.padLinesChange_kept {b : Bool} (h : b = false ∨ d.odo.padPresence = true) : d.padLinesChange b l = d.padLevels b l := by
  obtain h | h := h <;> simp [Dev.padLinesChange, Dev.padLevels, h]

theorem Dev.padEdge_inactive (ha : d.odo.active = false) : d.padEdge l = d := by
  simp [Dev.padEdge, ha]

theorem Dev.padEdge_odd (ha : d.odo.active = true) (h : codeOnes l % 2 = 1) : d.padEdge l = d.raise .padCode := by
  simp [Dev.padEdge, ha, h]

theorem Dev.padEdge_even (ha : d.odo.active = true) (h : codeOnes l % 2 = 0) :
    d.padEdge l = ({ d with odo := { d.odo with padCode := l.toNat % 64 } } : Dev).dockEdge (l.toNat % 64)
      (if d.odo.known then some d.snapshot else none) := by
  simp [Dev.padEdge, padNumber, ha, h]

end

/-- Settles O14: the cases of `Dev.padLinesChange`, and of the parity at an edge. -/
theorem padEdgeReadsTheCode : Obligations.PadEdgeReadsTheCode := by
  intro s presence lines d ones kept
  rw [exec_padEdge]
  have hones : codeOnes lines = ones := codeOnes_eq lines
  refine ⟨fun h => ?_, fun ha hp hn hodd => ?_, fun ha hp hn heven ho => ?_⟩
  · by_cases hedge : presence = false ∨ d.odo.padPresence = true
    · rw [Dev.padLinesChange_kept hedge]
      rfl
    · simp only [not_or, Bool.not_eq_false, Bool.not_eq_true] at hedge
      obtain ⟨rfl, hn⟩ := hedge
      have ha : (d.padLevels true lines).odo.active = false := by simpa [Dev.padLevels, hn] using h
      rw [Dev.padLinesChange_edge hn, Dev.padEdge_inactive ha]
      rfl
  · subst hp
    obtain ⟨fs, b, cs, hraise, hin⟩ := (d.padLevels true lines).enterFault_changes .padCode
    rw [Dev.padLinesChange_edge hn, Dev.padEdge_odd (d := d.padLevels true lines) ha (hones ▸ hodd), Dev.raise_of_warn rfl, hraise]
    exact ⟨_, rfl, rfl, (hin .padCode).trans (by simp), rfl, rfl, rfl, rfl⟩
  · subst hp
    rw [Dev.padLinesChange_edge hn, Dev.padEdge_even (d := d.padLevels true lines) ha (hones ▸ heven)]
    simp [Dev.dockEdge, Dev.padLevels, kept, d, ho]

/-! ### The anchor at the pad (R35, R131) -/

section
variable {d : Dev}

/-- A point carried by nothing stays where it is. -/
theorem Dev.carry_zero (d : Dev) (p : Point) : d.carry p 0 = ⟨[stretchFrom p 0], p, .reached, 0⟩ := by
  have hoff : movedOffset p 0 = p.offset := by
    unfold movedOffset
    split <;> rfl
  simp [Dev.carry, walkFuel, walk, hoff]

theorem Dev.recompute_within {u : Nat} (hk : d.odo.known = true) (hu : d.uncertainty d.odo.pos.uAnchor (d.odo.pos.travelled + t)
    (d.odo.pos.disagreement + x) = u) (hcap : u < Config.uncertaintyCap) : d.recompute t x = d.withPos { d.odo.pos with unc := u } := by
  rw [Dev.recompute, if_pos hk]
  simp only [hu]
  rw [if_neg (Nat.not_le.mpr hcap), Nat.min_eq_right hcap.le]

theorem Dev.uncertainty_none (d : Dev) (u : Nat) : d.uncertainty u 0 0 = u := by
  simp [Dev.uncertainty, ceilDiv]

/-- An anchor at a point with no travel since: the record stands there with U_anchor as its U (R35). -/
theorem Dev.anchorAt_here (p : Point) {u : Nat} (hu : u < Config.uncertaintyCap) : d.anchorAt p 0 0 u
    = d.placeRecord { d.odo.pos.placed p with validity := .known, uAnchor := u, travelled := 0, disagreement := 0, unc := u } := by
  rw [Dev.anchorAt, Dev.carry_zero]
  simp only [bne_self_eq_false, Bool.false_eq_true, if_false]
  rw [Dev.recompute_within (u := u) rfl (Dev.uncertainty_none _ u) hu]
  rfl

theorem Dev.growth_eq (d : Dev) : d.growth
    = if d.odo.chA.failed = false ∧ d.odo.chB.failed = false then d.tmp.carriage.growth else 2 * d.tmp.carriage.growth := by
  simp [Dev.growth, Odo.bothHealthy]

theorem Odo.known_iff (o : Odo) : o.known = true ↔ o.pos.validity ≠ .unknown := by
  simp [Odo.known]

/-! ### What an edge with an order current does (R130) -/

/-- DKC heeds an edge: no abort is taken (R130). -/
structure Dev.Heeds (d : Dev) (o : Order) : Prop where
  order : d.stc.order = some o
  free : d.dkc.abortTaken = false

theorem Dev.dockEdge_accepts {o : Order} {n : Nat} {p : Point} (h : d.Heeds o) (hd : d.dkc.dest = some n)
    (hs : d.dkc.sub = .creep ∨ d.dkc.sub = .correct ∨ (d.dkc.sub = .idle ∧ d.stc.state = .running)) :
    d.dockEdge n (some p) = d.acceptEdge o p := by
  obtain hs | hs | ⟨hs, hr⟩ := hs
  · simp [Dev.dockEdge, h.order, h.free, hd, hs]
  · simp [Dev.dockEdge, h.order, h.free, hd, hs]
  · simp [Dev.dockEdge, h.order, h.free, hd, hs, hr]

theorem Dev.dockEdge_judges {o : Order} {n : Nat} {p : Point} (h : d.Heeds o) (hd : d.dkc.dest ≠ some n)
    (hs : d.dkc.sub = .creep ∨ d.dkc.sub = .stopping ∨ d.dkc.sub = .correct) :
    d.dockEdge n (some p) = d.otherEdge o n p := by
  have hd' : (d.dkc.dest == some n) = false := beq_false_of_ne hd
  obtain hs | hs | hs := hs <;> simp [Dev.dockEdge, h.order, h.free, hd', hs]

theorem Dev.dockEdge_unheeded {o : Order} {n : Nat} {p : Option Point} (ho : d.stc.order = some o)
    (h : p = none ∨ d.dkc.abortTaken = true) : d.dockEdge n p = d.bump .edgesPassed := by
  obtain rfl | h := h
  · simp [Dev.dockEdge]
  · cases p <;> simp [Dev.dockEdge, ho, h]

theorem Dev.dockEdge_passes {o : Order} {n : Nat} {p : Point} (h : d.Heeds o)
    (hd : (d.dkc.dest = some n ∧ ¬(d.dkc.sub = .creep ∨ d.dkc.sub = .correct ∨ (d.dkc.sub = .idle ∧ d.stc.state = .running)))
      ∨ (d.dkc.dest ≠ some n ∧ ¬(d.dkc.sub = .creep ∨ d.dkc.sub = .stopping ∨ d.dkc.sub = .correct))) :
    d.dockEdge n (some p) = d.bump .edgesPassed := by
  obtain ⟨hd, hs⟩ | ⟨hd, hs⟩ := hd
  · cases hsub : d.dkc.sub <;> simp [hsub] at hs <;> simp [Dev.dockEdge, h.order, h.free, hd, hsub, hs]
  · have hd' : (d.dkc.dest == some n) = false := beq_false_of_ne hd
    cases hsub : d.dkc.sub <;> simp [hsub] at hs <;> simp [Dev.dockEdge, h.order, h.free, hd', hsub]

/-- DKC once it has taken the anchor (R131). -/
def Dev.anchorTaken (d : Dev) : Dev :=
  { d with dkc := { d.dkc with anchored := true, sub := if d.dkc.sub == DockState.creep then DockState.stopping else d.dkc.sub } }

theorem Dev.acceptEdge_granted {o : Order} {p : Point} {d' : Dev} (h : d.anchorTaken.anchorPad o = some d') :
    d.acceptEdge o p = if d.uncNow < (o.route.coord d.tmp.sections p - o.route.padCoord).natAbs
      then (d'.bump .anchorsAccepted).bump .anchorsOutside else d'.bump .anchorsAccepted := by
  unfold Dev.acceptEdge
  simp only [decide_eq_true_eq]
  split
  · next e heq =>
    obtain rfl : e = d' := Option.some.inj (heq.symm.trans h)
    rfl
  · next heq => exact absurd (heq.symm.trans h) (by simp)

theorem Dev.acceptEdge_refused {o : Order} {p : Point} (h : d.odo.pos.pendingLoss = true) :
    d.acceptEdge o p = d.bump .anchorsRefused := by
  have hnone : d.anchorTaken.anchorPad o = none := by
    unfold Dev.anchorPad Dev.anchorTaken
    simp only [h, Bool.true_or, if_true]
    split <;> rfl
  unfold Dev.acceptEdge
  simp only
  split
  · next heq => exact absurd (hnone.symm.trans heq) (by simp)
  · rfl

/-- The record at a pad of the map, on the route's entry for it (R35). -/
def Dev.padRecord (d : Dev) (o : Order) (p : PadRec) (e : RouteEntry) : PositionRec :=
  { d.odo.pos with
    validity := .known, sec := p.sec, leg := p.leg, offset := p.offset * 1000, dir := if d.withRoute then e.dir else e.dir.flip
    idx := some o.route.padIdx, uAnchor := d.tmp.carriage.padTol * 1000, travelled := 0, disagreement := 0
    unc := d.tmp.carriage.padTol * 1000 }

/-- An anchor that ODO grants at the pad (R35). -/
theorem Dev.anchorPad_granted {o : Order} {p : PadRec} {e : RouteEntry} (hk : d.odo.known = true) (hl : d.odo.pos.pendingLoss = false)
    (hp : findPad d.tmp.pads o.pad = some p) (he : o.route.entries[o.route.padIdx - 1]? = some e)
    (hcap : d.tmp.carriage.padTol * 1000 < 10000000) :
    d.anchorPad o = some ((d.placeRecord (d.padRecord o p e)).findDue.claimsAnchored) := by
  unfold Dev.anchorPad
  rw [hp, he]
  simp only [hl, hk, Bool.not_true, Bool.or_self, Bool.false_eq_true, if_false, Option.some.injEq]
  rw [Dev.anchorAt_here _ hcap]
  rfl

theorem Dev.passingPad_iff {o : Order} {n : Nat} {q : Point} : d.passingPad o n q = true ↔
    ∃ p, findPad d.tmp.pads n = some p ∧ ∃ en ∈ o.route.entries, en.sec = p.sec ∧ en.leg = p.leg
      ∧ (en.coord d.tmp.sections (p.offset * 1000) - o.route.coord d.tmp.sections q).natAbs
        ≤ d.uncNow + d.tmp.carriage.padTol * 1000 := by
  simp only [Dev.passingPad, Option.any_eq_true, List.any_eq_true, Bool.and_eq_true, beq_iff_eq, decide_eq_true_eq, and_assoc]

/-! ### A failed order and a failed docking, as they leave the station (R136, R152) -/

/-- The clamp commands and DKC's record but for its correction watch, which a state entered keeps. -/
def Dev.dockShown (d : Dev) : Bool × Bool × Dkc := (d.bdu.clampDown, d.bdu.clampUp, { d.dkc with corrTimer := none })

theorem Dev.setLatch_dockShown (d : Dev) (l : Latch) : (d.setLatch l).dockShown = d.dockShown := by
  unfold Dev.setLatch Dev.stopTrain
  simp only
  split
  · rfl
  · split <;> cases l <;> rfl

theorem Dev.entering_dockShown (d : Dev) (s : StationState) : (d.entering s).dockShown = d.dockShown := by
  unfold Dev.entering Dev.dockShown
  simp only
  split <;> rfl

theorem Dev.enterState_dockShown (d : Dev) (s : StationState) : (d.enterState s).dockShown = d.dockShown :=
  Dev.enterState_keeps (P := fun e => e.dockShown = d.dockShown) (fun _ h => h) (fun _ h => h)
    (fun _ h => (Dev.setLatch_dockShown _ _).trans h) (d.entering_dockShown s)

theorem Dev.leaveSafeStop_dockShown (d : Dev) : d.leaveSafeStop.dockShown = d.dockShown := by
  unfold Dev.leaveSafeStop
  split
  · exact Dev.enterState_dockShown _ _
  · rfl

theorem Dev.stateAfterFailure_dockShown (d : Dev) : d.stateAfterFailure.dockShown = d.dockShown := by
  unfold Dev.stateAfterFailure
  split
  iterate 3 exact Dev.enterState_dockShown _ _
  · rfl
  · exact Dev.enterState_dockShown _ _
  · exact d.leaveSafeStop_dockShown
  all_goals rfl

theorem Dev.stateAfterFailure_halted (h : d.stc.state ∈ [.running, .approach, .docking, .halted]) :
    d.stateAfterFailure.stc.state = .halted ∧ d.stateAfterFailure.stc.remembered = some .rest := by
  simp only [List.mem_cons, List.not_mem_nil, or_false] at h
  obtain hs | hs | hs | hs := h <;> simp only [Dev.stateAfterFailure, hs, Dev.enterHalted_stc, and_self]

/-- An order FAILED with a kind: none is current, and the station is halted where it was under way (R152). -/
structure Dev.FailedWith (d e : Dev) (o : Order) (k : FaultKind) : Prop where
  order : e.stc.order = none
  last : e.stc.lastOrder = ⟨o.id, some .failed, some k⟩
  result : e.dkc.last = d.dkc.last
  down : e.bdu.clampDown = false
  up : e.bdu.clampUp = false
  timers : e.dkc.clampTimer = none
  halted : d.stc.state ∈ [.running, .approach, .docking, .halted] → e.stc.state = .halted ∧ e.stc.remembered = some .rest

theorem Dev.failOrder_fails {o : Order} (ho : d.stc.order = some o) (k : FaultKind) : d.FailedWith (d.failOrder k) o k := by
  obtain ⟨c, q, t, fs, cs, w, hend, -⟩ := Dev.endOrder_changes ho .failed (some k)
  rw [Dev.failOrder_of ho]
  have hstc : (d.endOrder .failed (some k)).stc = d.stc.ended o .failed (some k) := by rw [hend]
  have hshown := (d.endOrder .failed (some k)).stateAfterFailure_dockShown
  have horders := (d.endOrder .failed (some k)).stateAfterFailure_orders
  rw [show (d.endOrder .failed (some k)).dockShown
    = (false, false, { d.dkc.ended d.bdu w with corrTimer := none }) by
      rw [hend]
      simp only [Dev.dockShown, d.commandsDropped_clamps.1, d.commandsDropped_clamps.2]] at hshown
  simp only [Dev.dockShown, Prod.mk.injEq] at hshown
  obtain ⟨hdown, hup, hdkc⟩ := hshown
  rw [hstc] at horders
  simp only [Stc.orders, Prod.mk.injEq] at horders
  obtain ⟨horder, -, hlast⟩ := horders
  exact
    { order := horder
      last := hlast
      result := (congrArg Dkc.last hdkc :)
      down := hdown
      up := hup
      timers := (congrArg Dkc.clampTimer hdkc :)
      halted := fun hs => by
        exact Dev.stateAfterFailure_halted (by rw [hstc]; exact hs) }

/-- A failed docking, with its cause as the last result besides (R136). -/
theorem Dev.failDocking_fails {o : Order} (ho : d.stc.order = some o) (c : DockCause) (k : FaultKind) :
    ∃ x : Dev, x.FailedWith (d.failDocking c k) o k ∧ x.dkc.last = .failed c ∧ x.stc = d.stc := by
  obtain ⟨cs, w, hfail⟩ := d.failDocking_changes c k
  rw [hfail]
  exact ⟨_, Dev.failOrder_fails (d := { d with
    bdu := d.commandsDropped
    dkc := { d.dkc with clampTimer := none, corrTimer := none, watchTimer := w, last := .failed c, sub := .failed }
    counters := cs }) ho k, rfl, rfl⟩

/-! ### A HALT-class raise at the station (R153, R186) -/

theorem Dev.takeHalt_orders (d : Dev) : d.takeHalt.stc.orders = d.stc.orders := by
  unfold Dev.takeHalt
  split
  iterate 3 rw [Dev.enterHalted_stc]; rfl
  all_goals rfl

theorem Dev.takeHalt_halted (h : d.stc.state ∈ [.running, .approach, .docking, .halted]) : d.takeHalt.stc.state = .halted := by
  simp only [List.mem_cons, List.not_mem_nil, or_false] at h
  obtain hs | hs | hs | hs := h <;> simp only [Dev.takeHalt, hs, Dev.enterHalted_stc]

theorem Dev.enterFault_stc (d : Dev) (k : FaultKind) : (d.enterFault k).stc = d.stc := by
  obtain ⟨fs, b, cs, heq, -⟩ := d.enterFault_changes k
  rw [heq]

theorem Dev.raise_orders_of_halt {k : FaultKind} (hk : k.cls = .halt) (d : Dev) : (d.raise k).stc.orders = d.stc.orders := by
  rw [Dev.raise_of_halt hk, Dev.takeHalt_orders, Dev.enterFault_stc]

theorem Dev.raise_halted {k : FaultKind} (hk : k.cls = .halt) (h : d.stc.state ∈ [.running, .approach, .docking, .halted]) :
    (d.raise k).stc.state = .halted := by
  rw [Dev.raise_of_halt hk, Dev.takeHalt_halted (by rwa [Dev.enterFault_stc])]

end

/-- Settles O15: the cases of `Dev.dockEdge`, with the anchor that ODO grants and the docking that a wrong pad ends. -/
theorem padEdgeAnchorsOrFails : Obligations.PadEdgeAnchorsOrFails := by
  intro s lines o d c ones ha hn heven ho code kept now growth u snap heeds dest takes judges does passing
  have hstep : does (kept.dockEdge code (if d.odo.known then some d.snapshot else none)) := by
    show exec (.padEdge true lines) s = _
    rw [exec_padEdge, Dev.padLinesChange_edge hn, Dev.padEdge_even (d := d.padLevels true lines) ha (codeOnes_eq lines ▸ heven)]
    rfl
  have hunc : kept.uncNow = u := by
    simp only [Dev.uncNow, Dev.uncertainty, Dev.growth_eq, ceilDiv]
    rfl
  have hknown (h : heeds) : d.odo.known = true := (Odo.known_iff _).mpr h.2
  have hheeds (h : heeds) : kept.Heeds o := ⟨ho, h.1⟩
  have hedge (h : heeds) : does (kept.dockEdge code (some d.snapshot)) := by
    simpa only [hknown h, if_true] using hstep
  refine ⟨?_, fun h hd ht hl => ?_, fun h hd hj hpass => ?_, fun h hd hj hpass => ?_, fun h => ?_⟩
  · intro h hd ht hl p en hp hen hcap record
    have hgranted := Dev.anchorPad_granted (d := kept.anchorTaken) (hknown h) hl hp hen hcap
    have haccept := Dev.acceptEdge_granted (p := d.snapshot) hgranted
    have hstep' := hedge h
    rw [Dev.dockEdge_accepts (hheeds h) hd ht, haccept, hunc] at hstep'
    have hanchored : (kept.anchorTaken.placeRecord (kept.anchorTaken.padRecord o p en)).findDue = { kept with
        odo := { kept.odo with pos := record, nextDue := (kept.anchorTaken.placeRecord record).findDue.odo.nextDue }
        dkc := { d.dkc with anchored := true, sub := if d.dkc.sub = .creep then .stopping else d.dkc.sub }
        bdu := { d.bdu with dirLine := record.dir } } := by
      simp only [Dev.anchorTaken, beq_iff_eq]
      rfl
    rw [hanchored] at hstep'
    exact ⟨_, hstep'⟩
  · have hstep' := hedge h
    rwa [Dev.dockEdge_accepts (hheeds h) hd ht, Dev.acceptEdge_refused (d := kept) hl] at hstep'
  · have hstep' := hedge h
    rw [Dev.dockEdge_judges (hheeds h) hd hj, Dev.otherEdge, if_pos] at hstep'
    · exact hstep'
    · rw [Dev.passingPad_iff, hunc]
      exact hpass
  · have hstep' := hedge h
    rw [Dev.dockEdge_judges (hheeds h) hd hj, Dev.otherEdge, if_neg (by rw [Dev.passingPad_iff, hunc]; exact hpass)] at hstep'
    have horder : ((kept.bump .wrongPads).raise .wrongPad).stc.order = some o :=
      (congrArg Prod.fst (Dev.raise_orders_of_halt (k := .wrongPad) rfl _)).trans ho
    obtain ⟨x, hfail, hlast, hstc⟩ := Dev.failDocking_fails horder .wrongPad .wrongPad
    have hcloses := Dev.closesTo_failDocking ((kept.bump .wrongPads).raise .wrongPad) .wrongPad .wrongPad
    refine ⟨_, hstep', ?_, hfail.order, hfail.last, hfail.result.trans hlast, hfail.down, hfail.up, ?_, fun hs => hfail.halted ?_⟩
    · rw [Dev.closesTo_active hcloses (by decide), Dev.raise_active (k := .wrongPad) (by decide)]
      rfl
    · rw [Dev.closesTo_peers hcloses]
      obtain ⟨fs, b, y, z, l, cs, heq, -⟩ := (kept.bump .wrongPads).raise_changes (k := .wrongPad) (by decide)
      rw [heq]
      rfl
    · rw [hstc, Dev.raise_halted (k := .wrongPad) rfl]
      · decide
      · exact List.mem_of_mem_take (l := [StationState.running, .approach, .docking, .halted]) (i := 3) hs
  · by_cases hh : heeds
    · have hstep' := hedge hh
      rwa [Dev.dockEdge_passes (hheeds hh) (h.resolve_left (not_not_intro hh))] at hstep'
    · rw [Dev.dockEdge_unheeded (d := kept) ho] at hstep
      · exact hstep
      · by_cases hk : d.odo.known = true
        · exact .inr (by simpa using fun ha => hh ⟨ha, (Odo.known_iff _).mp hk⟩)
        · exact .inl (if_neg hk)

end Sys2Proof.Machine

/-! SUPPORT. The tachometer channels (R18, R19): what a change of the accepted levels is, and what an error brings about. -/

namespace Sys2Proof.Machine

/-- A change of one phase alone is motion, and counts up as the phase that leads has it (R18). -/
theorem quadStep_one_phase {p q p' q' : Bool} (h : (p' = p) ≠ (q' = q)) :
    (quadStep p q p' q' = 1 ∧ (p' != q) = true) ∨ (quadStep p q p' q' = 3 ∧ (p' != q) = false) := by
  revert p q p' q'
  decide

theorem quadStep_both_phases (p q : Bool) : quadStep p q (!p) (!q) = 2 := by
  revert p q
  decide

theorem errorsFail_iff {l : List Nat} : errorsFail l = true ↔ l.length = 8 ∧ l.getLastD 0 - l.headD 0 ≤ 1000 := by
  simp [errorsFail]

section
variable {d : Dev} {ch : Channel} {p q : Bool}

theorem exec_tachTransition (s : State) (ch : Channel) (p q : Bool) :
    exec (.tachTransition ch p q) s = .next { s with dev := s.dev.tach ch p q } := rfl

theorem Dev.tach_inactive (ha : d.odo.active = false) :
    d.tach ch p q = { d with odo := d.odo.withChannel ch { d.odo.channel ch with p := p, q := q } } := by
  simp [Dev.tach, ha]

theorem Dev.tach_counts (ha : d.odo.active = true)
    (h : (p = (d.odo.channel ch).p) ≠ (q = (d.odo.channel ch).q)) :
    d.tach ch p q = { d with odo := d.odo.withChannel ch { d.odo.channel ch with
      p := p, q := q, seen := true
      net := (d.odo.channel ch).net + if (p != (d.odo.channel ch).q) == d.odo.pUp then 1 else -1 } } := by
  unfold Dev.tach
  simp only [ha, Bool.not_true, Bool.false_eq_true, if_false]
  obtain ⟨hq, hup⟩ | ⟨hq, hup⟩ := quadStep_one_phase h
  · simp [hq, hup, countOf]
  · simp [hq, hup, countOf]

/-- A channel after a quadrature error (R19). -/
def Dev.erred (d : Dev) (ch : Channel) (failed : Bool) : Dev :=
  { d with odo := d.odo.withChannel ch { d.odo.channel ch with
    p := !(d.odo.channel ch).p, q := !(d.odo.channel ch).q, seen := true
    errTimes := appendTime (d.odo.channel ch).errTimes d.nowMs, failed := failed } }

theorem Dev.tach_errs (ha : d.odo.active = true) {fails : Bool}
    (hf : (!(d.odo.channel ch).failed && errorsFail (appendTime (d.odo.channel ch).errTimes d.nowMs)) = fails) :
    d.tach ch (!(d.odo.channel ch).p) (!(d.odo.channel ch).q) =
      let e := (d.erred ch ((d.odo.channel ch).failed || fails)).bump (channelErrors ch)
      if fails then
        if (d.odo.channel (otherChannel ch)).failed then (e.raise .tachChannel).loseWith .tachBoth else e.raise .tachChannel
      else e := by
  unfold Dev.tach
  simp only [ha, Bool.not_true, Bool.false_eq_true, if_false, quadStep_both_phases, hf]
  rfl

theorem Odo.withChannel_pos (o : Odo) (ch : Channel) (c : TachChannel) : (o.withChannel ch c).pos = o.pos := by
  cases ch <;> rfl

end

/-- Settles O7: a change of one phase counts, and one of both is an error, the eighth within the time failing the channel. -/
theorem tachTransitionsAreCounted : Obligations.TachTransitionsAreCounted := by
  refine ⟨fun s ch p q => ?_, fun s ch => ?_⟩
  · intro d c hphase up counted
    rw [exec_tachTransition]
    exact ⟨fun ha => by rw [Dev.tach_counts ha hphase], fun ha => by rw [Dev.tach_inactive ha]⟩
  · intro d c ha times full total erred
    rw [exec_tachTransition]
    have hfull : errorsFail (appendTime c.errTimes d.nowMs) = true ↔ full := errorsFail_iff
    have htotal : channelErrors ch = total := by cases ch <;> rfl
    refine ⟨fun h => ?_, fun hfl hok hother => ?_, fun hfl hok hother hpos => ?_⟩
    · have hf : (!c.failed && errorsFail (appendTime c.errTimes d.nowMs)) = false := by
        rw [← hfull] at h
        cases hc : c.failed <;> simp_all
      rw [Dev.tach_errs ha hf]
      simp only [Bool.or_false, htotal]
      rfl
    all_goals
      have hf : (!c.failed && errorsFail (appendTime c.errTimes d.nowMs)) = true := by simp [hok, hfull.mpr hfl]
    · rw [Dev.tach_errs ha hf]
      simp only [Bool.or_true, hother, Bool.false_eq_true, if_true, if_false]
      obtain ⟨fs, b, cs, hraise, hin⟩ := ((d.erred ch true).bump (channelErrors ch)).enterFault_changes .tachChannel
      rw [Dev.raise_of_warn rfl, hraise]
      exact ⟨_, rfl, rfl, (hin .tachChannel).trans (by simp), rfl, rfl, rfl, rfl⟩
    · rw [Dev.tach_errs ha hf]
      simp only [Bool.or_true, hother, if_true]
      obtain ⟨fs, b, cs, hraise, hin⟩ := ((d.erred ch true).bump (channelErrors ch)).enterFault_changes .tachChannel
      rw [Dev.raise_of_warn rfl]
      have hpeers := (inner_still _).loseWith .tachBoth (d := ((d.erred ch true).bump (channelErrors ch)).enterFault .tachChannel) rfl
      have hk : (((d.erred ch true).bump (channelErrors ch)).enterFault .tachChannel).odo.known = true := by
        rw [hraise]
        exact (Odo.known_iff _).mpr ((Odo.withChannel_pos ..).symm ▸ hpos)
      obtain ⟨x, hx, hlost, hact⟩ := Dev.loseWith_lost hk .tachBoth
      refine ⟨_, rfl, ?_, ?_, ?_, hlost.order, hlost.pad, hlost.demand, ?_⟩
      · rw [hlost.odo, hx, hraise]
        cases ch <;> rfl
      · rw [hact _ (by decide), Dev.enterFault_active]
        rfl
      · rw [hact _ (by decide)]
        rfl
      · exact (congrArg Dev.peers hpeers :).trans (by rw [hraise]; rfl)

end Sys2Proof.Machine

/-! SUPPORT. What the footprint check, the clashes and the sample's claims keep: a relation that outlives the Claim Engine's own work,
every raise and a loss of the position (R62 to R78). -/

namespace Sys2Proof.Machine

/-- `P` outlives what the Claim Engine does by itself, a raise of any kind, a loss of the position and the held report's flag. -/
structure SafeWork (P : Dev → Prop) : Prop extends ClaimWork P where
  raise : ∀ {d : Dev} (k : FaultKind), P d → P (d.raise k)
  losePosition : ∀ {d : Dev} (k : FaultKind), P d → P (d.losePosition k)
  heldReport : ∀ {d : Dev} (b : Bool), P d → P { d with stc := { d.stc with heldReport := b } }

namespace SafeWork

variable {P : Dev → Prop}

theorem loseWith (h : SafeWork P) {d : Dev} (k : FaultKind) (hd : P d) : P (d.loseWith k) := h.losePosition k (h.raise k hd)

theorem announceTaken (h : SafeWork P) {d : Dev} (n : Nat) (t : Ticket) (hd : P d) : P (d.announceTaken n t) := h.send _ _ _ hd

theorem sendHeldReport (h : SafeWork P) {d : Dev} (o : Order) (hd : P d) : P (d.sendHeldReport o) :=
  h.send _ _ _ (h.heldReport false hd)

theorem judgeHeldReport (h : SafeWork P) {d : Dev} (b : Bool) (hd : P d) : P (d.judgeHeldReport b) := by
  unfold Dev.judgeHeldReport
  split
  · refine ite_keeps (fun _ => ?_) (fun _ => hd)
    split
    · exact ite_keeps (fun _ => h.sendHeldReport _ hd) (fun _ => hd)
    · exact ite_keeps (fun _ => h.sendHeldReport _ hd) (fun _ => hd)
  · exact hd

theorem afterHeld (h : SafeWork P) {d : Dev} (n : Nat) (hd : P d) : P (d.afterHeld n) := by
  unfold Dev.afterHeld
  split
  · exact ite_keeps (fun _ => ite_keeps (fun _ => h.requestPoints _ _ hd) (fun _ => hd))
      (fun _ => ite_keeps (fun _ => h.judgeHeldReport _ hd) (fun _ => hd))
  · exact hd

/-! ### Room and the footprint check (R59, R62) -/

theorem removeClaim (h : SafeWork P) {d : Dev} (c : Claim) (hd : P d) : P (d.removeClaim c) :=
  h.tidyDeadlock (h.cle _ (h.abandon c hd))

theorem makeRoom (h : SafeWork P) {d d' : Dev} {l : List Nat} (hr : d.makeRoom = some (d', l)) (hd : P d) : P d' := by
  unfold Dev.makeRoom at hr
  split at hr
  · cases hr
    exact h.removeClaim _ hd
  · split at hr
    · cases hr
      exact h.removeClaim _ hd
    · split at hr
      · cases hr
        exact ite_keeps (fun _ => h.raise _ (h.removeClaim _ hd)) (fun _ => h.removeClaim _ hd)
      · split at hr
        · cases hr
          exact h.removeClaim _ hd
        · cases hr

theorem occupy (h : SafeWork P) {d : Dev} (n : Nat) (hd : P d) : P (d.occupy n) := by
  unfold Dev.occupy
  split
  · exact hd
  · next c _ =>
    have hmark : P ((d.abandon c).updateClaim n
        (fun e => { e with state := .held .occupancy { d.currentTicket with occupancy := true } })).tidyDeadlock :=
      h.tidyDeadlock (h.updateClaim _ _ (h.abandon c hd))
    refine h.afterHeld _ (h.announceTaken _ _ ?_)
    split
    · exact h.raise _ hmark
    · exact h.raise _ hmark
    · exact hmark
    · exact hmark

theorem joinOccupied (h : SafeWork P) {d : Dev} (x : Covered) (hd : P d) : P (d.joinOccupied x) := h.occupy _ (h.cle _ hd)

theorem checkCovered (h : SafeWork P) {d : Dev} (x : Covered) (hd : P d) : P (d.checkCovered x) := by
  unfold Dev.checkCovered
  refine ite_keeps (fun _ => hd) (fun _ => ?_)
  split
  · exact ite_keeps (fun _ => hd) (fun _ => h.occupy _ hd)
  · refine ite_keeps (fun _ => h.joinOccupied _ hd) (fun _ => ?_)
    split
    · next hr => exact h.announceRelease _ (h.joinOccupied _ (h.makeRoom hr hd))
    · exact h.loseWith _ hd

theorem footprintCheck (h : SafeWork P) {d : Dev} (hd : P d) : P d.footprintCheck :=
  ite_keeps (fun _ => h.refront _ (foldl_keeps (fun _ x hx => h.checkCovered x hx) _ _ (h.cle _ hd))) (fun _ => hd)

theorem claimsAnchored (h : SafeWork P) {d : Dev} (hd : P d) : P d.claimsAnchored := h.event (fun _ hx => h.footprintCheck hx) hd

theorem claimsLocated (h : SafeWork P) {d : Dev} (hd : P d) : P d.claimsLocated :=
  h.event (fun _ hx => ite_keeps (fun _ => h.cle _ (h.releaseClaims _ (h.footprintCheck hx))) (fun _ => h.footprintCheck hx)) hd

/-! ### Horizon and release behind (R65, R78) -/

theorem horizonFrom (h : SafeWork P) (v : RouteView) : ∀ (l : List RouteEntry) (k : Nat) {d : Dev}, P d → P (d.horizonFrom v k l)
  | [], _, _, hd => hd
  | _ :: rest, k, _, hd => ite_keeps (fun _ => h.horizonFrom v rest (k + 1) (h.cle _ hd)) (fun _ => hd)

theorem horizonWalk (h : SafeWork P) {d : Dev} (hd : P d) : P d.horizonWalk := by
  unfold Dev.horizonWalk
  split
  · exact ite_keeps (fun _ => hd) (fun _ => h.refront _ (h.horizonFrom _ _ _ hd))
  · exact hd

theorem retryWanted (h : SafeWork P) {d : Dev} (n : Option Nat) (hd : P d) : P (d.retryWanted n) := by
  unfold Dev.retryWanted
  split
  · exact ite_keeps (fun _ => h.examineFront hd) (fun _ => hd)
  · exact hd

theorem claimsSample (h : SafeWork P) {d : Dev} (n : Option Nat) (hd : P d) : P (d.claimsSample n) :=
  h.event (fun _ hx => ite_keeps
    (fun _ => ite_keeps (fun _ => h.releaseClaims _ (h.retryWanted n (h.horizonWalk (h.footprintCheck hx))))
      (fun _ => h.retryWanted n (h.horizonWalk (h.footprintCheck hx)))) (fun _ => hx)) hd

/-! ### Clashes (R73 to R75) -/

theorem clashYield (h : SafeWork P) {d : Dev} (c : Claim) (hd : P d) : P (d.clashYield c) := by
  have hyield : P (match c.idx with
      | none => (d.bump .clashYields).releaseClaims (fun e => e.sec == c.sec)
      | some k => ((d.bump .clashYields).surrenderFrom k).examineFront) := by
    split
    · exact h.releaseClaims _ (h.bump _ hd)
    · exact h.examineFront (h.surrenderFrom _ (h.bump _ hd))
  exact ite_keeps (fun _ => h.raise _ hyield) (fun _ => hyield)

theorem clash (h : SafeWork P) {d : Dev} (c : Claim) (p : Nat) (hd : P d) : P (d.clash c p) := by
  unfold Dev.clash
  split
  · have hfound := h.bump .clashesFound hd
    exact ite_keeps (fun _ => hd) fun _ => ite_keeps (fun _ => h.announceTaken _ _ (h.raise _ hfound)) fun _ =>
      ite_keeps (fun _ => h.announceTaken _ _ hfound) fun _ => ite_keeps (fun _ => h.clashYield _ hfound) fun _ =>
      ite_keeps (fun _ => h.announceTaken _ _ hfound) fun _ => h.clashYield _ hfound
  · exact hd

end SafeWork

/-! ### The odometer's own items and the faults (R20 to R33) -/

/-- What outlives the Claim Engine's work, a loss and a detection: of ODO all but the record, the marker due, the window and the counts of
singles and of missed markers, and every active fault but DEADLOCK. -/
def Dev.survives (d e : Dev) : Prop :=
  (∃ (p : PositionRec) (n : Option MarkerDue) (w : Option PairWindow) (u m : Nat) (r : ReaderSide),
    e.odo = { d.odo with pos := p, nextDue := n, window := w, unpaired := u, missedRun := m, missingSide := r })
    ∧ ∀ j, j ≠ .deadlock → d.faultActive j = true → e.faultActive j = true

theorem Dev.survives_refl (d : Dev) : d.survives d := ⟨⟨_, _, _, _, _, _, rfl⟩, fun _ _ h => h⟩

theorem Dev.survives_trans {d e f : Dev} (h : d.survives e) (h' : e.survives f) : d.survives f := by
  obtain ⟨⟨p, n, w, u, m, r, ho⟩, hf⟩ := h
  obtain ⟨⟨p', n', w', u', m', r', ho'⟩, hf'⟩ := h'
  exact ⟨⟨p', n', w', u', m', r', by rw [ho', ho]⟩, fun j hj ha => hf' j hj (hf j hj ha)⟩

theorem Dev.closesTo_survives {d e : Dev} (h : d.closesTo e) : d.survives e := by
  refine ⟨?_, fun j hj ha => (Dev.closesTo_active h hj).trans ha⟩
  obtain ho | ho := Dev.closesTo_pos h
  · exact ⟨_, _, _, _, _, _, ho⟩
  · exact ⟨_, _, _, _, _, _, ho⟩

theorem Dev.survives_raise (d : Dev) (k : FaultKind) : d.survives (d.raise k) := by
  refine ⟨?_, fun j hj ha => by rw [d.raised_active k hj, ha, Bool.or_true]⟩
  obtain ho | ho := d.raised_odo k
  · exact ⟨_, _, _, _, _, _, ho⟩
  · exact ⟨_, _, _, _, _, _, ho⟩

theorem Dev.survives_losePosition (d : Dev) (k : FaultKind) : d.survives (d.losePosition k) := by
  by_cases h : d.odo.known = true
  · have hlost := Dev.losePosition_lost h k
    exact ⟨⟨_, _, _, _, _, _, hlost.odo⟩, fun j hj ha => (hlost.active j hj).trans ha⟩
  · rw [Dev.losePosition, if_neg h]
    exact d.survives_refl

theorem safeWork_survives (d : Dev) : SafeWork d.survives where
  counters _ h := h
  enqueue k dst b t h := by
    obtain ⟨q, y, cs, heq⟩ := Dev.enqueue_line _ k dst b t
    rw [heq]
    exact h
  withdraw tag h := by
    obtain ⟨q, y, heq⟩ := Dev.withdraw_line _ tag
    rw [heq]
    exact h
  cle _ h := h
  deadlock l hl h := ⟨h.1, fun j hj ha => (hl j hj).trans (h.2 j hj ha)⟩
  raise k h := Dev.survives_trans h (Dev.survives_raise _ k)
  losePosition k h := Dev.survives_trans h (Dev.survives_losePosition _ k)
  heldReport _ h := h

end Sys2Proof.Machine

/-! SUPPORT. The odometry sample in its stages (R20 to R23, R25 to R27, R33): what each stage makes of the odometer's items. -/

namespace Sys2Proof.Machine

/-! ### A carry within one section (R12, R26) -/

theorem Direction.flip_flip (d : Direction) : d.flip.flip = d := by cases d <;> rfl

/-- The offset that a signed move gives, along the direction of the point (R26). -/
def Point.moved (p : Point) (x : Int) : Int := p.offset + (if p.dir = .towardB then x else -x)

theorem walk_inside {secs : List SectionRec} {route : List RouteEntry} {toe : Nat → List Leg} {p : Point} {r n : Nat}
    (h : r ≤ exitDistance secs p) : walk secs route toe (n + 1) p r
      = [{ stretches := [stretchFrom p r], last := { p with offset := movedOffset p r }, stop := .reached, short := 0 }] := by
  rw [walk, if_pos h]

theorem Dev.carry_inside {d : Dev} {p : Point} {x : Int} (h0 : 0 ≤ p.moved x) (hl : p.moved x ≤ legLength d.tmp.sections p.sec p.leg) :
    (d.carry p x).stop = .reached ∧ (d.carry p x).last = { p with offset := (p.moved x).toNat } := by
  by_cases hx : x < 0
  · have hin : x.natAbs ≤ exitDistance d.tmp.sections p.flip := by
      unfold Point.moved at h0 hl
      cases hd : p.dir <;> simp [hd, exitDistance, Point.flip, Direction.flip] at * <;> omega
    have hoff : movedOffset p.flip x.natAbs = (p.moved x).toNat := by
      unfold Point.moved at h0 hl ⊢
      cases hd : p.dir <;> simp [hd, movedOffset, Point.flip, Direction.flip] at * <;> omega
    simp only [Dev.carry, hx, decide_true, if_true, walkFuel, walk_inside hin, List.headD_cons, hoff, true_and]
    simp only [Point.flip, Direction.flip_flip]
  · have hin : x.natAbs ≤ exitDistance d.tmp.sections p := by
      unfold Point.moved at h0 hl
      cases hd : p.dir <;> simp [hd, exitDistance] at * <;> omega
    have hoff : movedOffset p x.natAbs = (p.moved x).toNat := by
      unfold Point.moved at h0 hl ⊢
      cases hd : p.dir <;> simp [hd, movedOffset] at * <;> omega
    simp only [Dev.carry, hx, decide_false, Bool.false_eq_true, if_false, walkFuel, walk_inside hin, List.headD_cons, hoff, and_self]

section
variable {d : Dev}

/-! ### The part at a sample: one entry's mark is all that changes before it (R67) -/

theorem Cle.update_entry_leg (c : Cle) (n : Nat) {f : Claim → Claim} (hs : ∀ x, (f x).sec = x.sec) (hl : ∀ x, (f x).legNeeded = x.legNeeded)
    (m : Nat) : ((c.update n f).entry m).bind (·.legNeeded) = (c.entry m).bind (·.legNeeded) := by
  unfold Cle.update Cle.entry
  simp only [List.find?_map]
  rw [show ((fun e : Claim => e.sec == m) ∘ fun e => if e.sec = n then f e else e) = fun e => e.sec == m from by
    funext e
    simp only [Function.comp]
    split
    · rw [hs]
    · rfl]
  cases c.table.find? (fun e => e.sec == m) with
  | none => rfl
  | some e =>
    simp only [Option.map_some, Option.bind_some]
    split
    · exact hl e
    · rfl

/-- Unmarking an entry leaves every carry as it is. -/
theorem Dev.unmarkRetry_changes (d : Dev) : ∃ c : Cle, d.unmarkRetry = { d with cle := c }
    ∧ (∀ p x, ({ d with cle := c } : Dev).carry p x = d.carry p x)
    ∧ ∀ p x, ({ d with cle := c } : Dev).markerAfter p x = d.markerAfter p x := by
  unfold Dev.unmarkRetry
  split
  · next n _ =>
    have htoe : (d.updateClaim n (fun e => { e with state := .wanted false })).toeLegs = d.toeLegs := by
      funext m
      have hleg := Cle.update_entry_leg d.cle n (f := fun e => { e with state := .wanted false }) (fun _ => rfl) (fun _ => rfl) m
      simp only [Dev.toeLegs, Dev.updateClaim, hleg]
      rfl
    refine ⟨d.cle.update n (fun e => { e with state := .wanted false }), rfl, fun p x => ?_, fun p x => ?_⟩
    · unfold Dev.carry
      exact htoe ▸ rfl
    · unfold Dev.markerAfter
      exact htoe ▸ rfl
  · exact ⟨d.cle, rfl, fun _ _ => rfl, fun _ _ => rfl⟩

/-! ### The stages of ODO's own part of a sample -/

/-- The counts cleared and the timer started again (R20). -/
def Dev.sampleBegun (d : Dev) : Dev :=
  { d with odo := { d.odo with
    sampleTimer := d.timerMs Config.sampleMs
    chA := { d.odo.chA with net := 0, seen := false }
    chB := { d.odo.chB with net := 0, seen := false } } }

/-- The sample is a slip sample, at the disagreement of its counts (R21). -/
def Dev.slips (d : Dev) (dis : Nat) : Bool :=
  d.odo.bothHealthy && d.isSlip (d.odo.chA.net * d.tmp.carriage.pitchA).natAbs (d.odo.chB.net * d.tmp.carriage.pitchB).natAbs dis

/-- The reference carried and slip tested (R20, R21). -/
def Dev.sampleSlip (d : Dev) : Dev :=
  match d.advance with
  | some (delta, dis) => (d.sampleBegun.carrySample delta dis).slipTest (d.slips dis)
  | none => d.sampleBegun.slipTest false

/-- The speed history and standstill of the sample (R22, R23). -/
def Odo.timed (o : Odo) (adv : Option (Int × Nat)) (zero : Bool) : Odo :=
  let run := if zero then min 50 (o.zeroRun + 1) else 0
  { o with
    history := match adv with
      | some z => o.history.drop 1 ++ [z.1.natAbs]
      | none => o.history
    zeroRun := run, standstill := zero && (o.standstill || run == 50) }

/-- The part with the speed and standstill of the sample formed (R22, R23). -/
def Dev.sampleTimed (d : Dev) : Dev :=
  { d.sampleSlip with odo := d.sampleSlip.odo.timed d.advance (zeroSample d.odo.chA d.odo.chB) }

/-- Standstill becomes true at the sample (R23). -/
def Dev.sampleStops (d : Dev) : Bool := d.sampleTimed.odo.standstill && !d.odo.standstill

/-- The open window at the sample (R29). -/
def Dev.sampleWindowed (d : Dev) : Dev := d.sampleTimed.windowSample ((d.advance.getD (0, 0)).1) d.sampleStops

theorem Dev.odoSample_eq (d : Dev) : d.odoSample
    = (if d.sampleStops && d.sampleWindowed.odo.pos.pendingLoss then d.sampleWindowed.losePosition .unexpectedMarker
      else d.sampleWindowed).judgeDue := by
  unfold Dev.odoSample Dev.sampleWindowed Dev.sampleStops Dev.sampleTimed Dev.sampleSlip Odo.timed
  cases h : d.advance with
  | none => rfl
  | some z => rfl

/-! ### The stages one by one -/

/-- The record after a carry that was not short, with its terms grown (R20, R25, R26). -/
def Dev.carriedRecord (d : Dev) (delta : Int) (dis : Nat) : PositionRec :=
  { d.odo.pos.placed (d.carry d.odo.pos.point delta).last with
    travelled := d.odo.pos.travelled + delta.natAbs, disagreement := d.odo.pos.disagreement + dis
    unc := d.uncertainty d.odo.pos.uAnchor (d.odo.pos.travelled + delta.natAbs) (d.odo.pos.disagreement + dis) }

/-- The marker due brought nearer by a carry (R33). -/
def Dev.dueNearer (d : Dev) (delta : Int) : Dev :=
  { d with odo := { d.odo with nextDue := d.odo.nextDue.map (fun (m : MarkerDue) => { m with ahead := m.ahead - delta }) } }

/-- The part with the reference carried and the record's travel and disagreement grown, before U is formed (R20, R26). -/
def Dev.carriedAlong (d : Dev) (delta : Int) (dis : Nat) : Dev :=
  (d.dueNearer delta).placeRecord { d.odo.pos.placed (d.carry d.odo.pos.point delta).last with
    travelled := d.odo.pos.travelled + delta.natAbs, disagreement := d.odo.pos.disagreement + dis }

theorem Dev.carrySample_along {delta : Int} {dis : Nat} (hk : d.odo.known = true)
    (hw : (d.carry d.odo.pos.point delta).stop = .reached) : d.carrySample delta dis = (d.carriedAlong delta dis).recompute 0 0 := by
  rw [Dev.carrySample, if_pos hk]
  simp only [hw, bne_self_eq_false, Bool.false_eq_true, if_false]
  rfl

theorem Dev.carrySample_reached {delta : Int} {dis : Nat} (hk : d.odo.known = true)
    (hw : (d.carry d.odo.pos.point delta).stop = .reached) (hu : (d.carriedRecord delta dis).unc < Config.uncertaintyCap) :
    d.carrySample delta dis = (d.dueNearer delta).placeRecord (d.carriedRecord delta dis) := by
  rw [Dev.carrySample_along hk hw, Dev.recompute_within (d := d.carriedAlong delta dis) (u := (d.carriedRecord delta dis).unc) hk rfl hu]
  rfl

theorem Dev.recompute_over {t x : Nat} (hk : d.odo.known = true) (hu : Config.uncertaintyCap ≤ d.uncertainty d.odo.pos.uAnchor
    (d.odo.pos.travelled + t) (d.odo.pos.disagreement + x)) :
    d.recompute t x = (d.withPos { d.odo.pos with unc := Config.uncertaintyCap }).loseWith .positionLost := by
  rw [Dev.recompute, if_pos hk]
  simp only
  rw [if_pos hu, Nat.min_eq_left hu]

theorem Dev.carrySample_lost {delta : Int} {dis : Nat} (hk : d.odo.known = true)
    (h : (d.carry d.odo.pos.point delta).stop ≠ .reached ∨ Config.uncertaintyCap ≤ (d.carriedRecord delta dis).unc) :
    ∃ x : Dev, x.odo.known = true ∧ d.carrySample delta dis = x.loseWith .positionLost := by
  by_cases hw : (d.carry d.odo.pos.point delta).stop = .reached
  · have hu := h.resolve_left (not_not_intro hw)
    have hunc : (d.carriedAlong delta dis).uncertainty (d.carriedAlong delta dis).odo.pos.uAnchor
        ((d.carriedAlong delta dis).odo.pos.travelled + 0) ((d.carriedAlong delta dis).odo.pos.disagreement + 0)
        = (d.carriedRecord delta dis).unc := rfl
    rw [Dev.carrySample_along hk hw, Dev.recompute_over (d := d.carriedAlong delta dis) hk (hu.trans_eq hunc.symm)]
    refine ⟨_, ?_, rfl⟩
    exact hk
  · have hw' : ((d.carry d.odo.pos.point delta).stop != .reached) = true := by simpa using hw
    rw [Dev.carrySample, if_pos hk]
    simp only [hw', if_true]
    exact ⟨d, hk, rfl⟩

theorem Dev.raise_odo {k : FaultKind} (hk : k.cls ≠ .safeStop) (d : Dev) : (d.raise k).odo = d.odo := by
  obtain ⟨fs, b, x, y, l, cs, heq, -⟩ := d.raise_changes hk
  rw [heq]

/-- The slip run after the test (R21). -/
def Odo.slipped (o : Odo) (slip : Bool) : Odo :=
  { o with slipRun := if slip then if 4 ≤ o.slipRun then 0 else o.slipRun + 1 else 0 }

theorem Dev.slipTest_odo (d : Dev) (slip : Bool) : (d.slipTest slip).odo = d.odo.slipped slip := by
  unfold Dev.slipTest Odo.slipped
  cases slip with
  | false => rfl
  | true =>
    simp only [if_true, Dev.bump_odo]
    by_cases h : 4 ≤ d.odo.slipRun
    · simp only [h, if_true, Dev.raise_odo (k := .slip) (by decide)]
    · simp only [h, if_false]

theorem Dev.slipTest_active (d : Dev) (slip : Bool) (j : FaultKind) :
    (d.slipTest slip).faultActive j = ((slip && decide (4 ≤ d.odo.slipRun) && FaultKind.slip == j) || d.faultActive j) := by
  unfold Dev.slipTest
  cases slip with
  | false => rfl
  | true =>
    simp only [if_true, Dev.bump_odo, Bool.true_and]
    by_cases h : 4 ≤ d.odo.slipRun
    · simp only [h, if_true, decide_true, Bool.true_and]
      exact Dev.raise_active (k := .slip) (by decide) _ j
    · simp only [h, if_false, decide_false, Bool.false_and, Bool.false_or]
      rfl

theorem Dev.windowSample_none {x : Int} {b : Bool} (h : d.odo.window = none) : d.windowSample x b = d := by
  rw [Dev.windowSample, h]

/-- A marker missed, at the odometer and the faults (R33). -/
theorem Dev.missMarker_odo (d : Dev) :
    d.missMarker.odo = { d.odo with missedRun := if 1 ≤ d.odo.missedRun then 0 else d.odo.missedRun + 1 } := by
  unfold Dev.missMarker
  simp only [Dev.bump_odo]
  by_cases h : 1 ≤ d.odo.missedRun
  · simp only [h, if_true, Dev.raise_odo (k := .missedMarkers) (by decide)]
  · simp only [h, if_false]

theorem Dev.missMarker_active (d : Dev) (j : FaultKind) :
    d.missMarker.faultActive j = ((decide (1 ≤ d.odo.missedRun) && FaultKind.missedMarkers == j) || d.faultActive j) := by
  unfold Dev.missMarker
  simp only [Dev.bump_odo]
  by_cases h : 1 ≤ d.odo.missedRun
  · simp only [h, if_true, decide_true, Bool.true_and]
    exact Dev.raise_active (k := .missedMarkers) (by decide) _ j
  · simp only [h, if_false, decide_false, Bool.false_and, Bool.false_or]
    rfl

theorem Dev.judgeDue_pos (d : Dev) : d.judgeDue.odo.pos = d.odo.pos := by
  unfold Dev.judgeDue
  split
  · split
    · rw [Dev.missMarker_odo]
    · rfl
  · rfl

/-! ### A detection in its stages (R29 to R33) -/

theorem Dev.carrySign_fst (d : Dev) (x : Detection) : ∃ n : Nat, (d.carrySign x).1 = { d with freeCount := n } := by
  unfold Dev.carrySign
  split
  · exact ⟨_, rfl⟩
  · split
    · exact ⟨_, rfl⟩
    · split
      · exact ⟨_, rfl⟩
      · exact ⟨_, rfl⟩

theorem Dev.matched_fst (d : Dev) (l : List MarkerAt) : ∃ n : Nat, (d.matched l).1 = { d with freeCount := n } := by
  unfold Dev.matched
  split
  · exact ⟨_, rfl⟩
  · exact ⟨_, rfl⟩
  · split
    · exact ⟨_, rfl⟩
    · exact ⟨_, rfl⟩

/-- U_anchor at a matched marker: the marker tolerance, doubled for a single, and no less than the pad's (R31). -/
def Dev.markerAnchor (d : Dev) (x : Detection) : Nat :=
  max (if x.paired then d.tmp.carriage.markerTol * 1000 else 2 * d.tmp.carriage.markerTol * 1000) (d.tmp.carriage.padTol * 1000)

/-- The reference placed at the matched marker, and the anchor counted (R31). -/
def Dev.reanchored (d : Dev) (x : Detection) (m : MarkerAt) : Dev :=
  ((d.carrySign x).1.anchorAt m.point (d.carrySign x).2 x.travel (d.markerAnchor x)).bump .markerAnchors

/-- The marker due that lies before the matched one (R33). -/
def Dev.dueBefore (d : Dev) (x : Detection) (m : MarkerAt) : Option MarkerDue :=
  d.odo.nextDue.filter (fun n => decide (n.ahead < (if m.ahead then (m.dist : Int) else -(m.dist : Int)) - x.lead))

/-- The missed run 0, and a marker due before the matched one judged (R33). -/
def Dev.judgedBefore (d : Dev) (n : Option MarkerDue) (p : Point) (x : Int) : Dev :=
  match n with
  | some n => ({ d with odo := { d.odo with missedRun := 0 } } : Dev).judgeBefore n p x
  | none => { d with odo := { d.odo with missedRun := 0 } }

theorem Dev.anchorMarker_eq (d : Dev) (x : Detection) (m : MarkerAt) : d.anchorMarker x m = if (d.reanchored x m).odo.known
    then ((((d.reanchored x m).judgedBefore (d.dueBefore x m) m.point (d.carrySign x).2).findDue).passMarker m.point).claimsAnchored
    else d.reanchored x m := rfl

end

/-! ### What outlives a detection -/

/-- `P` outlives the record written, the marker due and the counts of singles and missed markers written, besides what `SafeWork` says. -/
structure DetectWork (P : Dev → Prop) : Prop extends SafeWork P where
  freeCount : ∀ {d : Dev} (n : Nat), P d → P { d with freeCount := n }
  record : ∀ {d : Dev} (p : PositionRec), P d → P (d.withPos p)
  place : ∀ {d : Dev} (p : PositionRec), P d → P (d.placeRecord p)
  due : ∀ {d : Dev} (n : Option MarkerDue) (m : Nat), P d → P { d with odo := { d.odo with nextDue := n, missedRun := m } }
  singles : ∀ {d : Dev} (u : Nat) (r : ReaderSide), P d → P { d with odo := { d.odo with unpaired := u, missingSide := r } }

namespace DetectWork

variable {P : Dev → Prop} {d : Dev}

theorem recompute (h : DetectWork P) (x y : Nat) (hd : P d) : P (d.recompute x y) :=
  ite_keeps (fun _ => ite_keeps (fun _ => h.loseWith _ (h.record _ hd)) (fun _ => h.record _ hd)) (fun _ => hd)

theorem carrySample (h : DetectWork P) (delta : Int) (dis : Nat) (hd : P d) : P (d.carrySample delta dis) :=
  ite_keeps (fun _ => ite_keeps (fun _ => h.loseWith _ hd) (fun _ => h.recompute _ _ (h.place _ (h.due _ d.odo.missedRun hd))))
    (fun _ => hd)

theorem missMarker (h : DetectWork P) (hd : P d) : P d.missMarker :=
  ite_keeps (fun _ => h.raise _ (h.due (d.bump .missedMarkers).odo.nextDue 0 (h.bump _ hd)))
    (fun _ => h.due (d.bump .missedMarkers).odo.nextDue ((d.bump .missedMarkers).odo.missedRun + 1) (h.bump _ hd))

theorem judgeDue (h : DetectWork P) (hd : P d) : P d.judgeDue := by
  unfold Dev.judgeDue
  split
  · exact ite_keeps (fun _ => h.missMarker (h.due _ d.odo.missedRun hd)) (fun _ => hd)
  · exact hd

theorem judgeBefore (h : DetectWork P) (n : MarkerDue) (p : Point) (x : Int) (hd : P d) : P (d.judgeBefore n p x) :=
  foldl_keeps (fun _ _ hx => ite_keeps (fun _ => h.missMarker hx) (fun _ => hx)) _ _ hd

theorem countDetection (h : DetectWork P) (x : Detection) (hd : P d) : P (d.countDetection x) :=
  ite_keeps (fun _ => h.singles 0 d.odo.missingSide hd) fun _ => ite_keeps
    (fun _ => ite_keeps (fun _ => h.raise _ (h.singles _ _ (h.bump _ hd))) (fun _ => h.singles _ _ (h.bump _ hd)))
    (fun _ => h.singles _ _ (h.bump _ hd))

theorem anchorAt (h : DetectWork P) (p : Point) (x : Int) (t u : Nat) (hd : P d) : P (d.anchorAt p x t u) :=
  ite_keeps (fun _ => h.loseWith _ hd) (fun _ => h.recompute _ _ (h.place _ hd))

theorem findDue (h : DetectWork P) (hd : P d) : P d.findDue := h.due _ d.odo.missedRun hd

theorem passMarker (h : DetectWork P) (p : Point) (hd : P d) : P (d.passMarker p) := by
  unfold Dev.passMarker
  split
  · exact ite_keeps (fun _ => h.due _ d.odo.missedRun hd) (fun _ => hd)
  · exact hd

theorem reanchored (h : DetectWork P) (x : Detection) (m : MarkerAt) (hd : P d) : P (d.reanchored x m) := by
  obtain ⟨n, hn⟩ := d.carrySign_fst x
  refine h.bump _ (h.anchorAt _ _ _ _ ?_)
  rw [hn]
  exact h.freeCount n hd

theorem judgedBefore (h : DetectWork P) (n : Option MarkerDue) (p : Point) (x : Int) (hd : P d) : P (d.judgedBefore n p x) := by
  unfold Dev.judgedBefore
  split
  · exact h.judgeBefore _ _ _ (h.due d.odo.nextDue 0 hd)
  · exact h.due d.odo.nextDue 0 hd

theorem anchorMarker (h : DetectWork P) (x : Detection) (m : MarkerAt) (hd : P d) : P (d.anchorMarker x m) := by
  have hanchored := h.reanchored x m hd
  rw [Dev.anchorMarker_eq]
  exact ite_keeps (fun _ => h.claimsAnchored (h.passMarker _ (h.findDue (h.judgedBefore _ _ _ hanchored)))) (fun _ => hanchored)

theorem unexpectedMarker (h : DetectWork P) (u t x : Nat) (hd : P d) : P (d.unexpectedMarker u t x) :=
  ite_keeps (fun _ => h.recompute _ _ (h.record _ (h.raise _ (h.bump _ hd)))) (fun _ => h.raise _ (h.bump _ hd))

theorem detect (h : DetectWork P) (x : Detection) (hd : P d) : P (d.detect x) := by
  unfold Dev.detect
  refine ite_keeps (fun _ => hd) (fun _ => ite_keeps (fun _ => h.countDetection x hd) (fun _ => ?_))
  obtain ⟨n, hn⟩ := (d.countDetection x).matched_fst (markerCandidates (d.countDetection x).tmp.sections (d.countDetection x).routeEntries
    x.point (min Config.uncertaintyCap ((d.countDetection x).uncertainty (d.countDetection x).odo.pos.uAnchor
      ((d.countDetection x).odo.pos.travelled + ((d.countDetection x).advance.getD (0, 0)).1.natAbs)
      ((d.countDetection x).odo.pos.disagreement + ((d.countDetection x).advance.getD (0, 0)).2))))
  have hcounted := h.freeCount n (h.countDetection x hd)
  simp only [hn]
  split
  · exact h.anchorMarker _ _ hcounted
  · exact h.unexpectedMarker _ _ _ hcounted

end DetectWork

theorem detectWork_survives (d : Dev) : DetectWork d.survives where
  toSafeWork := safeWork_survives d
  freeCount _ h := h
  record _ h := Dev.survives_trans h ⟨⟨_, _, _, _, _, _, rfl⟩, fun _ _ h => h⟩
  place _ h := Dev.survives_trans h ⟨⟨_, _, _, _, _, _, rfl⟩, fun _ _ h => h⟩
  due _ _ h := Dev.survives_trans h ⟨⟨_, _, _, _, _, _, rfl⟩, fun _ _ h => h⟩
  singles _ _ h := Dev.survives_trans h ⟨⟨_, _, _, _, _, _, rfl⟩, fun _ _ h => h⟩

/-- No work of a detection or of the Claim Engine opens the pairing window. -/
theorem detectWork_windowless : DetectWork fun d => d.odo.window = none where
  counters _ h := h
  enqueue k dst b t h := by
    obtain ⟨q, y, cs, heq⟩ := Dev.enqueue_line _ k dst b t
    rw [heq]
    exact h
  withdraw tag h := by
    obtain ⟨q, y, heq⟩ := Dev.withdraw_line _ tag
    rw [heq]
    exact h
  cle _ h := h
  deadlock _ _ h := h
  raise {d} k h := by
    obtain ho | ho := d.raised_odo k
    · rw [ho, h]
    · simp only [ho, Odo.offRoute, h, Option.map_none]
  losePosition {d} k h := by
    by_cases hk : d.odo.known = true
    · rw [(Dev.losePosition_lost hk k).odo]
      rfl
    · rw [Dev.losePosition, if_neg hk, h]
  heldReport _ h := h
  freeCount _ h := h
  record _ h := h
  place _ h := h
  due _ _ h := h
  singles _ _ h := h

section
variable {d : Dev}

theorem Dev.survives_windowSample (d : Dev) (x : Int) (b : Bool) : d.survives (d.windowSample x b) := by
  unfold Dev.windowSample
  split
  · refine ite_keeps (P := d.survives) (fun _ => ?_) (fun _ => ⟨⟨_, _, _, _, _, _, rfl⟩, fun _ _ h => h⟩)
    exact (detectWork_survives d).detect _ ⟨⟨_, _, _, _, _, _, rfl⟩, fun _ _ h => h⟩
  · exact d.survives_refl

/-- After its speed and standstill are formed, a sample leaves all else of ODO but what a detection may change. -/
theorem Dev.odoSample_survives (d : Dev) : d.sampleTimed.survives d.odoSample := by
  have hwindow : d.sampleTimed.survives d.sampleWindowed := Dev.survives_windowSample _ _ _
  rw [Dev.odoSample_eq]
  exact (detectWork_survives _).judgeDue
    (ite_keeps (P := d.sampleTimed.survives) (fun _ => (safeWork_survives _).losePosition _ hwindow) (fun _ => hwindow))

end

end Sys2Proof.Machine

/-! SUPPORT. The sample as a whole (R20): what follows ODO's own part, and what is left of ODO's items after it. -/

namespace Sys2Proof.Machine

section
variable {d : Dev}

theorem exec_odometrySample (s : State) (ha : s.dev.odo.active = true) (hd : s.dev.due s.dev.odo.sampleTimer = true) :
    exec .odometrySample s = .next { s with dev :=
      ((s.dev.unmarkRetry.odoSample).claimsSample s.dev.retrySection).standstillChanged s.dev.odo.standstill } := by
  show Host.Outcome.next { s with dev := s.dev.sample } = _
  rw [Dev.sample, if_pos (by rw [ha, hd]; rfl)]

theorem Dev.sampleSlip_still (d : Dev) : d.sampleSlip.still = d.sampleBegun.still := by
  unfold Dev.sampleSlip
  split
  · exact (inner_still _).slipTest _ ((inner_still _).carrySample _ _ rfl)
  · exact (inner_still _).slipTest _ rfl

theorem Dev.odoSample_still (d : Dev) : d.odoSample.still = d.sampleTimed.still := by
  have hwindow : d.sampleWindowed.still = d.sampleTimed.still := (inner_still _).windowSample _ _ rfl
  rw [Dev.odoSample_eq]
  exact (inner_still _).judgeDue (ite_keeps (P := fun e => e.still = d.sampleTimed.still)
    (fun _ => (inner_still _).losePosition _ hwindow) (fun _ => hwindow))

theorem Dev.standstillChanged_still (d : Dev) (b : Bool) : (d.standstillChanged b).still = d.still :=
  ite_keeps (P := fun e => e.still = d.still)
    (fun _ => (inner_still _).completeAbort ((inner_still _).dockStandstill ((inner_still _).claimsStandstill rfl)))
    (fun _ => ite_keeps (P := fun e => e.still = d.still) (fun _ => (inner_still _).dockMotion rfl) (fun _ => rfl))

/-- The whole sample leaves ODO's timed items as its own part formed them. -/
theorem Dev.sampled_still (d : Dev) (r : Option Nat) (b : Bool) :
    ((d.odoSample.claimsSample r).standstillChanged b).still = d.sampleTimed.still :=
  (Dev.standstillChanged_still _ _).trans (((inner_still _).claimsSample r rfl).trans d.odoSample_still)

theorem Dev.sensed_of_still {e : Dev} (h : d.still = e.still) : d.odo.sensed = e.odo.sensed :=
  (congrArg (fun y : Dev => y.odo.sensed) h :)

theorem Odo.timed_sensed {o o' : Odo} (h : o.sensed = o'.sensed) (a : Option (Int × Nat)) (z : Bool) :
    (o.timed a z).sensed = (o'.timed a z).sensed := by
  simp only [Odo.sensed, Prod.mk.injEq] at h
  obtain ⟨ha, hA, hB, ht, hh, hz, hs, hp, hl⟩ := h
  simp only [Odo.sensed, Odo.timed, ha, hA, hB, ht, hh, hz, hs, hp, hl]

/-- What the whole sample leaves of the channels, the timer, the history, the zero run and standstill (R20, R22, R23). -/
theorem Dev.sampled_sensed (d : Dev) (r : Option Nat) (b : Bool) : ((d.odoSample.claimsSample r).standstillChanged b).odo.sensed
    = (d.sampleBegun.odo.timed d.advance (zeroSample d.odo.chA d.odo.chB)).sensed :=
  (Dev.sensed_of_still (d.sampled_still r b)).trans (Odo.timed_sensed (Dev.sensed_of_still d.sampleSlip_still) _ _)

theorem zeroSample_iff {a b : TachChannel} : zeroSample a b = true ↔
    (a.failed = false ∨ b.failed = false) ∧ (a.failed = false → a.seen = false) ∧ (b.failed = false → b.seen = false) := by
  cases ha : a.failed <;> cases hb : b.failed <;> simp [zeroSample, ha, hb]

theorem Dev.slips_iff {a b : Int} (ha : a = d.odo.chA.net * d.tmp.carriage.pitchA) (hb : b = d.odo.chB.net * d.tmp.carriage.pitchB)
    (dis : Nat) : d.slips dis = true ↔ (d.odo.chA.failed = false ∧ d.odo.chB.failed = false)
      ∧ d.tmp.carriage.slipThreshold * max a.natAbs b.natAbs < dis * 1000
      ∧ 4 * min d.tmp.carriage.pitchA d.tmp.carriage.pitchB ≤ max a.natAbs b.natAbs := by
  simp [Dev.slips, Dev.isSlip, Odo.bothHealthy, ha, hb]

/-- With no window open and no loss pending, ODO's part of a sample leaves the record as the carry made it. -/
theorem Dev.odoSample_calm (hw : d.sampleTimed.odo.window = none) (hl : d.sampleTimed.odo.pos.pendingLoss = false) :
    d.odoSample = d.sampleTimed.judgeDue := by
  rw [Dev.odoSample_eq, Dev.sampleWindowed, Dev.windowSample_none hw, hl, Bool.and_false]
  rfl

/-- The sample is a slip sample (R21). -/
def Dev.slipSample (d : Dev) : Bool := d.advance.any (fun z => d.slips z.2)

/-- The reference carried, where a channel is HEALTHY (R20). -/
def Dev.sampleCarried (d : Dev) : Dev :=
  match d.advance with
  | some (delta, dis) => d.sampleBegun.carrySample delta dis
  | none => d.sampleBegun

theorem Dev.sampleSlip_eq (d : Dev) : d.sampleSlip = d.sampleCarried.slipTest d.slipSample := by
  unfold Dev.sampleSlip Dev.sampleCarried Dev.slipSample
  cases h : d.advance <;> rfl

theorem Dev.survives_sampleCarried (d : Dev) : d.sampleBegun.survives d.sampleCarried := by
  unfold Dev.sampleCarried
  split
  · exact (detectWork_survives _).carrySample _ _ (Dev.survives_refl _)
  · exact Dev.survives_refl _

theorem Dev.sampleCarried_slipRun (d : Dev) : d.sampleCarried.odo.slipRun = d.odo.slipRun := by
  obtain ⟨⟨p, n, w, u, k, r, ho⟩, -⟩ := d.survives_sampleCarried
  rw [ho]
  rfl

theorem Dev.sampleTimed_odo (d : Dev) :
    d.sampleTimed.odo = (d.sampleCarried.odo.slipped d.slipSample).timed d.advance (zeroSample d.odo.chA d.odo.chB) := by
  show d.sampleSlip.odo.timed _ _ = _
  rw [Dev.sampleSlip_eq, Dev.slipTest_odo]

theorem Dev.sampleTimed_active (d : Dev) (j : FaultKind) : d.sampleTimed.faultActive j
    = ((d.slipSample && decide (4 ≤ d.odo.slipRun) && FaultKind.slip == j) || d.sampleCarried.faultActive j) := by
  show d.sampleSlip.faultActive j = _
  rw [Dev.sampleSlip_eq, Dev.slipTest_active, Dev.sampleCarried_slipRun]

/-- The slip run that a sample leaves (R21). -/
theorem Dev.odoSample_slipRun (d : Dev) : d.odoSample.odo.slipRun = (d.odo.slipped d.slipSample).slipRun := by
  obtain ⟨⟨p, n, w, u, k, r, ho⟩, -⟩ := d.odoSample_survives
  rw [ho, Dev.sampleTimed_odo]
  show (if _ then if 4 ≤ d.sampleCarried.odo.slipRun then _ else _ else _) = _
  rw [Dev.sampleCarried_slipRun]
  rfl

theorem Dev.odoSample_active {j : FaultKind} (hj : j ≠ .deadlock) (h : d.sampleTimed.faultActive j = true) :
    d.odoSample.faultActive j = true :=
  d.odoSample_survives.2 j hj h

theorem Dev.sampleCarried_none (h : d.advance = none) : d.sampleCarried = d.sampleBegun := by
  rw [Dev.sampleCarried, h]

theorem Dev.sampleCarried_some {delta : Int} {dis : Nat} (h : d.advance = some (delta, dis)) :
    d.sampleCarried = d.sampleBegun.carrySample delta dis := by
  rw [Dev.sampleCarried, h]

/-- The record and the window that the timed stage has are those of the carry. -/
theorem Dev.odoSample_pos (hw : d.sampleCarried.odo.window = none) (hl : d.sampleCarried.odo.pos.pendingLoss = false) :
    d.odoSample.odo.pos = d.sampleCarried.odo.pos := by
  have htimed := d.sampleTimed_odo
  rw [Dev.odoSample_calm (by rw [htimed]; exact hw) (by rw [htimed]; exact hl), Dev.judgeDue_pos, htimed]
  rfl

theorem Dev.odoSample_line (h : d.sampleCarried.lineFollows) (hw : d.sampleCarried.odo.window = none)
    (hl : d.sampleCarried.odo.pos.pendingLoss = false) : d.odoSample.lineFollows := by
  have htimed := d.sampleTimed_odo
  rw [Dev.odoSample_calm (by rw [htimed]; exact hw) (by rw [htimed]; exact hl)]
  refine outer_lineFollows.toInner.judgeDue ?_
  show d.sampleSlip.lineFollows
  rw [Dev.sampleSlip_eq]
  exact outer_lineFollows.toInner.slipTest _ h

end

/-- Settles O8: the stages of `Dev.odoSample` at a carry that reaches its end, and at one that loses the position. -/
theorem sampleCountsSpeedAndStandstill : Obligations.SampleCountsSpeedAndStandstill := by
  intro s d o c ha hdue a b healthy advance zero m slip
  obtain ⟨cl, hun, hcarry, -⟩ := d.unmarkRetry_changes
  obtain ⟨u, hu⟩ : ∃ u : Dev, u = { d with cle := cl } := ⟨_, rfl⟩
  rw [← hu] at hun
  have hadv : u.advance = advance := by rw [hu]; rfl
  have hsensed := u.sampled_sensed d.retrySection o.standstill
  have hmean : healthy → advance = some ((a + b).tdiv 2, (a - b).natAbs) := by
    rintro ⟨hA, hB⟩
    show (match o.chA.failed, o.chB.failed with
      | false, false => some ((a + b).tdiv 2, (a - b).natAbs) | false, true => some (a, 0) | true, false => some (b, 0) | true, true => none) = _
    rw [hA, hB]
  have hslip : u.slipSample = true ↔ slip := by
    have hiff (dis : Nat) := Dev.slips_iff (d := d) (a := a) (b := b) rfl rfl dis
    have hsame (dis : Nat) : u.slips dis = d.slips dis := by rw [hu]; rfl
    rw [Dev.slipSample, hadv, Option.any_eq_true]
    constructor
    · rintro ⟨z, hz, hsl⟩
      obtain ⟨hh, h1, h2⟩ := (hiff z.2).mp (by rwa [← hsame])
      obtain rfl := Option.some.inj ((hmean hh).symm.trans hz)
      exact ⟨hh, h1, h2⟩
    · rintro ⟨hh, h1, h2⟩
      refine ⟨((a + b).tdiv 2, (a - b).natAbs), hmean hh, ?_⟩
      rw [hsame]
      exact (hiff _).mpr ⟨hh, h1, h2⟩
  have hzero : zeroSample u.odo.chA u.odo.chB = true ↔ zero := by rw [hu]; exact zeroSample_iff
  have hrun : u.odoSample.odo.slipRun = (o.slipped u.slipSample).slipRun := u.odoSample_slipRun.trans (by rw [hu])
  rw [hadv] at hsensed
  rw [show u.sampleBegun.odo = d.sampleBegun.odo by rw [hu]; rfl] at hsensed
  simp only [Odo.sensed, Prod.mk.injEq] at hsensed
  obtain ⟨-, hA, hB, htimer, hhist, hzrun, hstand, -, -⟩ := hsensed
  refine ⟨u.odoSample, _, (exec_odometrySample s ha hdue).trans ?_, rfl, hA, hB, htimer, hhist, fun hz => ⟨?_, ?_⟩, fun hz => ⟨?_, ?_⟩,
    fun hs hr => ?_, fun hs hr => ⟨?_, ?_⟩, fun hs => ?_, fun hk hw hl => ⟨fun hn => ?_, fun delta dis hsome => ?_⟩⟩
  · show Host.Outcome.next { s with dev := ((d.unmarkRetry.odoSample).claimsSample _).standstillChanged _ } = _
    rw [hun]
  · rw [hzrun, hzero.mpr hz]
    rfl
  · rw [hstand, hzero.mpr hz]
    simp only [Odo.timed, Bool.true_and, if_true, Bool.or_eq_true, beq_iff_eq]
    rfl
  · rw [hzrun, Bool.eq_false_iff.mpr (fun h => hz (hzero.mp h))]
    rfl
  · rw [hstand, Bool.eq_false_iff.mpr (fun h => hz (hzero.mp h))]
    rfl
  · rw [hrun, hslip.mpr hs]
    exact if_neg (Nat.not_le.mpr hr)
  · rw [hrun, hslip.mpr hs]
    exact if_pos hr
  · refine Dev.odoSample_active (by decide) ?_
    rw [Dev.sampleTimed_active, hslip.mpr hs, show u.odo = o by rw [hu], decide_eq_true hr]
    rfl
  · rw [hrun, Bool.eq_false_iff.mpr (fun h => hs (hslip.mp h))]
    rfl
  · have hcarried : u.sampleCarried = u.sampleBegun := Dev.sampleCarried_none (hadv.trans hn)
    have hpos : u.sampleCarried.odo.pos = o.pos := by rw [hcarried, hu]; rfl
    rw [Dev.odoSample_pos (by rw [hcarried, hu]; exact hw) (by rw [hpos]; exact hl), hpos]
  · intro w growth travelled unc ahead
    have hcarried : u.sampleCarried = u.sampleBegun.carrySample delta dis := Dev.sampleCarried_some (hadv.trans hsome)
    have hcar : u.sampleBegun.carry u.sampleBegun.odo.pos.point delta = w := by rw [hu]; exact hcarry _ _
    have hrec : u.sampleBegun.carriedRecord delta dis = { o.pos with
        sec := w.last.sec, leg := w.last.leg, offset := w.last.offset, dir := w.last.dir, idx := w.last.idx
        travelled := travelled, disagreement := o.pos.disagreement + dis, unc := unc } := by
      rw [Dev.carriedRecord, hcar, Dev.uncertainty, Dev.growth_eq, hu]
      rfl
    have hknown : u.sampleBegun.odo.known = true := (Odo.known_iff _).mpr (by rw [hu]; exact hk)
    refine ⟨fun r hr hkind hleg h0 h1 => ?_, fun hreach hcap => ?_, fun hlost => ?_⟩
    · have hlen : legLength d.tmp.sections o.pos.point.sec o.pos.point.leg = r.length * 1000 := by
        show legLength d.tmp.sections o.pos.sec o.pos.leg = _
        rw [legLength, hr, hleg]
        rfl
      exact Dev.carry_inside (p := o.pos.point) h0 (by rw [hlen]; exact h1)
    · have hplaced := Dev.carrySample_reached (dis := dis) hknown (hcar ▸ hreach) (by rw [hrec]; exact hcap)
      rw [hrec] at hplaced
      rw [hplaced] at hcarried
      have hw' : u.sampleCarried.odo.window = none := by rw [hcarried, hu]; exact hw
      have hl' : u.sampleCarried.odo.pos.pendingLoss = false := by rw [hcarried]; exact hl
      have hpos : u.odoSample.odo.pos = u.sampleCarried.odo.pos := Dev.odoSample_pos hw' hl'
      have hline : u.odoSample.bdu.dirLine = u.odoSample.odo.pos.dir := Dev.odoSample_line (by rw [hcarried]; rfl) hw' hl'
      rw [hcarried] at hpos
      exact ⟨hline.trans (congrArg PositionRec.dir hpos), hpos⟩
    · obtain ⟨x, hx, hloses⟩ := Dev.carrySample_lost (dis := dis) hknown
        (hlost.imp (fun h => hcar ▸ h) (fun h => by rw [hrec]; exact h))
      obtain ⟨y, -, hl, hact⟩ := Dev.loseWith_lost hx .positionLost
      rw [← hloses, ← hcarried] at hl hact
      refine ⟨?_, Dev.odoSample_active (by decide) ?_⟩
      · rw [Dev.odoSample_pos (by rw [hl.odo]; rfl) (by rw [hl.odo]; rfl), hl.odo]
        rfl
      · rw [Dev.sampleTimed_active, hact _ (by decide)]
        simp

end Sys2Proof.Machine

/-! SUPPORT. The open window, a pending loss and the marker due at a sample (R29, R32, R33). -/

namespace Sys2Proof.Machine

section
variable {d : Dev}

/-! ### The window at a sample (R29) -/

/-- An open window once a sample has been taken into it (R29, R31). -/
def PairWindow.sampled (w : PairWindow) (delta : Int) : PairWindow :=
  { w with
    travel := w.travel + delta.natAbs, part := 0, since := w.since + (delta - w.part).natAbs, net := w.net + (delta - w.part) }

/-- The single detection that a window closed by a sample makes (R29). -/
def Dev.singleOf (d : Dev) (w : PairWindow) : Detection :=
  { point := w.snap, paired := false, side := w.side, travel := w.since, net := w.net, lead := d.leadOver w.snap }

theorem Dev.windowSample_goes {w : PairWindow} {delta : Int} (h : d.odo.window = some w) (ht : (w.sampled delta).travel ≤ 50000) :
    d.windowSample delta false = { d with odo := { d.odo with window := some (w.sampled delta) } } := by
  rw [Dev.windowSample, h]
  simp only [PairWindow.sampled] at ht
  simp [PairWindow.sampled, Nat.not_lt.mpr ht]

theorem Dev.windowSample_closes {w : PairWindow} {delta : Int} {stopped : Bool} (h : d.odo.window = some w)
    (hc : 50000 < (w.sampled delta).travel ∨ stopped = true) (hadv : (d.advance.getD (0, 0)).1 = 0) :
    d.windowSample delta stopped
      = ({ d with odo := { d.odo with window := none } } : Dev).detect (d.singleOf (w.sampled delta)) := by
  have hclose : (decide (50000 < w.travel + delta.natAbs) || stopped) = true := by
    rw [Bool.or_eq_true, decide_eq_true_eq]
    exact hc
  have hsince : ({ d with odo := { d.odo with window := some (w.sampled delta) } } : Dev).sinceSnapshot (w.sampled delta)
      = ((w.sampled delta).since, (w.sampled delta).net) := by
    have hpart : ({ d with odo := { d.odo with window := some (w.sampled delta) } } : Dev).sincePart (w.sampled delta) = 0 := by
      show (d.advance.getD (0, 0)).1 - 0 = 0
      rw [hadv, sub_zero]
    rw [Dev.sinceSnapshot, hpart]
    simp
  rw [Dev.windowSample, h]
  simp only
  rw [if_pos hclose, Dev.closeSingle, show ({ w with
    travel := w.travel + delta.natAbs, part := 0, since := w.since + (delta - w.part).natAbs, net := w.net + (delta - w.part) } : PairWindow)
      = w.sampled delta from rfl, hsince]
  rfl

/-- With the counts cleared, the sample in progress has not moved. -/
theorem Dev.advance_cleared (hA : d.odo.chA.net = 0) (hB : d.odo.chB.net = 0) : (d.advance.getD (0, 0)).1 = 0 := by
  unfold Dev.advance
  simp only [hA, hB, zero_mul, add_zero, Int.zero_tdiv]
  split <;> rfl

theorem Dev.sampleTimed_advance (d : Dev) : (d.sampleTimed.advance.getD (0, 0)).1 = 0 := by
  have hsensed : d.sampleTimed.odo.sensed = (d.sampleBegun.odo.timed d.advance (zeroSample d.odo.chA d.odo.chB)).sensed :=
    Odo.timed_sensed (Dev.sensed_of_still d.sampleSlip_still) _ _
  simp only [Odo.sensed, Prod.mk.injEq] at hsensed
  obtain ⟨-, hA, hB, -⟩ := hsensed
  exact Dev.advance_cleared (by rw [hA]; rfl) (by rw [hB]; rfl)

/-! ### A sample that keeps the position -/

/-- The carry of the sample's counts is not short, and U stays below its cap. -/
def Dev.carriesWell (d : Dev) : Prop :=
  ∀ z, d.advance = some z → (d.sampleBegun.carry d.odo.pos.point z.1).stop = .reached
    ∧ (d.sampleBegun.carriedRecord z.1 z.2).unc < Config.uncertaintyCap

/-- The record and the marker due after the carry of a sample that keeps the position. -/
def Dev.carriedOdo (d : Dev) : Odo :=
  match d.advance with
  | some z => { (d.sampleBegun.dueNearer z.1).odo with pos := d.sampleBegun.carriedRecord z.1 z.2 }
  | none => d.sampleBegun.odo

theorem Dev.sampleCarried_odo (hk : d.odo.known = true) (h : d.carriesWell) : d.sampleCarried.odo = d.carriedOdo := by
  unfold Dev.carriedOdo
  cases hadv : d.advance with
  | none => rw [Dev.sampleCarried_none hadv]
  | some z =>
    obtain ⟨hreach, hcap⟩ := h z hadv
    rw [Dev.sampleCarried_some hadv, Dev.carrySample_reached (d := d.sampleBegun) hk hreach hcap]
    rfl

theorem Dev.carriedOdo_kept (d : Dev) : d.carriedOdo.window = d.odo.window ∧ d.carriedOdo.pos.pendingLoss = d.odo.pos.pendingLoss
    ∧ d.carriedOdo.pos.validity = d.odo.pos.validity ∧ d.carriedOdo.missedRun = d.odo.missedRun
    ∧ (d.carriedOdo.unpaired, d.carriedOdo.missingSide) = (d.odo.unpaired, d.odo.missingSide)
    ∧ d.carriedOdo.nextDue = d.odo.nextDue.map (fun m => { m with ahead := m.ahead - (d.advance.getD (0, 0)).1 }) := by
  unfold Dev.carriedOdo
  cases d.advance with
  | none =>
    refine ⟨rfl, rfl, rfl, rfl, rfl, ?_⟩
    simp only [Option.getD_none, sub_zero]
    exact Option.map_id'.symm
  | some z => exact ⟨rfl, rfl, rfl, rfl, rfl, rfl⟩

/-! ### The marker due (R33) -/

theorem Dev.judgeDue_kept {m : MarkerDue} (hm : d.odo.nextDue = some m) (h : ¬m.ahead < -(d.odo.pos.unc : Int)) : d.judgeDue = d := by
  rw [Dev.judgeDue, hm]
  simp only [Dev.overdue, h, decide_false, Bool.and_false, Bool.false_eq_true, if_false]

theorem Dev.judgeDue_missed {m : MarkerDue} (hm : d.odo.nextDue = some m) (hk : d.odo.known = true) (hl : d.odo.pos.pendingLoss = false)
    (hw : d.odo.window = none) (h : m.ahead < -(d.odo.pos.unc : Int)) :
    d.judgeDue = ({ d with odo := { d.odo with nextDue := d.markerAfter m.point m.ahead } } : Dev).missMarker := by
  rw [Dev.judgeDue, hm]
  simp [Dev.overdue, h, hk, hl, hw]

theorem Dev.judgeDue_windowed (h : d.odo.window.isSome = true) : d.judgeDue = d := by
  unfold Dev.judgeDue
  split
  · obtain ⟨w, hw⟩ := Option.isSome_iff_exists.mp h
    simp [hw]
  · rfl

theorem Dev.judgeDue_none (h : d.odo.nextDue = none) : d.judgeDue = d := by
  rw [Dev.judgeDue, h]

/-- What lies ahead depends on the map, the route, the claims and the peers alone. -/
theorem Dev.markerAfter_congr {e : Dev} (ht : e.tmp = d.tmp) (ho : e.stc.order = d.stc.order) (hc : e.cle = d.cle) (hp : e.peers = d.peers)
    (p : Point) (x : Int) : e.markerAfter p x = d.markerAfter p x := by
  have hroute : e.routeEntries = d.routeEntries := by rw [Dev.routeEntries, ho]; rfl
  have htoe : e.toeLegs = d.toeLegs := by
    funext n
    unfold Dev.toeLegs Dev.reportedLeg Dev.peer
    rw [ht, hc, hp]
  rw [Dev.markerAfter, ht, hroute, htoe]
  rfl

theorem Dev.slipTest_shown (d : Dev) (b : Bool) : (d.slipTest b).tmp = d.tmp ∧ (d.slipTest b).stc.order = d.stc.order
    ∧ (d.slipTest b).cle = d.cle ∧ (d.slipTest b).peers = d.peers := by
  unfold Dev.slipTest
  split
  · simp only
    split
    · have horders := Dev.raise_orders_of_halt (k := .slip) rfl
        ({ d.bump .slipSamples with odo := { (d.bump .slipSamples).odo with slipRun := 0 } } : Dev)
      obtain ⟨fs, b, x, y, l, cs, heq, -⟩ :=
        ({ d.bump .slipSamples with odo := { (d.bump .slipSamples).odo with slipRun := 0 } } : Dev).raise_changes (k := .slip) (by decide)
      refine ⟨?_, (congrArg Prod.fst horders :), ?_, ?_⟩ <;> rw [heq] <;> rfl
    · exact ⟨rfl, rfl, rfl, rfl⟩
  · exact ⟨rfl, rfl, rfl, rfl⟩

/-! ### A loss by itself enters no fault (R38) -/

/-- No fault is active but as it was before, repeats and place included. -/
def Dev.fewerFaults (d e : Dev) : Prop := ∀ y ∈ e.faults, y ∈ d.faults

theorem Dev.fewerFaults_of_eq {e : Dev} (h : e.faults = d.faults) : d.fewerFaults e := fun _ hy => h ▸ hy

theorem Dev.fewerFaults_trans {e x : Dev} (h : d.fewerFaults e) (h' : e.fewerFaults x) : d.fewerFaults x := fun y hy => h y (h' y hy)

theorem Dev.fewerFaults_tidyDeadlock (d : Dev) : d.fewerFaults d.tidyDeadlock :=
  ite_keeps (P := d.fewerFaults) (fun _ => ite_keeps (P := d.fewerFaults) (fun _ _ hf => List.mem_of_mem_filter hf) (fun _ _ hf => hf))
    (fun _ _ hf => hf)

theorem Dev.fewerFaults_endDeadlock (d : Dev) : d.fewerFaults d.endDeadlock :=
  ite_keeps (P := d.fewerFaults) (fun _ => ite_keeps (P := d.fewerFaults) (fun _ _ hf => List.mem_of_mem_filter hf) (fun _ _ hf => hf))
    (fun _ _ hf => hf)

theorem Dev.abandon_faults (d : Dev) (c : Claim) : (d.abandon c).faults = d.faults := by
  unfold Dev.abandon
  split
  · obtain ⟨q, y, heq⟩ := d.withdraw_line _
    rw [heq]
  all_goals rfl

theorem Dev.enqueue_faults (d : Dev) (k : FrameKind) (dst : Nat) (b : List Byte) (t : Option Nat) :
    (d.enqueue k dst b t).1.faults = d.faults := by
  obtain ⟨q, y, cs, heq⟩ := d.enqueue_line k dst b t
  rw [heq]

theorem Dev.sendRelease_faults (d : Dev) (l : List Nat) : (d.sendRelease l).faults = d.faults := by
  unfold Dev.sendRelease
  split
  · rfl
  · exact Dev.enqueue_faults _ _ _ _ _

theorem Dev.announceRelease_faults (d : Dev) (l : List Nat) : (d.announceRelease l).faults = d.faults := by
  unfold Dev.announceRelease
  split
  · rfl
  · exact d.sendRelease_faults l

theorem Dev.fewerFaults_dropClaims (d : Dev) (p : Claim → Bool) : d.fewerFaults (d.dropClaims p) := by
  have hfold : ((d.cle.table.filter p).foldl Dev.abandon d).faults = d.faults :=
    foldl_keeps (P := fun e => e.faults = d.faults) (fun e c he => (e.abandon_faults c).trans he) _ _ rfl
  exact Dev.fewerFaults_trans (Dev.fewerFaults_of_eq (e := { (d.cle.table.filter p).foldl Dev.abandon d with
    cle := { ((d.cle.table.filter p).foldl Dev.abandon d).cle with
      table := ((d.cle.table.filter p).foldl Dev.abandon d).cle.table.filter (fun (e : Claim) => !p e) } }) hfold)
    (Dev.fewerFaults_tidyDeadlock _)

theorem Dev.fewerFaults_releaseClaims (d : Dev) (p : Claim → Bool) : d.fewerFaults (d.releaseClaims p) :=
  Dev.fewerFaults_trans (e := ({ d with cle := { d.cle with
      table := d.cle.table.filter (fun (e : Claim) => !(e.isHeld && p e)) } } : Dev).announceRelease _)
    (Dev.fewerFaults_of_eq (Dev.announceRelease_faults _ _)) (Dev.fewerFaults_tidyDeadlock _)

theorem Dev.fewerFaults_event {act : Dev → Dev} (h : ∀ e : Dev, e.fewerFaults (act e)) (d : Dev) : d.fewerFaults (Dev.event act d) :=
  Dev.fewerFaults_trans (h { d with cle := { d.cle with gathering := some [] } })
    (Dev.fewerFaults_of_eq ((Dev.sendRelease_faults _ _).trans (Dev.sendRelease_faults _ _)))

theorem Dev.fewerFaults_claimsAtStandstill (d : Dev) : d.fewerFaults d.claimsAtStandstill :=
  ite_keeps (P := d.fewerFaults) (fun _ => Dev.fewerFaults_trans (d.fewerFaults_releaseClaims _) (Dev.fewerFaults_dropClaims _ _))
    (fun _ _ hf => hf)

theorem Dev.fewerFaults_claimsOrderEnd (d : Dev) : d.fewerFaults d.claimsOrderEnd := by
  refine Dev.fewerFaults_event (fun e => ?_) d
  have hended : e.fewerFaults e.dropUnheld.endDeadlock := Dev.fewerFaults_trans (e.fewerFaults_dropClaims _) (Dev.fewerFaults_endDeadlock _)
  simp only
  split
  · exact Dev.fewerFaults_trans hended (Dev.fewerFaults_claimsAtStandstill _)
  · exact hended

theorem Dev.dockOrderEnd_faults (d : Dev) : d.dockOrderEnd.faults = d.faults := by
  obtain ⟨w, hw⟩ := d.dockOrderEnd_changes
  rw [hw]

theorem Dev.fewerFaults_endOrder (d : Dev) (o : OrderOutcome) (k : Option FaultKind) : d.fewerFaults (d.endOrder o k) := by
  cases h : d.stc.order with
  | none =>
    rw [Dev.endOrder_none h]
    exact fun _ hf => hf
  | some ord =>
    rw [Dev.endOrder, h]
    intro y hy
    simp only at hy
    rw [Dev.dockOrderEnd_faults] at hy
    have hclosed := Dev.fewerFaults_claimsOrderEnd _ y hy
    exact Dev.enqueue_faults d .orderReport ord.console (orderReportPayload .moveOrder ord.id (o.report k)) none ▸ hclosed

theorem Dev.enterHalted_faults (d : Dev) (r : Remembered) : (d.enterHalted r).faults = d.faults := by
  obtain ⟨b, k, x, t, cs, heq⟩ := d.enterHalted_changes r
  rw [heq]

theorem Dev.leaveSafeStop_faults (d : Dev) : d.leaveSafeStop.faults = d.faults := by
  unfold Dev.leaveSafeStop
  split
  · exact Dev.enterState_faults _ _
  · rfl

theorem Dev.stateAfterFailure_faults (d : Dev) : d.stateAfterFailure.faults = d.faults := by
  unfold Dev.stateAfterFailure
  split
  iterate 3 exact d.enterHalted_faults _
  · rfl
  · exact Dev.enterState_faults _ _
  · exact d.leaveSafeStop_faults
  all_goals rfl

theorem Dev.fewerFaults_failOrder (d : Dev) (k : FaultKind) : d.fewerFaults (d.failOrder k) :=
  ite_keeps (P := d.fewerFaults)
    (fun _ => Dev.fewerFaults_trans (d.fewerFaults_endOrder _ _) (Dev.fewerFaults_of_eq (Dev.stateAfterFailure_faults _))) (fun _ _ hf => hf)

theorem Dev.fewerFaults_failDocking (d : Dev) (c : DockCause) (k : FaultKind) : d.fewerFaults (d.failDocking c k) := by
  obtain ⟨cs, w, heq⟩ := d.failDocking_changes c k
  rw [heq]
  exact Dev.fewerFaults_failOrder _ k

theorem Dev.fewerFaults_dockUnknown (d : Dev) (k : FaultKind) : d.fewerFaults (d.dockUnknown k) := by
  unfold Dev.dockUnknown
  split
  iterate 4 exact Dev.fewerFaults_failDocking _ _ _
  all_goals exact fun _ hf => hf

theorem Dev.fewerFaults_stationUnknown (d : Dev) (k : FaultKind) : d.fewerFaults (d.stationUnknown k) := by
  unfold Dev.stationUnknown
  simp only
  split
  · exact Dev.fewerFaults_failOrder { d with stc := { d.stc with parkedPad := none } } _
  · split
    iterate 2 exact Dev.fewerFaults_of_eq (Dev.enterState_faults _ _)
    all_goals exact fun _ hf => hf

theorem Dev.fewerFaults_losePosition (d : Dev) (k : FaultKind) : d.fewerFaults (d.losePosition k) := by
  refine ite_keeps (P := d.fewerFaults) (fun _ => ?_) (fun _ _ hf => hf)
  have hclaims : d.fewerFaults (({ d with odo := d.odo.forget } : Dev).claimsUnknown.superviseUnknown) :=
    Dev.fewerFaults_dropClaims { d with odo := d.odo.forget } _
  exact Dev.fewerFaults_trans hclaims (Dev.fewerFaults_trans (Dev.fewerFaults_dockUnknown _ k) (Dev.fewerFaults_stationUnknown _ k))

end

section
variable {d : Dev}

/-- What the timed stage of a sample that keeps the position has of ODO. -/
theorem Dev.sampleTimed_kept (hk : d.odo.known = true) (h : d.carriesWell) : ∃ (run zrun : Nat) (hist : List Nat) (st : Bool),
    d.sampleTimed.odo = { d.carriedOdo with slipRun := run, history := hist, zeroRun := zrun, standstill := st } := by
  rw [Dev.sampleTimed_odo, Dev.sampleCarried_odo hk h]
  exact ⟨_, _, _, _, rfl⟩

theorem Dev.odoSample_of_moving (h : d.sampleStops = false ∨ d.sampleWindowed.odo.pos.pendingLoss = false) :
    d.odoSample = d.sampleWindowed.judgeDue := by
  rw [Dev.odoSample_eq]
  obtain h | h := h <;> simp [h]

theorem Dev.odoSample_of_loss (h : d.sampleStops = true) (hl : d.sampleWindowed.odo.pos.pendingLoss = true) :
    d.odoSample = (d.sampleWindowed.losePosition .unexpectedMarker).judgeDue := by
  rw [Dev.odoSample_eq, h, hl]
  rfl

theorem Dev.odoSample_unknown (h : d.sampleStops = true) (hl : d.sampleWindowed.odo.pos.pendingLoss = true) :
    d.odoSample.odo.pos.validity = .unknown := by
  rw [Dev.odoSample_of_loss h hl, Dev.judgeDue_pos]
  by_cases hk : d.sampleWindowed.odo.known = true
  · rw [(Dev.losePosition_lost hk _).odo]
    rfl
  · rw [Dev.losePosition, if_neg hk]
    simpa [Odo.known] using hk

/-- A sample without counts is no slip sample. -/
theorem Dev.slipSample_of_still (hA : d.odo.chA.net = 0) (hB : d.odo.chB.net = 0) : d.slipSample = false := by
  rw [Dev.slipSample, Option.any_eq_false]
  intro z hz
  rw [Bool.eq_false_iff]
  intro hs
  obtain ⟨⟨hhA, hhB⟩, hlt, -⟩ := (Dev.slips_iff rfl rfl z.2).mp hs
  unfold Dev.advance at hz
  simp only [hhA, hhB, hA, hB, zero_mul, sub_zero, Option.some.injEq] at hz
  subst hz
  simp at hlt

theorem Dev.slipTest_false (d : Dev) : d.slipTest false = { d with odo := { d.odo with slipRun := 0 } } := rfl

theorem Dev.sampleCarried_faults (hk : d.odo.known = true) (h : d.carriesWell) : d.sampleCarried.faults = d.faults := by
  cases hadv : d.advance with
  | none =>
    rw [Dev.sampleCarried_none hadv]
    rfl
  | some z =>
    obtain ⟨hreach, hcap⟩ := h z hadv
    rw [Dev.sampleCarried_some hadv, Dev.carrySample_reached (d := d.sampleBegun) hk hreach hcap]
    rfl

theorem Dev.sampleTimed_shown (hk : d.odo.known = true) (h : d.carriesWell) (p : Point) (x : Int) :
    d.sampleTimed.markerAfter p x = d.markerAfter p x := by
  have hcarried : d.sampleCarried.tmp = d.tmp ∧ d.sampleCarried.stc.order = d.stc.order ∧ d.sampleCarried.cle = d.cle
      ∧ d.sampleCarried.peers = d.peers := by
    cases hadv : d.advance with
    | none =>
      rw [Dev.sampleCarried_none hadv]
      exact ⟨rfl, rfl, rfl, rfl⟩
    | some z =>
      obtain ⟨hreach, hcap⟩ := h z hadv
      rw [Dev.sampleCarried_some hadv, Dev.carrySample_reached (d := d.sampleBegun) hk hreach hcap]
      exact ⟨rfl, rfl, rfl, rfl⟩
  obtain ⟨ht, ho, hc, hp⟩ := hcarried
  obtain ⟨ht', ho', hc', hp'⟩ := d.sampleCarried.slipTest_shown d.slipSample
  rw [← Dev.sampleSlip_eq] at ht' ho' hc' hp'
  exact Dev.markerAfter_congr (ht'.trans ht) (ho'.trans ho) (hc'.trans hc) (hp'.trans hp) p x

end

/-- Settles O11: the window, the pending loss and the marker due, each at the timed stage of a sample that keeps the position. -/
theorem sampleTakesTheWindowAndTheMarkerDue : Obligations.SampleTakesTheWindowAndTheMarkerDue := by
  intro s d o ha hdue hvalid delta growth hgood
  obtain ⟨cl, hun, hcarry, hmarker⟩ := d.unmarkRetry_changes
  obtain ⟨u, hu⟩ : ∃ u : Dev, u = { d with cle := cl } := ⟨_, rfl⟩
  rw [← hu] at hun
  have hadv : u.advance = d.advance := by rw [hu]; rfl
  have hknown : u.odo.known = true := (Odo.known_iff _).mpr (by rw [hu]; exact hvalid)
  have hcar (p : Point) (x : Int) : u.sampleBegun.carry p x = d.carry p x := by rw [hu]; exact hcarry p x
  have hrec (z : Int × Nat) : u.sampleBegun.carriedRecord z.1 z.2 = { o.pos with
      sec := (d.carry o.pos.point z.1).last.sec, leg := (d.carry o.pos.point z.1).last.leg
      offset := (d.carry o.pos.point z.1).last.offset, dir := (d.carry o.pos.point z.1).last.dir, idx := (d.carry o.pos.point z.1).last.idx
      travelled := o.pos.travelled + z.1.natAbs, disagreement := o.pos.disagreement + z.2
      unc := o.pos.uAnchor + ((o.pos.travelled + z.1.natAbs) * growth + 999) / 1000 + (o.pos.disagreement + z.2 + 1) / 2 } := by
    rw [Dev.carriedRecord, hcar, Dev.uncertainty, Dev.growth_eq, hu]
    rfl
  have hwell : u.carriesWell := fun z hz => by
    rw [hcar, hrec]
    obtain ⟨h1, h2⟩ := hgood z (hadv ▸ hz)
    exact ⟨by rw [hu]; exact h1, h2⟩
  obtain ⟨run, zrun, hist, st, htimed⟩ := Dev.sampleTimed_kept hknown hwell
  obtain ⟨hwin, hloss, hval, hmiss, hsing, hnext⟩ := u.carriedOdo_kept
  have hx : u.odoSample.odo.standstill = u.sampleTimed.odo.standstill :=
    (congrArg (fun y : Dev => y.odo.standstill) u.odoSample_still :)
  have hstops : u.sampleStops = true ↔ o.standstill = false ∧ u.odoSample.odo.standstill = true := by
    rw [Dev.sampleStops, hx, show u.odo.standstill = o.standstill by rw [hu]]
    simp [and_comm]
  have htw : u.sampleTimed.odo.window = o.window := by rw [htimed]; exact hwin.trans (by rw [hu])
  have htl : u.sampleTimed.odo.pos.pendingLoss = o.pos.pendingLoss := by rw [htimed]; exact hloss.trans (by rw [hu])
  have htk : u.sampleTimed.odo.known = true := by
    rw [Odo.known_iff, htimed]
    exact fun hv => (Odo.known_iff _).mp hknown (hval.symm.trans hv)
  refine ⟨u.odoSample, _, (exec_odometrySample s ha hdue).trans ?_, rfl, fun w hw => ⟨fun ht hns => ?_, fun hc => ?_⟩,
    fun hw hl hs => ?_, fun m hw hl hm => ?_⟩
  · show Host.Outcome.next { s with dev := ((d.unmarkRetry.odoSample).claimsSample _).standstillChanged _ } = _
    rw [hun]
  · have hns' : u.sampleStops = false := Bool.eq_false_iff.mpr (fun h => hns (hstops.mp h))
    have hwindowed : u.sampleWindowed
        = { u.sampleTimed with odo := { u.sampleTimed.odo with window := some (w.sampled delta) } } := by
      rw [Dev.sampleWindowed, hns', hadv]
      exact Dev.windowSample_goes (htw.trans hw) ht
    rw [Dev.odoSample_of_moving (.inl hns'), hwindowed, Dev.judgeDue_windowed rfl]
    rfl
  · have hwindowed : u.sampleWindowed
        = ({ u.sampleTimed with odo := { u.sampleTimed.odo with window := none } } : Dev).detect (u.sampleTimed.singleOf (w.sampled delta)) := by
      rw [Dev.sampleWindowed, hadv]
      exact Dev.windowSample_closes (htw.trans hw) (hc.imp_right hstops.mpr) u.sampleTimed_advance
    have hnone : u.sampleWindowed.odo.window = none := by
      rw [hwindowed]
      exact detectWork_windowless.detect _ rfl
    refine ⟨?_, { u.sampleTimed with odo := { u.sampleTimed.odo with window := none } }, u.sampleTimed.leadOver w.snap, rfl, ?_,
      fun hn => ⟨?_, ?_⟩, fun a hsome => ⟨?_, ?_⟩, fun hns => ?_, fun hs => ?_⟩
    · rw [Dev.odoSample_eq]
      exact detectWork_windowless.judgeDue (ite_keeps (P := fun e => e.odo.window = none)
        (fun _ => detectWork_windowless.losePosition _ hnone) (fun _ => hnone))
    · show (u.sampleTimed.odo.unpaired, u.sampleTimed.odo.missingSide) = _
      rw [htimed]
      exact hsing.trans (by rw [hu])
    · show u.sampleTimed.odo.pos = _
      rw [htimed, Dev.carriedOdo, hadv, hn, hu]
      rfl
    · show u.sampleTimed.odo.nextDue = _
      rw [htimed, Dev.carriedOdo, hadv, hn, hu]
      rfl
    · show u.sampleTimed.odo.pos = _
      rw [htimed, ← hrec, Dev.carriedOdo, hadv, hsome]
    · show u.sampleTimed.odo.nextDue = _
      rw [htimed]
      refine hnext.trans ?_
      rw [hadv, hsome, show u.odo.nextDue = o.nextDue by rw [hu]]
      rfl
    · refine (Dev.odoSample_of_moving ?_).trans (congrArg Dev.judgeDue hwindowed)
      by_cases hstop : u.sampleStops = true
      · refine .inr (Bool.eq_false_iff.mpr fun hpl => hns ⟨hstops.mp hstop, ?_⟩)
        rwa [hwindowed] at hpl
      · exact .inl (Bool.eq_false_iff.mpr hstop)
    · have hwl : u.sampleWindowed.odo.pos.pendingLoss = true := by
        rw [hwindowed]
        exact hs.2
      exact Dev.odoSample_unknown (hstops.mpr hs.1) hwl
  · have hwindowed : u.sampleWindowed = u.sampleTimed := Dev.windowSample_none (htw.trans hw)
    have hloses := Dev.odoSample_of_loss (hstops.mpr hs) (by rw [hwindowed]; exact htl.trans hl)
    have hlost := Dev.losePosition_lost htk .unexpectedMarker
    rw [hwindowed, Dev.judgeDue_none (by rw [hlost.odo]; rfl)] at hloses
    rw [hloses, hlost.odo]
    refine ⟨rfl, rfl, fun hA hB => ?_⟩
    have hfaults : u.sampleTimed.faults = d.faults := by
      have hslip : u.slipSample = false := Dev.slipSample_of_still (by rw [hu]; exact hA) (by rw [hu]; exact hB)
      show u.sampleSlip.faults = _
      rw [Dev.sampleSlip_eq, hslip]
      exact (Dev.sampleCarried_faults hknown hwell).trans (by rw [hu])
    exact fun f hf => hfaults ▸ Dev.fewerFaults_losePosition u.sampleTimed _ f hf
  · have hwindowed : u.sampleWindowed = u.sampleTimed := Dev.windowSample_none (htw.trans hw)
    have hmoving := Dev.odoSample_of_moving (d := u) (.inr (by rw [hwindowed]; exact htl.trans hl))
    rw [hwindowed] at hmoving
    have hdue : u.sampleTimed.odo.nextDue = some { m with ahead := m.ahead - delta } := by
      rw [htimed]
      refine hnext.trans ?_
      rw [hadv, show u.odo.nextDue = some m by rw [hu]; exact hm]
      rfl
    have hpos : u.odoSample.odo.pos = u.sampleTimed.odo.pos := by rw [hmoving, Dev.judgeDue_pos]
    have hrun : u.sampleTimed.odo.missedRun = o.missedRun := by rw [htimed]; exact hmiss.trans (by rw [hu])
    rw [hpos]
    refine ⟨fun hin => ?_, fun hout => ?_⟩
    · rw [hmoving, Dev.judgeDue_kept hdue hin]
      exact ⟨hdue, hrun⟩
    · rw [hmoving, Dev.judgeDue_missed hdue htk (htl.trans hl) (htw.trans hw) hout, Dev.missMarker_odo]
      refine ⟨?_, fun h0 => ?_, fun h0 => ⟨?_, ?_⟩⟩
      · show u.sampleTimed.markerAfter _ _ = _
        rw [Dev.sampleTimed_shown hknown hwell, hu]
        exact hmarker _ _
      · show (if 1 ≤ u.sampleTimed.odo.missedRun then 0 else u.sampleTimed.odo.missedRun + 1) = 1
        rw [hrun, h0]
        rfl
      · show (if 1 ≤ u.sampleTimed.odo.missedRun then 0 else u.sampleTimed.odo.missedRun + 1) = 0
        rw [hrun, if_pos (Nat.one_le_iff_ne_zero.mpr h0)]
      · rw [Dev.missMarker_active]
        have h1 : 1 ≤ u.sampleTimed.odo.missedRun := by rw [hrun]; exact Nat.one_le_iff_ne_zero.mpr h0
        simp only [h1, decide_true, Bool.true_and, beq_self_eq_true, Bool.true_or]

end Sys2Proof.Machine

/-! SUPPORT. A closed detection: what it counts, which marker it is matched with, and the record it leaves (R30 to R33). -/

namespace Sys2Proof.Machine

section
variable {d : Dev}

/-! ### The unpaired count (R30) -/

/-- The count of singles and their missing side after a detection (R30). -/
def Odo.unpairedAfter (o : Odo) (x : Detection) : Nat × ReaderSide :=
  if x.paired then (0, o.missingSide)
  else if o.missingSide = otherSide x.side ∨ o.unpaired = 0 then (min 3 (o.unpaired + 1), otherSide x.side)
  else (1, otherSide x.side)

/-- A single detection, counted on its missing side. -/
def Dev.singleCounted (d : Dev) (r : ReaderSide) (n : Nat) : Dev :=
  { d.bump (sideCounter r) with odo := { d.odo with unpaired := n, missingSide := r } }

theorem Dev.countDetection_more {x : Detection} (hp : x.paired = false) (h : d.odo.missingSide = otherSide x.side ∨ d.odo.unpaired = 0) :
    d.countDetection x = if min 3 (d.odo.unpaired + 1) = 3
      then (d.singleCounted (otherSide x.side) (min 3 (d.odo.unpaired + 1))).raise .markerReader
      else d.singleCounted (otherSide x.side) (min 3 (d.odo.unpaired + 1)) := by
  have hcond : (decide ((d.bump (sideCounter (otherSide x.side))).odo.missingSide = otherSide x.side)
      || decide ((d.bump (sideCounter (otherSide x.side))).odo.unpaired = 0)) = true := by
    rw [Bool.or_eq_true, decide_eq_true_iff, decide_eq_true_iff]
    exact h
  unfold Dev.countDetection
  rw [if_neg (by simp [hp])]
  simp only
  rw [if_pos hcond]
  rfl

theorem Dev.countDetection_first {x : Detection} (hp : x.paired = false) (h : ¬(d.odo.missingSide = otherSide x.side ∨ d.odo.unpaired = 0)) :
    d.countDetection x = d.singleCounted (otherSide x.side) 1 := by
  have hcond : ¬(decide ((d.bump (sideCounter (otherSide x.side))).odo.missingSide = otherSide x.side)
      || decide ((d.bump (sideCounter (otherSide x.side))).odo.unpaired = 0)) = true := by
    rw [Bool.or_eq_true, decide_eq_true_iff, decide_eq_true_iff]
    exact h
  unfold Dev.countDetection
  rw [if_neg (by simp [hp])]
  simp only
  rw [if_neg hcond]
  rfl

theorem Dev.countDetection_changes (d : Dev) (x : Detection) : ∃ (l : Lif) (fs : List FaultEntry) (cs : List (BitVec 16)),
    d.countDetection x = { d with
      odo := { d.odo with unpaired := (d.odo.unpairedAfter x).1, missingSide := (d.odo.unpairedAfter x).2 }
      lif := l, faults := fs, counters := cs }
    ∧ (x.paired = false → (d.odo.unpairedAfter x).1 = 3 → kindIn fs .markerReader = true) := by
  cases hp : x.paired with
  | true =>
    have hafter : d.odo.unpairedAfter x = (0, d.odo.missingSide) := by rw [Odo.unpairedAfter, if_pos hp]
    rw [Dev.countDetection, if_pos hp, hafter]
    exact ⟨d.lif, d.faults, d.counters, rfl, fun h => absurd h (by simp)⟩
  | false =>
    by_cases hs : d.odo.missingSide = otherSide x.side ∨ d.odo.unpaired = 0
    · have hafter : d.odo.unpairedAfter x = (min 3 (d.odo.unpaired + 1), otherSide x.side) := by
        rw [Odo.unpairedAfter, if_neg (by simp [hp]), if_pos hs]
      rw [Dev.countDetection_more hp hs, hafter]
      by_cases h3 : min 3 (d.odo.unpaired + 1) = 3
      · obtain ⟨fs, b, cs, heq, hin⟩ :=
          (d.singleCounted (otherSide x.side) (min 3 (d.odo.unpaired + 1))).enterFault_changes .markerReader
        rw [if_pos h3, Dev.raise_of_warn rfl, heq]
        exact ⟨_, fs, cs, rfl, fun _ _ => (hin _).trans (by simp)⟩
      · rw [if_neg h3]
        exact ⟨_, _, _, rfl, fun _ h => absurd h h3⟩
    · have hafter : d.odo.unpairedAfter x = (1, otherSide x.side) := by
        rw [Odo.unpairedAfter, if_neg (by simp [hp]), if_neg hs]
      rw [Dev.countDetection_first hp hs, hafter]
      exact ⟨_, _, _, rfl, fun _ h => absurd h (show ¬(1 : Nat) = 3 by decide)⟩

/-! ### The match (R31) -/

theorem markerCandidates_near {secs : List SectionRec} {route : List RouteEntry} {p : Point} {u : Nat} {m : MarkerAt}
    (h : m ∈ markerCandidates secs route p u) : m.dist ≤ u := by
  have := (sortBy_perm _ _).mem_iff.mp h
  simpa using (List.mem_filter.mp this).2

/-- The key by which candidates stand: the nearest first, one ahead before one behind (R31). -/
def MarkerAt.key (m : MarkerAt) : Nat := 2 * m.dist + (!m.ahead).toNat

/-- Of candidates in their order, the nearest with no equal on its side is the one matched (R31). -/
theorem Dev.matched_nearest {l : List MarkerAt} {m : MarkerAt} (hsort : (l.map MarkerAt.key).Pairwise (· ≤ ·)) (hm : m ∈ l)
    (hnear : ∀ n ∈ l, m.dist ≤ n.dist) (htie : ∀ n ∈ l, n.dist = m.dist → n = m ∨ (m.ahead = true ∧ n.ahead = false))
    (hone : l.count m = 1) : d.matched l = (d, some m) := by
  match l with
  | [] => cases hm
  | [n] => rw [List.mem_singleton.mp hm]; rfl
  | n :: y :: rest =>
    have hfirst : n = m := by
      rcases List.mem_cons.mp hm with h | h
      · exact h.symm
      · have hkey : n.key ≤ m.key := (List.pairwise_cons.mp hsort).1 _ (List.mem_map_of_mem h)
        have hdist := hnear n List.mem_cons_self
        have hle : n.dist = m.dist := by
          unfold MarkerAt.key at hkey
          cases hn : n.ahead <;> cases hm' : m.ahead <;> simp [hn, hm'] at hkey <;> omega
        rcases htie n List.mem_cons_self hle with h | ⟨ha, hb⟩
        · exact h
        · unfold MarkerAt.key at hkey
          simp [ha, hb, hle] at hkey
    subst hfirst
    have hother : ¬(n.dist = y.dist ∧ n.ahead = y.ahead) := by
      rintro ⟨hd, ha⟩
      rcases htie y (List.mem_cons_of_mem _ List.mem_cons_self) hd.symm with h | ⟨h1, h2⟩
      · subst h
        simp at hone
      · rw [h1, h2] at ha
        cases ha
    unfold Dev.matched
    simp only [Bool.and_eq_true, decide_eq_true_eq, beq_iff_eq]
    rw [if_neg hother]

theorem Dev.carrySign_of {x : Detection} (h : x.travel = 0 ∨ x.net ≠ 0) :
    d.carrySign x = (d, if x.net < 0 then -(x.travel : Int) else x.travel) := by
  unfold Dev.carrySign
  by_cases h0 : x.travel = 0
  · simp [h0]
  · rcases lt_trichotomy x.net 0 with hn | hn | hn
    · simp [h0, hn, hn.le]
    · exact absurd (h.resolve_left h0) (by simp [hn])
    · simp [h0, hn, hn.not_gt]

/-! ### The record after a match, and after none (R31, R32) -/

/-- A detection that is matched or not, once it is counted. -/
theorem Dev.detect_of (hk : d.odo.known = true) (x : Detection) : d.detect x =
    if (d.countDetection x).odo.pos.pendingLoss || !(d.countDetection x).odo.known then d.countDetection x
    else
      let c := d.countDetection x
      let r := c.matched (markerCandidates c.tmp.sections c.routeEntries x.point c.uncNow)
      match r.2 with
      | some m => r.1.anchorMarker x m
      | none => r.1.unexpectedMarker c.uncNow ((c.advance.getD (0, 0)).1.natAbs) (c.advance.getD (0, 0)).2 := by
  rw [Dev.detect, if_neg (by simp [hk])]
  rfl

theorem Dev.unexpectedMarker_changes (hk : d.odo.known = true) (u t x : Nat) : ∃ y : Dev, d.unexpectedMarker u t x = y.recompute t x
    ∧ y.odo.pos = { d.odo.pos with uAnchor := d.odo.pos.uAnchor + u, pendingLoss := true } ∧ y.faultActive .unexpectedMarker = true := by
  have hodo : ((d.bump .unexpectedMarkers).raise .unexpectedMarker).odo = d.odo := Dev.raise_odo (by decide) _
  rw [Dev.unexpectedMarker]
  simp only
  rw [if_pos (by rw [hodo]; exact hk)]
  refine ⟨_, rfl, ?_, ?_⟩
  · rw [hodo]
    rfl
  · exact (Dev.raise_active (k := .unexpectedMarker) (by decide) _ _).trans (by simp)

theorem Dev.anchorAt_reached {p : Point} {delta : Int} {t u n : Nat} (hw : (d.carry p delta).stop = .reached)
    (hn : d.uncertainty u t 0 = n) (hcap : n < Config.uncertaintyCap) : d.anchorAt p delta t u
      = d.placeRecord { d.odo.pos.placed (d.carry p delta).last with
        validity := .known, uAnchor := u, travelled := t, disagreement := 0, unc := n } := by
  rw [Dev.anchorAt]
  simp only [hw, bne_self_eq_false, Bool.false_eq_true, if_false]
  rw [Dev.recompute_within (u := n) rfl hn hcap]
  rfl

theorem Dev.judgedBefore_pos (d : Dev) (n : Option MarkerDue) (p : Point) (x : Int) : (d.judgedBefore n p x).odo.pos = d.odo.pos := by
  unfold Dev.judgedBefore
  split
  · exact foldl_keeps (P := fun e => e.odo.pos = d.odo.pos) (fun e _ he => ite_keeps (P := fun e => e.odo.pos = d.odo.pos)
      (fun _ => by rw [Dev.missMarker_odo, he]) (fun _ => he)) _ _ rfl
  · rfl

theorem Dev.passMarker_kept (d : Dev) (p : Point) : (d.passMarker p).odo.pos = d.odo.pos ∧ (d.passMarker p).odo.missedRun = d.odo.missedRun := by
  unfold Dev.passMarker
  split
  · split <;> exact ⟨rfl, rfl⟩
  · exact ⟨rfl, rfl⟩

end

/-- Settles O13: a detection counted, then unexpected, or matched with the first of its candidates. -/
theorem detectionsAreMatched : Obligations.DetectionsAreMatched := by
  intro d x hvalid p c car missing growth now u found
  have hk : d.odo.known = true := (Odo.known_iff _).mpr hvalid
  obtain ⟨l, fs, cs, hcount, hthree⟩ := d.countDetection_changes x
  have hc : c = { d with
      odo := { d.odo with unpaired := (d.odo.unpairedAfter x).1, missingSide := (d.odo.unpairedAfter x).2 }
      lif := l, faults := fs, counters := cs } := hcount
  have hpos : c.odo.pos = p := by rw [hc]
  have hck : c.odo.known = true := by rw [hc]; exact hk
  have hunc : c.uncNow = u := by
    rw [hc, Dev.uncNow, Dev.uncertainty, Dev.growth_eq]
    rfl
  have hfound : markerCandidates c.tmp.sections c.routeEntries x.point c.uncNow = found := by rw [hunc, hc]; rfl
  have hadv : c.advance = d.advance := by rw [hc]; rfl
  have hafter : (c.odo.unpaired, c.odo.missingSide) = d.odo.unpairedAfter x := by rw [hc]
  have hdetect := Dev.detect_of hk x
  have hopen (hl : p.pendingLoss = false) : ((d.countDetection x).odo.pos.pendingLoss || !(d.countDetection x).odo.known) = false := by
    show (c.odo.pos.pendingLoss || !c.odo.known) = false
    rw [hpos, hl, hck]
    rfl
  refine ⟨hpos, fun hp => ?_, fun hp => ⟨?_, fun hs => ?_, fun hs hz => ?_, fun h3 => ?_⟩, fun hl => ?_, fun hl hnil => ?_,
    fun m hm => markerCandidates_near hm, ?_⟩
  · rw [Odo.unpairedAfter, if_pos hp] at hafter
    exact congrArg Prod.fst hafter
  · rw [Odo.unpairedAfter, if_neg (by simp [hp])] at hafter
    split at hafter
    · exact congrArg Prod.snd hafter
    · exact congrArg Prod.snd hafter
  · rw [Odo.unpairedAfter, if_neg (by simp [hp]), if_pos hs] at hafter
    exact congrArg Prod.fst hafter
  · rw [Odo.unpairedAfter, if_neg (by simp [hp]), if_neg (not_or_intro hs hz)] at hafter
    exact congrArg Prod.fst hafter
  · have hkind := hthree hp ((congrArg Prod.fst hafter).symm.trans h3)
    rw [hc]
    exact hkind
  · rw [hdetect, if_pos]
    show (c.odo.pos.pendingLoss || !c.odo.known) = true
    rw [hpos, hl]
    rfl
  · rw [if_neg (by rw [hopen hl]; simp)] at hdetect
    obtain ⟨y, hy, hypos, hyact⟩ := Dev.unexpectedMarker_changes hck u now.1.natAbs now.2
    refine ⟨y, hdetect.trans ?_, by rw [hypos, hpos], hyact⟩
    show (match (c.matched (markerCandidates c.tmp.sections c.routeEntries x.point c.uncNow)).2 with
      | some m => _
      | none => _) = _
    rw [hfound, hnil, hunc, hadv]
    exact hy
  · intro m hm hl hnear htie hone hsign w anchor unc hreach hcap
    rw [if_neg (by rw [hopen hl]; simp)] at hdetect
    have hmatched : c.matched found = (c, some m) := Dev.matched_nearest (sortBy_sorted _ _) hm hnear htie hone
    have hw : c.carry m.point (if x.net < 0 then -(x.travel : Int) else x.travel) = w := by rw [hc]; rfl
    have hplaced : c.reanchored x m = (c.placeRecord { c.odo.pos.placed w.last with
        validity := .known, uAnchor := anchor, travelled := x.travel, disagreement := 0, unc := unc }).bump .markerAnchors := by
      have hu : c.uncertainty anchor x.travel 0 = unc := by rw [hc, Dev.uncertainty, Dev.growth_eq]; rfl
      have hanchor : c.markerAnchor x = anchor := by rw [hc]; rfl
      rw [Dev.reanchored, Dev.carrySign_of hsign, hanchor, Dev.anchorAt_reached (n := unc) (by rw [hw]; exact hreach) hu hcap, hw]
    have hanchored : c.anchorMarker x m = ((((c.reanchored x m).judgedBefore (c.dueBefore x m) m.point (c.carrySign x).2).findDue).passMarker
        m.point).claimsAnchored := by
      rw [Dev.anchorMarker_eq, if_pos]
      rw [hplaced]
      rfl
    refine ⟨_, hdetect.trans (Eq.trans ?_ hanchored), ?_, fun hbefore => ?_⟩
    · show (match (c.matched (markerCandidates c.tmp.sections c.routeEntries x.point c.uncNow)).2 with
        | some m => Dev.anchorMarker (c.matched (markerCandidates c.tmp.sections c.routeEntries x.point c.uncNow)).1 x m
        | none => _) = _
      rw [hfound, hmatched]
    · rw [(Dev.passMarker_kept _ _).1]
      show (Dev.judgedBefore _ _ _ _).odo.pos = _
      rw [Dev.judgedBefore_pos, hplaced]
      show { c.odo.pos.placed w.last with
        validity := .known, uAnchor := anchor, travelled := x.travel, disagreement := 0, unc := unc } = _
      rw [hpos]
      rfl
    · rw [(Dev.passMarker_kept _ _).2]
      show (Dev.judgedBefore _ _ _ _).odo.missedRun = _
      have hnone : c.dueBefore x m = none := by
        rw [Dev.dueBefore, Option.filter_eq_none_iff]
        intro n hn
        rw [hc] at hn
        simpa using hbefore n hn
      rw [hnone]
      rfl

end Sys2Proof.Machine

/-! SUPPORT. The marker readers' edges (R29): the midpoint of two snapshots, and the window closed by an edge. -/

namespace Sys2Proof.Machine

section
variable {d : Dev} {p q : Point}

theorem exec_markerEdge (s : State) (side : ReaderSide) : exec (.markerEdge side) s = .next { s with dev := s.dev.markerEdge side } := rfl

/-! ### Halving and the midpoint (R29, log 9) -/

theorem Dev.halved_fst (d : Dev) (n : Nat) : ∃ f : Nat, (d.halved n).1 = { d with freeCount := f } := by
  unfold Dev.halved
  split
  · exact ⟨_, rfl⟩
  · exact ⟨_, rfl⟩

theorem Dev.halved_snd (d : Dev) (n : Nat) : n ≤ 2 * (d.halved n).2 + 1 ∧ 2 * (d.halved n).2 ≤ n + 1 := by
  unfold Dev.halved
  split
  · next h => simp only; omega
  · next h =>
    have := d.freeChoice.toNat_lt
    simp only
    omega

theorem Point.flip_flip (p : Point) : p.flip.flip = p := by
  simp only [Point.flip, Direction.flip_flip]

theorem movedOffset_forward {n : Nat} : movedOffset p n = (p.moved n).toNat := by
  cases hd : p.dir <;> simp [movedOffset, Point.moved, hd] <;> omega

theorem movedOffset_backward {n : Nat} : movedOffset p.flip n = (p.moved (-(n : Int))).toNat := by
  cases hd : p.dir <;> simp [movedOffset, Point.moved, Point.flip, Direction.flip, hd] <;> omega

/-- A point part of the way on, where the way stays in one section: it lies there, or the search does not find it. -/
theorem partWay_inside {secs : List SectionRec} {route : List RouteEntry} {dist n : Nat} (h : n ≤ exitDistance secs p) :
    partWay secs route p q dist n = none ∨ partWay secs route p q dist n = some { p with offset := movedOffset p n } := by
  unfold partWay
  rw [walkFuel, walk_inside h, List.find?_cons]
  split
  · exact .inr rfl
  · exact .inl rfl

/-- Where the second snapshot of one section and direction lies, from the first. -/
def Point.apart (p q : Point) : Int := if p.dir = .towardB then (q.offset : Int) - p.offset else (p.offset : Int) - q.offset

theorem Point.moved_part {x : Int} (h : x.natAbs ≤ (p.apart q).natAbs) (hs : 0 ≤ x ∧ 0 ≤ p.apart q ∨ x ≤ 0 ∧ p.apart q ≤ 0) {len : Nat}
    (hp : p.offset ≤ len) (hq : q.offset ≤ len) : 0 ≤ p.moved x ∧ p.moved x ≤ len := by
  unfold Point.apart at h hs
  unfold Point.moved
  cases hd : p.dir <;> simp [hd] at * <;> omega

/-- The midpoint of two snapshots of one section, leg and direction. -/
theorem Dev.midpoint_inside {net : Int} (hp : p.offset ≤ legLength d.tmp.sections p.sec p.leg)
    (hq : q.offset ≤ legLength d.tmp.sections p.sec p.leg) (hway : trackBetween d.tmp.sections d.routeEntries p q = some (p.apart q)) :
    ∃ half : Nat, (d.midpoint p q net).2 = { p with offset := half } ∧ p.offset + q.offset ≤ 2 * half + 1
      ∧ 2 * half ≤ p.offset + q.offset + 1 := by
  obtain ⟨hlo, hhi⟩ := d.halved_snd (p.apart q).natAbs
  obtain ⟨n, hn⟩ : ∃ n, (d.halved (p.apart q).natAbs).2 = n := ⟨_, rfl⟩
  rw [hn] at hlo hhi
  obtain ⟨x, hx⟩ : ∃ x : Int, x = if p.apart q < 0 then -(n : Int) else n := ⟨_, rfl⟩
  have habs : x.natAbs = n := by rw [hx]; split <;> simp
  have hsign : 0 ≤ x ∧ 0 ≤ p.apart q ∨ x ≤ 0 ∧ p.apart q ≤ 0 := by rw [hx]; split <;> omega
  obtain ⟨h0, hl⟩ := Point.moved_part (x := x) (p := p) (q := q) (by omega) hsign hp hq
  have hon : (d.midpoint p q net).2 = { p with offset := (p.moved x).toNat } := by
    unfold Dev.midpoint
    simp only [hway, Option.getD_some, hn, ← hx, (Dev.carry_inside h0 hl).2]
    by_cases hneg : p.apart q < 0
    · have hin : n ≤ exitDistance d.tmp.sections p.flip := by
        unfold Point.moved at h0 hl
        cases hd : p.dir <;> simp [hd, exitDistance, Point.flip, Direction.flip, hx, hneg] at * <;> omega
      have hoff : movedOffset p.flip n = (p.moved x).toNat := by rw [movedOffset_backward, hx, if_pos hneg]
      rw [if_pos hneg]
      rcases partWay_inside (q := q) (route := d.routeEntries) (dist := (p.apart q).natAbs) hin with h | h
      · rw [h]
        rfl
      · rw [h, hoff]
        simp only [Option.map_some, Option.getD_some, Point.flip, Direction.flip_flip]
    · have hin : n ≤ exitDistance d.tmp.sections p := by
        unfold Point.moved at h0 hl
        cases hd : p.dir <;> simp [hd, exitDistance, hx, hneg] at * <;> omega
      have hoff : movedOffset p n = (p.moved x).toNat := by rw [movedOffset_forward, hx, if_neg hneg]
      rw [if_neg hneg]
      rcases partWay_inside (q := q) (route := d.routeEntries) (dist := (p.apart q).natAbs) hin with h | h
      · rw [h]
        rfl
      · rw [h, hoff]
        rfl
  refine ⟨_, hon, ?_, ?_⟩
  · unfold Point.apart at hlo hx hhi
    unfold Point.moved
    cases hd : p.dir <;> simp [hd] at * <;> omega
  · unfold Point.apart at hlo hx hhi
    unfold Point.moved
    cases hd : p.dir <;> simp [hd] at * <;> omega

theorem Dev.midpoint_fst (d : Dev) (p q : Point) (net : Int) : ∃ f : Nat, (d.midpoint p q net).1 = { d with freeCount := f } :=
  d.halved_fst _

/-! ### The window at an edge (R29) -/

/-- The window that an edge opens (R29). -/
def Dev.windowAt (d : Dev) (side : ReaderSide) : PairWindow :=
  { side := side, snap := d.snapshot, travel := 0, part := ((d.advance).getD (0, 0)).1, since := 0, net := 0 }

theorem Dev.openWindow_eq (d : Dev) (side : ReaderSide) (p : Point) (x : Int) : d.openWindow side p x
    = if d.odo.pos.validity = .unknown then d
      else { d with odo := { d.odo with window := some { side := side, snap := p, travel := 0, part := x, since := 0, net := 0 } } } := by
  unfold Dev.openWindow
  by_cases h : d.odo.pos.validity = .unknown
  · rw [if_pos h, if_neg (by rw [Odo.known_iff]; exact not_not_intro h)]
  · rw [if_neg h, if_pos ((Odo.known_iff _).mpr h)]

theorem Dev.markerEdge_of {side : ReaderSide} (ha : d.odo.active = true) (hv : d.odo.pos.validity ≠ .unknown) : d.markerEdge side =
    match d.odo.window with
    | none => d.openWindow side d.snapshot ((d.advance).getD (0, 0)).1
    | some w =>
      if w.side = side then ((d.closeSingle w).judgeDue).openWindow side d.snapshot ((d.advance).getD (0, 0)).1
      else (d.closePaired w d.snapshot).judgeDue := by
  have hheld : (d.odo.active && d.odo.known) = true := by rw [ha, (Odo.known_iff _).mpr hv]; rfl
  unfold Dev.markerEdge
  exact if_pos hheld

end

/-- Settles O12: an edge with no window open, one of the other side, and one of the same side. -/
theorem markerEdgeOpensTheWindow : Obligations.MarkerEdgeOpensTheWindow := by
  intro s side d adv snap opened
  rw [exec_markerEdge]
  refine ⟨fun ha hv hw => ?_, fun w ha hv hw => ?_, fun hv => ?_⟩
  · rw [Dev.markerEdge_of ha hv]
    simp only [hw]
    rw [Dev.openWindow_eq, if_neg hv]
    rfl
  · intro way net apart inside
    rw [Dev.markerEdge_of ha hv]
    simp only [hw]
    by_cases hs : w.side = side
    · refine ⟨{ point := w.snap, paired := false, side := w.side, travel := way, net := net, lead := d.leadOver w.snap }, d.freeCount, rfl,
        fun h => absurd hs h, fun _ => ⟨rfl, rfl, hs, rfl, rfl, ?_⟩⟩
      rw [if_pos hs, Dev.openWindow_eq]
      rfl
    · obtain ⟨f, hf⟩ := d.midpoint_fst w.snap snap net
      obtain ⟨f', hf'⟩ := (d.midpoint w.snap snap net).1.halved_fst way
      rw [hf] at hf'
      obtain ⟨hlo, hhi⟩ := (d.midpoint w.snap snap net).1.halved_snd way
      refine ⟨{ point := (d.midpoint w.snap snap net).2, paired := true, side := w.side, travel := ((d.midpoint w.snap snap net).1.halved way).2
                net := net, lead := d.leadOver (d.midpoint w.snap snap net).2 }, f', rfl,
        fun _ => ⟨?_, rfl, hlo, hhi, fun hsec hleg hdir hp hq hway => ?_⟩, fun h => absurd h hs⟩
      · have hpaired : d.closePaired w snap = ({ ((d.midpoint w.snap snap net).1.halved way).1 with
            odo := { ((d.midpoint w.snap snap net).1.halved way).1.odo with window := none } } : Dev).detect
              { point := (d.midpoint w.snap snap net).2, paired := true, side := w.side
                travel := ((d.midpoint w.snap snap net).1.halved way).2, net := net, lead := d.leadOver (d.midpoint w.snap snap net).2 } := rfl
        have hdrawn : ((d.midpoint w.snap snap net).1.halved way).1 = { d with freeCount := f' } := by
          rw [hf, hf']
        rw [if_neg hs, show d.snapshot = snap from rfl, hpaired, hdrawn]
      · exact Dev.midpoint_inside hp (by rw [hsec, hleg]; exact hq) hway
  · rw [Dev.markerEdge, if_neg]
    rw [Bool.and_eq_true, Odo.known_iff]
    exact fun h => h.2 hv

end Sys2Proof.Machine

/-! SUPPORT. The brake inputs and the release train (R117, R120, R121, R124, R187): the outputs after a latch set and after a
HALT-class raise. -/

namespace Sys2Proof.Machine

section
variable {d : Dev} {k : FaultKind}

/-! ### The Brake and Drive Unit over a HALT-class raise and a latch set -/

/-- BDU's record with the halted source active and the outputs settled (R117). -/
def Bdu.halting (b : Bdu) : Bdu :=
  ({ b with srcHalted := true } : Bdu).settled

theorem Bdu.halting_serviceBrake (b : Bdu) : b.halting.serviceBrake = true := by
  show (_ || Bdu.sourced _ || _) = true
  simp [Bdu.sourced]

theorem Dev.enterHalted_bdu (d : Dev) (r : Remembered) : (d.enterHalted r).bdu = d.bdu.halting := by
  rw [Dev.enterHalted, Dev.enterState_of_demanding rfl, Dev.settle_of_live (Dev.outputsHeld_of (s := .halted) rfl (by decide))]
  rfl

theorem Dev.takeHalt_bdu (d : Dev) : d.takeHalt.bdu = d.bdu ∨ d.takeHalt.bdu = d.bdu.halting := by
  unfold Dev.takeHalt
  split
  iterate 3 exact .inr (Dev.enterHalted_bdu _ _)
  all_goals exact .inl rfl

theorem Dev.enterFault_bdu (d : Dev) (k : FaultKind) : (d.enterFault k).bdu = d.bdu := by
  obtain ⟨fs, b, cs, heq, -⟩ := d.enterFault_changes k
  rw [heq]

/-- A HALT-class raise leaves the outputs as they are, or as the halted source has them too. -/
theorem Dev.raise_bdu_of_halt (hk : k.cls = .halt) (d : Dev) :
    (d.raise k).bdu = d.bdu ∨ (d.raise k).bdu = d.bdu.halting := by
  rw [Dev.raise_of_halt hk, ← d.enterFault_bdu k]
  exact Dev.takeHalt_bdu _

theorem Dev.raise_active_self (hk : k.cls ≠ .safeStop) (d : Dev) : (d.raise k).faultActive k = true := by
  rw [Dev.raise_active hk, beq_self_eq_true, Bool.true_or]

theorem Bdu.latched_withLatch (b : Bdu) (l : Latch) : (b.withLatch l true).latched = true := by
  cases l <;> simp [Bdu.withLatch, Bdu.latched]

/-- The levels of BDU's inputs. -/
def Bdu.inputs (b : Bdu) : Bool × Bool × Bool × Bool × Bool :=
  (b.inLocalStop, b.inDriveReady, b.inSupplyLow, b.inClampsDown, b.inClampsUp)

/-- BDU's record at the setting of a latch (R121). -/
def Bdu.latchSet (b : Bdu) (l : Latch) : Bdu :=
  { b.withLatch l true with
    demandHanded := 0, duty := 0, traction := false, serviceBrake := true, trainRunning := false, trainLevel := false, trainTimer := none }

theorem Dev.setLatch_new {l : Latch} (h : d.bdu.latch l = false) : ∃ cs : List (BitVec 16),
    d.setLatch l = { d with bdu := d.bdu.latchSet l, sup := { d.sup with demand := 0 }, counters := cs } := by
  have hlatched := d.bdu.latched_withLatch l
  have hforced : (d.bdu.withLatch l true).forced = true := by rw [Bdu.forced, hlatched, Bool.true_or, Bool.true_or]
  obtain ⟨cs, hsettle⟩ : ∃ cs, (({ d with bdu := d.bdu.withLatch l true } : Dev).bump l.counter).settle
      = { d with
          bdu := { d.bdu.withLatch l true with duty := 0, traction := false, serviceBrake := true }
          counters := cs } := by
    refine ⟨(({ d with bdu := d.bdu.withLatch l true } : Dev).bump l.counter).counters, ?_⟩
    simp only [Dev.settle, Dev.bump, hlatched, hforced, Bool.or_true, if_true, Bool.not_true]
  rw [Dev.setLatch, if_neg (by rw [h]; decide), hsettle, Dev.stopTrain]
  simp only
  split <;> exact ⟨_, rfl⟩

theorem Dev.setLatch_cle (d : Dev) (l : Latch) : (d.setLatch l).cle = d.cle := by
  obtain ⟨b, x, cs, heq⟩ := d.setLatch_changes l
  rw [heq]

/-- A latch set and its HALT-class kind raised: what the outputs show (R119, R120, R121). -/
theorem Dev.latchRaised {l : Latch} (hk : k.cls = .halt) (h : d.bdu.latch l = false) :
    let e := (d.setLatch l).raise k
    e.bdu.latch l = true ∧ e.bdu.duty = 0 ∧ e.sup.demand = 0 ∧ e.bdu.traction = false ∧ e.bdu.serviceBrake = true
      ∧ e.bdu.trainRunning = false ∧ e.bdu.trainLevel = false ∧ e.bdu.trainTimer = none ∧ e.faultActive k = true
      ∧ e.bdu.inputs = d.bdu.inputs
      ∧ e.cle = d.cle ∧ e.odo = d.odo ∧ e.peers = d.peers := by
  intro e
  have hcls : k.cls ≠ .safeStop := by rw [hk]; decide
  obtain ⟨cs, hset⟩ := Dev.setLatch_new h
  obtain ⟨fs, b, x, y, w, cs', hraise, -⟩ := Dev.raise_changes hcls (d.setLatch l)
  have hsup : e.sup = (d.setLatch l).sup ∧ e.cle = (d.setLatch l).cle ∧ e.odo = (d.setLatch l).odo
      ∧ e.peers = (d.setLatch l).peers := by
    show ((d.setLatch l).raise k).sup = _ ∧ ((d.setLatch l).raise k).cle = _ ∧ ((d.setLatch l).raise k).odo = _
      ∧ ((d.setLatch l).raise k).peers = _
    rw [hraise]
    exact ⟨rfl, rfl, rfl, rfl⟩
  have hactive : e.faultActive k = true := Dev.raise_active_self hcls _
  have hbdu : e.bdu = d.bdu.latchSet l ∨ e.bdu = (d.bdu.latchSet l).halting := by
    have hb : (d.setLatch l).bdu = d.bdu.latchSet l := by rw [hset]
    exact hb ▸ Dev.raise_bdu_of_halt hk (d.setLatch l)
  have hl : (d.bdu.latchSet l).latch l = true := by cases l <;> rfl
  have hl' : (d.bdu.latchSet l).halting.latch l = true := by cases l <;> rfl
  have hdark : (d.bdu.latchSet l).halting.traction = false := by
    cases l <;> simp [Bdu.halting, Bdu.settled, Bdu.latchSet, Bdu.withLatch, Bdu.forced, Bdu.latched]
  have hins : (d.bdu.latchSet l).inputs = d.bdu.inputs := by
    cases l <;> rfl
  obtain ⟨hs, hc, ho, hp⟩ := hsup
  rw [hset] at hs hc ho hp
  refine ⟨?_, ?_, by rw [hs], ?_, ?_, ?_, ?_, ?_, hactive, ?_, hc, ho, hp⟩ <;>
    obtain hb | hb := hbdu <;> rw [hb]
  · exact hl
  · exact hl'
  · rfl
  · exact ite_self (0 : Nat)
  · rfl
  · exact hdark
  · rfl
  · exact Bdu.halting_serviceBrake _
  iterate 6 rfl
  · exact hins
  · exact hins

theorem Dev.causeEnded_changes (d : Dev) (k : FaultKind) : ∃ (fs : List FaultEntry) (cs : List (BitVec 16)),
    d.causeEnded k = { d with faults := fs, counters := cs } ∧ kindIn fs k = false := by
  unfold Dev.causeEnded
  split
  · refine ⟨_, _, rfl, ?_⟩
    simp [kindIn]
  · next h => exact ⟨d.faults, d.counters, rfl, by simpa [Dev.faultActive_eq] using h⟩

/-! ### The three inputs -/

/-- The local stop's deactivation: its source inactive and its fault ended (R117). -/
def Dev.localStopOff (d : Dev) : Dev :=
  (({ d with bdu := { d.bdu with srcLocalStop := false } } : Dev).settle).causeEnded .localStop

/-- The level of the local stop input written. -/
def Dev.stopLevel (d : Dev) (a : Bool) : Dev :=
  { d with bdu := { d.bdu with inLocalStop := a } }

/-- The level of the drive-ready input written. -/
def Dev.driveLevel (d : Dev) (a : Bool) : Dev :=
  { d with bdu := { d.bdu with inDriveReady := a } }

/-- The level of the supply monitor input written. -/
def Dev.supplyLevel (d : Dev) (a : Bool) : Dev :=
  { d with bdu := { d.bdu with inSupplyLow := a } }

/-- The local stop taken: its source, its brake and its fault (R117). -/
theorem Dev.localStopOn_shows (d : Dev) :
    d.localStopOn.bdu.inLocalStop = d.bdu.inLocalStop ∧ d.localStopOn.bdu.srcLocalStop = true
      ∧ d.localStopOn.bdu.serviceBrake = true ∧ d.localStopOn.faultActive .localStop = true
      ∧ d.localStopOn.cle = d.cle ∧ d.localStopOn.odo = d.odo ∧ d.localStopOn.peers = d.peers := by
  unfold Dev.localStopOn
  generalize hu : (({ d with bdu := { d.bdu with srcLocalStop := true } } : Dev).settle).bump .localStops = u
  have hins : u.bdu.inLocalStop = d.bdu.inLocalStop := by rw [← hu]; rfl
  have hsrc : u.bdu.srcLocalStop = true := by rw [← hu]; rfl
  have hbrake : u.bdu.serviceBrake = true := by rw [← hu]; simp [Dev.settle, Bdu.sourced]
  have hcle : u.cle = d.cle := by rw [← hu]; rfl
  have hodo : u.odo = d.odo := by rw [← hu]; rfl
  have hpeers : u.peers = d.peers := by rw [← hu]; rfl
  clear hu
  obtain ⟨fs, b, x, y, w, cs, heq, -⟩ := Dev.raise_changes (k := .localStop) (by decide) u
  have hbdu := Dev.raise_bdu_of_halt (k := .localStop) rfl u
  refine ⟨?_, ?_, ?_, Dev.raise_active_self (by decide) u, by rw [heq]; exact hcle, by rw [heq]; exact hodo,
    by rw [heq]; exact hpeers⟩ <;> obtain hb | hb := hbdu <;> rw [hb]
  iterate 2 exact hins
  iterate 2 exact hsrc
  · exact hbrake
  · exact Bdu.halting_serviceBrake _

theorem Dev.localStopChange_new {a : Bool} (h : d.bdu.inLocalStop = !a) : d.localStopChange a =
    if !d.bdu.active then d.stopLevel a
    else if a then (d.stopLevel a).localStopOn
    else (d.stopLevel a).localStopOff := by
  unfold Dev.localStopChange
  rw [if_neg (by rw [h]; cases a <;> decide)]
  rfl

theorem Dev.driveReadyChange_new {a : Bool} (h : d.bdu.inDriveReady = !a) :
    d.driveReadyChange a = if d.bdu.active then (d.driveLevel a).driveSource else d.driveLevel a := by
  unfold Dev.driveReadyChange
  rw [if_neg (by rw [h]; cases a <;> decide)]
  rfl

theorem Dev.supplyChange_new {a : Bool} (h : d.bdu.inSupplyLow = !a) :
    d.supplyChange a = if d.bdu.active && a then (d.supplyLevel a).supplyLowOn else d.supplyLevel a := by
  unfold Dev.supplyChange
  rw [if_neg (by rw [h]; cases a <;> decide)]
  rfl

theorem Dev.localStopChange_same (d : Dev) : d.localStopChange d.bdu.inLocalStop = d := by
  rw [Dev.localStopChange, beq_self_eq_true, if_pos rfl]

theorem Dev.driveReadyChange_same (d : Dev) : d.driveReadyChange d.bdu.inDriveReady = d := by
  rw [Dev.driveReadyChange, beq_self_eq_true, if_pos rfl]

theorem Dev.supplyChange_same (d : Dev) : d.supplyChange d.bdu.inSupplyLow = d := by
  rw [Dev.supplyChange, beq_self_eq_true, if_pos rfl]

/-- Before BDU is active each input keeps its level alone (R115). -/
theorem Dev.inputs_inactive (ha : d.bdu.active = false) (a : Bool) :
    d.localStopChange a = d.stopLevel a ∧ d.driveReadyChange a = d.driveLevel a ∧ d.supplyChange a = d.supplyLevel a := by
  refine ⟨?_, ?_, ?_⟩
  · by_cases h : d.bdu.inLocalStop = a
    · subst h
      exact d.localStopChange_same
    · rw [Dev.localStopChange_new (Bool.eq_not_of_ne h), ha]
      rfl
  · by_cases h : d.bdu.inDriveReady = a
    · subst h
      exact d.driveReadyChange_same
    · rw [Dev.driveReadyChange_new (Bool.eq_not_of_ne h), ha]
      rfl
  · by_cases h : d.bdu.inSupplyLow = a
    · subst h
      exact d.supplyChange_same
    · rw [Dev.supplyChange_new (Bool.eq_not_of_ne h), ha]
      rfl

end

/-- Settles O51: each input's sources, its fault and its latch in turn. -/
theorem brakeInputsDriveTheirSources : Obligations.BrakeInputsDriveTheirSources := by
  intro s d
  refine ⟨?localOn, ?localOff, ?drive, ?inactive, ?sameStop, ?sameDrive, ?sameSupply, ?supply, ?train⟩
  case localOn =>
    intro ha hin
    refine ⟨_, rfl, ?_⟩
    rw [Dev.localStopChange_new hin, ha]
    exact (d.stopLevel true).localStopOn_shows
  case localOff =>
    intro ha hin
    refine ⟨_, rfl, ?_⟩
    obtain ⟨fs, cs, heq, hfs⟩ := Dev.causeEnded_changes
      (({ d.stopLevel false with bdu := { (d.stopLevel false).bdu with srcLocalStop := false } } : Dev).settle) .localStop
    rw [(Dev.localStopChange_new hin).trans (if_neg (by rw [ha]; decide)), if_neg (by decide), Dev.localStopOff, heq]
    exact ⟨rfl, rfl, hfs, rfl, rfl, rfl, rfl, rfl⟩
  case drive =>
    intro ready ha hin
    refine ⟨_, rfl, ?_⟩
    obtain ⟨cs, hu⟩ : ∃ cs, d.driveReadyChange ready = { ({ d with
        bdu := { d.bdu with inDriveReady := ready, srcDriveNotReady := !ready } } : Dev).settle with counters := cs } := by
      rw [Dev.driveReadyChange_new hin, if_pos ha, Dev.driveSource]
      simp only
      split <;> exact ⟨_, rfl⟩
    rw [hu]
    refine ⟨rfl, rfl, ?_, rfl, rfl, rfl, rfl, rfl, rfl⟩
    rintro rfl
    simp [Dev.settle, Bdu.sourced]
  case inactive =>
    intro level ha
    obtain ⟨hstop, hdrive, hsupply⟩ := Dev.inputs_inactive ha level
    exact ⟨congrArg s.becomes hstop,
      congrArg s.becomes hdrive,
      congrArg s.becomes hsupply⟩
  case sameStop => exact congrArg s.becomes d.localStopChange_same
  case sameDrive => exact congrArg s.becomes d.driveReadyChange_same
  case sameSupply => exact congrArg s.becomes d.supplyChange_same
  case supply =>
    intro ha
    constructor
    · intro hin hlatch
      refine ⟨_, rfl, ?_⟩
      rw [Dev.supplyChange_new hin, ha]
      obtain ⟨hl, hduty, hdem, htr, hbr, hrun, hlev, htim, hact, hins, hc, ho, hp⟩ :=
        Dev.latchRaised (k := .supplyLow) (l := .supplyLow) (d := d.supplyLevel true) rfl hlatch
      exact ⟨(congrArg (fun x => x.2.2.1) hins :), hl, hduty, hdem, htr, hbr, hrun, hlev, htim, hact, hc, ho, hp⟩
    · intro hin
      refine congrArg s.becomes ((Dev.supplyChange_new (d := d) (a := false) hin).trans ?_)
      rw [Bool.and_false]
      rfl
  case train =>
    intro hdue low
    exact congrArg s.becomes (Dev.whileDue_due _ _ hdue)

end Sys2Proof.Machine

/-! SUPPORT. The clamps (R119, R137 to R139): what a sensor change forces, and the ends of a docking and of a departure. -/

namespace Sys2Proof.Machine

section
variable {d : Dev} {k : FaultKind}

/-! ### What a raise keeps of the docking -/

theorem Dev.takeHalt_dockShown (d : Dev) : d.takeHalt.dockShown = d.dockShown := by
  unfold Dev.takeHalt
  split
  iterate 3 exact Dev.enterState_dockShown _ _
  all_goals rfl

theorem Dev.enterFault_dockShown (d : Dev) (k : FaultKind) : (d.enterFault k).dockShown = d.dockShown := by
  obtain ⟨fs, b, cs, heq, -⟩ := d.enterFault_changes k
  rw [heq]
  rfl

theorem Dev.raise_dockShown_of_halt (hk : k.cls = .halt) (d : Dev) : (d.raise k).dockShown = d.dockShown := by
  rw [Dev.raise_of_halt hk, Dev.takeHalt_dockShown, Dev.enterFault_dockShown]

theorem Dev.dockShown_dkc {e : Dev} (h : e.dockShown = d.dockShown) :
    e.dkc.sub = d.dkc.sub ∧ e.dkc.last = d.dkc.last ∧ e.dkc.clampTimer = d.dkc.clampTimer ∧ e.dkc.watchTimer = d.dkc.watchTimer := by
  have hk := congrArg (fun x => x.2.2) h
  exact ⟨(congrArg Dkc.sub hk :), (congrArg Dkc.last hk :), (congrArg Dkc.clampTimer hk :), (congrArg Dkc.watchTimer hk :)⟩

theorem Dev.raise_inputs_of_halt (hk : k.cls = .halt) (d : Dev) : (d.raise k).bdu.inputs = d.bdu.inputs := by
  obtain h | h := Dev.raise_bdu_of_halt hk d
  · rw [h]
  · rw [h]
    rfl

theorem Dev.setLatch_inputs (d : Dev) (l : Latch) : (d.setLatch l).bdu.inputs = d.bdu.inputs := by
  cases h : d.bdu.latch l
  · obtain ⟨cs, heq⟩ := Dev.setLatch_new h
    rw [heq]
    cases l <;> rfl
  · rw [Dev.setLatch, if_pos h]
    rfl

/-! ### A clamp sensor's level -/

/-- The level of a clamp sensor. -/
def Bdu.clampLevel (b : Bdu) : ClampSensor → Bool
  | .down => b.inClampsDown
  | .up => b.inClampsUp

/-- The level of a clamp sensor written. -/
def Dev.withClamp (d : Dev) (c : ClampSensor) (a : Bool) : Dev :=
  match c with
  | .down => { d with bdu := { d.bdu with inClampsDown := a } }
  | .up => { d with bdu := { d.bdu with inClampsUp := a } }

theorem Dev.clampSensor_inactive (ha : d.bdu.active = false) (c : ClampSensor) (a : Bool) : d.clampSensor c a = d.withClamp c a := by
  cases c
  · by_cases h : d.bdu.inClampsDown = a
    · rw [Dev.clampSensor, if_pos (beq_iff_eq.mpr h), ← h]
      rfl
    · rw [Dev.clampSensor, if_neg (fun hb => h (eq_of_beq hb))]
      exact if_pos (by rw [ha]; rfl)
  · by_cases h : d.bdu.inClampsUp = a
    · rw [Dev.clampSensor, if_pos (beq_iff_eq.mpr h), ← h]
      rfl
    · rw [Dev.clampSensor, if_neg (fun hb => h (eq_of_beq hb))]
      exact if_pos (by rw [ha]; rfl)

theorem Dev.clampSensor_down {a : Bool} (ha : d.bdu.active = true) (h : d.bdu.inClampsDown = !a) : d.clampSensor .down a =
    (if a then (d.withClamp .down a).settle.zeroDemand else (d.withClamp .down a).settle).watchClamps.clampsDownChanged a := by
  unfold Dev.clampSensor
  simp only
  rw [if_neg (by rw [h]; cases a <;> decide), if_neg (by rw [ha]; decide)]
  rfl

theorem Dev.clampSensor_up {a : Bool} (ha : d.bdu.active = true) (h : d.bdu.inClampsUp = !a) : d.clampSensor .up a =
    (if a then d.withClamp .up a else (d.withClamp .up a).judgeClampsUp d.bdu.duty).watchClamps.clampsUpChanged a := by
  unfold Dev.clampSensor
  simp only
  rw [if_neg (by rw [h]; cases a <;> decide), if_neg (by rw [ha]; decide)]
  rfl

/-! ### With clamps-down active the outputs stay forced (R111, R113) -/

/-- Clamps-down is active, and the duty, the traction and the demand are as it forces them. -/
def Dev.clampedOff (d : Dev) : Prop :=
  d.bdu.inClampsDown = true ∧ d.bdu.duty = 0 ∧ d.bdu.traction = false ∧ d.sup.demand = 0

theorem Dev.clampedOff_settle (h : d.bdu.inClampsDown = true) (hs : d.sup.demand = 0) : d.settle.clampedOff := by
  have hf : d.bdu.forced = true := by rw [Bdu.forced, h, Bool.or_true, Bool.true_or]
  exact ⟨h, by simp [Dev.settle, hf], by simp [Dev.settle, hf], hs⟩

theorem Dev.clampedOff_setLatch (l : Latch) (h : d.clampedOff) : (d.setLatch l).clampedOff := by
  obtain ⟨hin, hduty, htr, hdem⟩ := h
  cases hl : d.bdu.latch l
  · obtain ⟨cs, heq⟩ := Dev.setLatch_new hl
    rw [heq]
    exact ⟨by cases l <;> exact hin, rfl, rfl, rfl⟩
  · rw [Dev.setLatch, if_pos hl]
    exact ⟨hin, hduty, htr, hdem⟩

theorem inner_clampedOff : Inner Dev.clampedOff where
  counters _ h := h
  freeCount _ h := h
  enqueue k dst b t h := by
    obtain ⟨q, y, cs, heq⟩ := Dev.enqueue_line _ k dst b t
    rw [heq]
    exact h
  withdraw tag h := by
    obtain ⟨q, y, heq⟩ := Dev.withdraw_line _ tag
    rw [heq]
    exact h
  faults _ _ h := h
  cle _ _ _ h := h
  odo _ _ _ h := h
  place _ h := h
  orderSpeed h := h
  dkc _ _ h := h
  stc _ _ h := h
  settle h := Dev.clampedOff_settle h.1 h.2.2.2
  zeroDemand h := ⟨h.1, rfl, h.2.2.1, rfl⟩
  stopTrain {d} h := by
    unfold Dev.stopTrain
    simp only
    split <;> exact h
  setLatch l h := Dev.clampedOff_setLatch l h
  clamps _ _ _ h := Dev.clampedOff_settle h.1 h.2.2.2
  turn _ _ h := ⟨h.1, rfl, h.2.2.1, h.2.2.2⟩
  enterState s h := Dev.enterState_keeps (P := Dev.clampedOff) (fun _ h => ⟨h.1, rfl, h.2.2.1, rfl⟩)
    (fun _ h => Dev.clampedOff_settle h.1 h.2.2.2) (fun _ h => Dev.clampedOff_setLatch _ h) h

theorem Dev.clampFault_shows (d : Dev) (c : Counter) :
    (d.clampFault c).faultActive .clampSensor = true ∧ (d.clampFault c).dkc.sub = d.dkc.sub
      ∧ (d.clampFault c).bdu.inputs = d.bdu.inputs :=
  ⟨Dev.raise_active_self (by decide) _, (Dev.dockShown_dkc (Dev.raise_dockShown_of_halt rfl (d.bump c))).1,
    Dev.raise_inputs_of_halt rfl (d.bump c)⟩

/-! ### DKC's part of a change that completes nothing (R137 to R139) -/

theorem Dev.clampsDownChanged_dropped (h : d.dkc.sub ∈ [.idle, .creep, .stopping, .check, .correct, .failed]) :
    (d.clampsDownChanged true).faultActive .clampSensor = true := by
  have hv : ∃ v : Dev, v.dkc.sub = d.dkc.sub ∧ (if d.bdu.inClampsUp then d.clampFault .clampBoth else d) = v := by
    split
    · exact ⟨_, (d.clampFault_shows .clampBoth).2.1, rfl⟩
    · exact ⟨_, rfl, rfl⟩
  obtain ⟨v, hsub, hv⟩ := hv
  have heq : d.clampsDownChanged true = v.clampFault .clampDropped := by
    have hquiet : d.dkc.sub ≠ .clamping → ((v.clampFault .clampDropped).dkc.sub == .clamping) = false := fun h => by
      rw [(v.clampFault_shows .clampDropped).2.1, hsub]
      exact beq_false_of_ne h
    simp only [List.mem_cons, List.not_mem_nil, or_false] at h
    obtain hs | hs | hs | hs | hs | hs := h <;>
      simp only [Dev.clampsDownChanged, if_true, hv, hs, hquiet (by rw [hs]; decide), Bool.false_and, Bool.false_eq_true, if_false]
  rw [heq]
  exact (v.clampFault_shows .clampDropped).1

theorem Dev.clampsDownChanged_off (h : d.dkc.sub ≠ .unclamping ∨ d.bdu.inClampsUp = false) :
    ∃ l : Bool, d.clampsDownChanged false = { d with dkc := { d.dkc with downLeft := l } } := by
  unfold Dev.clampsDownChanged
  rw [if_neg (by decide)]
  split
  · next hsub =>
    exact ⟨true, if_neg (by
      show ¬d.bdu.inClampsUp = true
      rw [h.resolve_left (not_not_intro (eq_of_beq hsub))]
      decide)⟩
  · exact ⟨d.dkc.downLeft, rfl⟩

theorem Dev.clampsUpChanged_on (hdown : d.bdu.inClampsDown = false) (h : d.dkc.sub ≠ .unclamping) : d.clampsUpChanged true = d := by
  simp [Dev.clampsUpChanged, hdown, h]

theorem Dev.clampsUpChanged_off (h : d.dkc.sub ≠ .clamping ∨ d.bdu.inClampsDown = false) : d.clampsUpChanged false = d := by
  have hquiet : (d.dkc.sub == .clamping && d.bdu.inClampsDown) = false := by
    obtain h | h := h <;> simp [h]
  simp only [Dev.clampsUpChanged, hquiet, Bool.false_eq_true, if_false]

/-! ### The clamps-not-up condition (R119) -/

theorem Dev.judgeClampsUp_none {n : Nat} (h : n = 0) : d.judgeClampsUp n = d := by
  rw [Dev.judgeClampsUp, if_neg (by rw [h]; simp)]

/-- The clamps-not-up condition touches the outputs, the latch, the demand and CLAMP-SENSOR alone. -/
theorem Dev.judgeClampsUp_keeps (d : Dev) (n : Nat) :
    (d.judgeClampsUp n).bdu.inputs = d.bdu.inputs ∧ (d.judgeClampsUp n).dkc.sub = d.dkc.sub ∧ (d.judgeClampsUp n).cle = d.cle
      ∧ (d.judgeClampsUp n).odo = d.odo ∧ (d.judgeClampsUp n).peers = d.peers := by
  unfold Dev.judgeClampsUp
  split
  · obtain ⟨b, x, cs, heq⟩ := d.setLatch_changes .clampsNotUp
    have hlatch : (d.setLatch .clampsNotUp).cle = d.cle ∧ (d.setLatch .clampsNotUp).odo = d.odo
        ∧ (d.setLatch .clampsNotUp).peers = d.peers := by
      rw [heq]
      exact ⟨rfl, rfl, rfl⟩
    obtain ⟨hcle, hodo, hpeers⟩ := hlatch
    have hin := d.setLatch_inputs .clampsNotUp
    have hsub := (Dev.dockShown_dkc (d.setLatch_dockShown .clampsNotUp)).1
    simp only
    split
    · obtain ⟨fs, b, x, y, l, cs, hraise, -⟩ := (d.setLatch .clampsNotUp).raise_changes (k := .clampSensor) (by decide)
      refine ⟨(Dev.raise_inputs_of_halt rfl _).trans hin, (Dev.dockShown_dkc (Dev.raise_dockShown_of_halt rfl _)).1.trans hsub, ?_, ?_, ?_⟩
      all_goals rw [hraise]
      · exact hcle
      · exact hodo
      · exact hpeers
    · exact ⟨hin, hsub, hcle, hodo, hpeers⟩
  · exact ⟨rfl, rfl, rfl, rfl, rfl⟩

theorem Dev.judgeClampsUp_sets {n : Nat} (hn : n ≠ 0) (hup : d.bdu.inClampsUp = false) (hl : d.bdu.latchClampsNotUp = false) :
    d.judgeClampsUp n = (d.setLatch .clampsNotUp).raise .clampSensor := by
  rw [Dev.judgeClampsUp, if_pos (by simp [hup, Nat.pos_of_ne_zero hn])]
  simp only
  rw [if_pos (by rw [hl]; rfl)]

end

/-- Settles O52: each sensor's edges in turn, the outputs first. -/
theorem clampSensorsForceTheOutputs : Obligations.ClampSensorsForceTheOutputs := by
  intro s d
  refine ⟨?inactive, ?downOn, ?downOff, ?upOn, ?upOff⟩
  case inactive =>
    intro level ha
    exact ⟨congrArg s.becomes (Dev.clampSensor_inactive (d := d) ha .down level),
      congrArg s.becomes (Dev.clampSensor_inactive (d := d) ha .up level)⟩
  case downOn =>
    intro ha hin
    refine ⟨_, rfl, ?_⟩
    rw [Dev.clampSensor_down (a := true) ha hin, if_pos rfl]
    have hoff : (d.withClamp .down true).settle.zeroDemand.watchClamps.clampedOff :=
      inner_clampedOff.watchClamps ⟨rfl, rfl, (Dev.clampedOff_settle (d := (d.withClamp .down true).zeroDemand) rfl rfl).2.2.1, rfl⟩
    have hsub : (d.withClamp .down true).settle.zeroDemand.watchClamps.dkc.sub = d.dkc.sub := by
      obtain ⟨w, hw⟩ := (d.withClamp .down true).settle.zeroDemand.watchClamps_changes
      rw [hw]
      rfl
    generalize (d.withClamp .down true).settle.zeroDemand.watchClamps = u at hoff hsub
    obtain ⟨hdown, hduty, htr, hdem⟩ := inner_clampedOff.clampsDownChanged true hoff
    refine ⟨hdown, hduty, htr, hdem, fun hmem => ?_⟩
    exact Dev.clampsDownChanged_dropped (by rw [hsub]; exact hmem)
  case downOff =>
    intro ha hin hquiet b
    refine ⟨_, rfl, ?_⟩
    obtain ⟨w, hw⟩ := (d.withClamp .down false).settle.watchClamps_changes
    rw [Dev.clampSensor_down (a := false) ha hin, if_neg (by decide), hw]
    obtain ⟨l, hl⟩ := Dev.clampsDownChanged_off (d := { (d.withClamp .down false).settle with
      dkc := { (d.withClamp .down false).settle.dkc with watchTimer := w } }) hquiet
    rw [hl]
    exact ⟨rfl, rfl, rfl, rfl, rfl, rfl, rfl⟩
  case upOn =>
    intro ha hup hdown hsub
    refine ⟨_, rfl, ?_⟩
    have hw : (d.withClamp .up true).watchClamps
        = { d.withClamp .up true with dkc := { d.dkc with watchTimer := none } } := by
      rw [Dev.watchClamps, if_neg (by simp [Dev.withClamp])]
      rfl
    rw [Dev.clampSensor_up (a := true) ha hup, if_pos rfl, hw,
      Dev.clampsUpChanged_on (d := { d.withClamp .up true with dkc := { d.dkc with watchTimer := none } }) hdown hsub]
    exact ⟨rfl, rfl, rfl, rfl, rfl, rfl⟩
  case upOff =>
    intro ha hup hquiet
    refine ⟨_, rfl, ?_⟩
    obtain ⟨hin, hsub, hcle, hodo, hpeers⟩ := (d.withClamp .up false).judgeClampsUp_keeps d.bdu.duty
    obtain ⟨w, hw⟩ := ((d.withClamp .up false).judgeClampsUp d.bdu.duty).watchClamps_changes
    rw [Dev.clampSensor_up (a := false) ha hup, if_neg (by decide), hw, Dev.clampsUpChanged_off]
    · refine ⟨(congrArg (fun x => x.2.2.2.2) hin :), hcle, hodo, hpeers, fun hduty => ?_, fun hduty hl => ?_⟩
      · rw [Dev.judgeClampsUp_none (d := d.withClamp .up false) hduty]
        exact ⟨rfl, rfl, rfl, rfl⟩
      · obtain ⟨hlatch, hd0, hdem, htr, hbr, hrun, hlev, htim, hact, -⟩ :=
          Dev.latchRaised (k := .clampSensor) (l := .clampsNotUp) (d := d.withClamp .up false) rfl hl
        rw [Dev.judgeClampsUp_sets (d := d.withClamp .up false) hduty rfl hl]
        exact ⟨hlatch, hd0, hdem, htr, hbr, hrun, hlev, htim, hact⟩
    · exact hquiet.imp (fun h => by rw [hsub]; exact h) (fun h => (congrArg (fun x => x.2.2.2.1) hin :).trans h)

end Sys2Proof.Machine

/-! SUPPORT. The ends of the docking movements (R133 to R139, R148, R151, R152): a docking that fails, one that completes, a
departure that completes, and the stop check. -/

namespace Sys2Proof.Machine

section
variable {d : Dev} {k : FaultKind}

/-! ### A docking that fails with its kind (R136, R152) -/

theorem Dev.enterState_corrTimer (h : d.dkc.corrTimer = none) (s : StationState) : (d.enterState s).dkc.corrTimer = none := by
  refine Dev.enterState_keeps (P := fun e => e.dkc.corrTimer = none) (fun _ h => h) (fun _ h => h) (fun e he => ?_) ?_
  · obtain ⟨b, x, cs, heq⟩ := e.setLatch_changes .safeStop
    rw [heq]
    exact he
  · unfold Dev.entering
    simp only
    split
    · rfl
    · exact h

theorem Dev.leaveSafeStop_corrTimer (h : d.dkc.corrTimer = none) : d.leaveSafeStop.dkc.corrTimer = none := by
  unfold Dev.leaveSafeStop
  split
  · apply Dev.enterState_corrTimer
    exact h
  · exact h

theorem Dev.stateAfterFailure_corrTimer (h : d.dkc.corrTimer = none) : d.stateAfterFailure.dkc.corrTimer = none := by
  unfold Dev.stateAfterFailure
  split
  iterate 3 exact Dev.enterState_corrTimer (d := { d with stc := { d.stc with remembered := some .rest, haltHold := true } }) h _
  · exact h
  · exact Dev.enterState_corrTimer h _
  · exact Dev.leaveSafeStop_corrTimer h
  all_goals exact h

theorem Dev.failOrder_dkc {o : Order} (ho : d.stc.order = some o) (k : FaultKind) :
    ∃ w : Timer, (d.failOrder k).dkc = d.dkc.ended d.bdu w := by
  obtain ⟨c, q, t, fs, cs, w, hend, -⟩ := Dev.endOrder_changes ho .failed (some k)
  have hdkc : (d.endOrder .failed (some k)).dkc = d.dkc.ended d.bdu w := by rw [hend]
  have hshown := congrArg (fun x => x.2.2) (d.endOrder .failed (some k)).stateAfterFailure_dockShown
  have hcorr := Dev.stateAfterFailure_corrTimer (d := d.endOrder .failed (some k)) (by rw [hdkc]; rfl)
  refine ⟨w, ?_⟩
  rw [Dev.failOrder_of ho]
  calc (d.endOrder .failed (some k)).stateAfterFailure.dkc
      = { (d.endOrder .failed (some k)).stateAfterFailure.dkc with corrTimer := none } := by rw [← hcorr]
    _ = { (d.endOrder .failed (some k)).dkc with corrTimer := none } := hshown
    _ = d.dkc.ended d.bdu w := by rw [hdkc]; rfl

/-- A docking ended by a cause and its kind: what the part shows after it. -/
structure Dev.DockFailed (d e : Dev) (o : Order) (c : DockCause) (k : FaultKind) : Prop where
  active : e.faultActive k = true
  order : e.stc.order = none
  lastOrder : e.stc.lastOrder = ⟨o.id, some .failed, some k⟩
  last : e.dkc.last = .failed c
  stopError : e.dkc.stopError = d.dkc.stopError
  clampTimer : e.dkc.clampTimer = none
  corrTimer : e.dkc.corrTimer = none
  down : e.bdu.clampDown = false
  up : e.bdu.clampUp = false
  peers : e.peers = d.peers
  halted : d.stc.state ∈ [.running, .approach, .docking] → e.stc.state = .halted ∧ e.stc.remembered = some .rest

theorem Dev.raise_failDocking {o : Order} (ho : d.stc.order = some o) (hk : k.cls = .halt) (c : DockCause) :
    d.DockFailed ((d.raise k).failDocking c k) o c k := by
  have hcls : k.cls ≠ .safeStop := by rw [hk]; decide
  have hdead : k ≠ .deadlock := by rintro rfl; exact absurd hk (by decide)
  have horder : (d.raise k).stc.order = some o := (congrArg Prod.fst (Dev.raise_orders_of_halt hk d)).trans ho
  obtain ⟨x, hfail, hlast, hstc⟩ := Dev.failDocking_fails horder c k
  have hcloses := Dev.closesTo_failDocking (d.raise k) c k
  have hdkc : ((d.raise k).failDocking c k).dkc.stopError = (d.raise k).dkc.stopError
      ∧ ((d.raise k).failDocking c k).dkc.corrTimer = none := by
    obtain ⟨cs, w, heq⟩ := (d.raise k).failDocking_changes c k
    obtain ⟨w', hdkc⟩ := Dev.failOrder_dkc (d := { d.raise k with
      bdu := (d.raise k).commandsDropped
      dkc := { (d.raise k).dkc with clampTimer := none, corrTimer := none, watchTimer := w, last := .failed c, sub := .failed }
      counters := cs }) horder k
    rw [heq, hdkc]
    exact ⟨rfl, rfl⟩
  have hshown := congrArg (fun x => x.2.2) (Dev.raise_dockShown_of_halt hk d)
  exact
    { active := (Dev.closesTo_active hcloses hdead).trans (Dev.raise_active_self hcls d)
      order := hfail.order
      lastOrder := hfail.last
      last := hfail.result.trans hlast
      stopError := hdkc.1.trans (congrArg Dkc.stopError hshown :)
      clampTimer := hfail.timers
      corrTimer := hdkc.2
      down := hfail.down
      up := hfail.up
      peers := by
        rw [Dev.closesTo_peers hcloses]
        obtain ⟨fs, b, y, z, l, cs, heq, -⟩ := d.raise_changes hcls
        rw [heq]
      halted := fun hs => hfail.halted (by
        rw [hstc, Dev.raise_halted hk (List.mem_of_mem_take (l := [StationState.running, .approach, .docking, .halted]) (i := 3) hs)]
        decide) }

/-! ### What the Claim Engine keeps of the route view at the end of an order (R79) -/

/-- The route view and the loss count. -/
def Cle.routing (c : Cle) : Option RouteView × Nat :=
  (c.view, c.lossCount)

theorem Dev.tidyDeadlock_routing (d : Dev) : d.tidyDeadlock.cle.routing = d.cle.routing := by
  unfold Dev.tidyDeadlock
  split
  · rw [Dev.causeEnded_cle]
    rfl
  · rfl

theorem Dev.dropClaims_routing (d : Dev) (p : Claim → Bool) : (d.dropClaims p).cle.routing = d.cle.routing := by
  unfold Dev.dropClaims
  rw [Dev.tidyDeadlock_routing]
  simp only [Dev.foldl_abandon_cle]
  rfl

theorem Dev.sendRelease_routing (d : Dev) (l : List Nat) : (d.sendRelease l).cle.routing = d.cle.routing := by
  unfold Dev.sendRelease
  split
  · rfl
  · show Cle.routing (Dev.cle (Dev.enqueue _ _ _ _ _).1) = _
    rw [Dev.enqueue_cle]
    rfl

theorem Dev.releaseClaims_routing (d : Dev) (p : Claim → Bool) : (d.releaseClaims p).cle.routing = d.cle.routing := by
  unfold Dev.releaseClaims Dev.announceRelease
  rw [Dev.tidyDeadlock_routing]
  split
  · rfl
  · rw [Dev.sendRelease_routing]
    rfl

theorem Dev.claimsAtStandstill_routing (d : Dev) : d.claimsAtStandstill.cle.routing = d.cle.routing := by
  unfold Dev.claimsAtStandstill
  split
  · rw [Dev.dropUnheld, Dev.dropClaims_routing, Dev.releaseOutside, Dev.releaseClaims_routing]
  · rfl

theorem Dev.claimsOrderEnd_routing (d : Dev) : d.claimsOrderEnd.cle.routing = (none, 0) := by
  unfold Dev.claimsOrderEnd Dev.event
  simp only [Dev.sendRelease_routing]
  split
  · exact Dev.claimsAtStandstill_routing _
  · rfl

theorem Dev.dockOrderEnd_cle (d : Dev) : d.dockOrderEnd.cle = d.cle := by
  obtain ⟨w, hw⟩ := d.dockOrderEnd_changes
  rw [hw]

theorem Dev.endOrder_routing {o : Order} (ho : d.stc.order = some o) (u : OrderOutcome) (q : Option FaultKind) :
    (d.endOrder u q).cle.routing = (none, 0) := by
  rw [Dev.endOrder, ho]
  show Cle.routing (Dev.cle (Dev.dockOrderEnd (Dev.claimsOrderEnd _))) = _
  rw [Dev.dockOrderEnd_cle, Dev.claimsOrderEnd_routing]

/-! ### A docking that completes (R137, R151) -/

/-- The station in PARKED on the pad of an order that has ARRIVED. -/
structure Dev.DockedAt (d e : Dev) (o : Order) : Prop where
  sub : e.dkc.sub = .clamped
  last : e.dkc.last = .clamped
  clampTimer : e.dkc.clampTimer = none
  down : e.bdu.clampDown = false
  up : e.bdu.clampUp = false
  state : e.stc.state = .parked
  order : e.stc.order = none
  pad : e.stc.parkedPad = some o.pad
  lastOrder : e.stc.lastOrder = ⟨o.id, some .arrived, none⟩
  view : e.cle.view = none
  loss : e.cle.lossCount = 0
  speed : e.sup.vOrder = none
  idx : e.odo.pos.idx = none
  peers : e.peers = d.peers

theorem Dev.dropClampCommands_changes (d : Dev) : ∃ w : Timer, d.dropClampCommands = { d with
    bdu := ({ d with bdu := { d.bdu with clampDown := false, clampUp := false } } : Dev).settle.bdu
    dkc := { d.dkc with watchTimer := w } } := by
  obtain ⟨w, hw⟩ := (({ d with bdu := { d.bdu with clampDown := false, clampUp := false } } : Dev).settle).watchClamps_changes
  exact ⟨w, hw⟩

/-- The parked pad written. -/
def Dev.parkedAt (d : Dev) (p : Nat) : Dev :=
  { d with stc := { d.stc with parkedPad := some p } }

theorem Dev.clampedReport_docking {o : Order} (ho : d.stc.order = some o) (hab : d.dkc.abortTaken = false)
    (hs : d.stc.state = .docking) : d.clampedReport = ((d.parkedAt o.pad).endOrder .arrived none).enterState .parked := by
  have hstate : ((d.parkedAt o.pad).endOrder .arrived none).stc.state = .docking := by
    obtain ⟨c, q, t, fs, cs, w, hend, -⟩ := Dev.endOrder_changes (d := d.parkedAt o.pad) ho .arrived none
    rw [hend]
    exact hs
  unfold Dev.clampedReport
  split
  · next hnone => exact absurd (hnone.symm.trans ho) nofun
  · next o' ho' =>
    obtain rfl : o' = o := Option.some.inj (ho'.symm.trans ho)
    simp only [hab, Bool.false_eq_true, if_false]
    split
    · rfl
    all_goals
      next h => exact absurd (hstate.symm.trans h) (by decide)

theorem Dev.clampedReport_docks {o : Order} (ho : d.stc.order = some o) (hab : d.dkc.abortTaken = false)
    (hs : d.stc.state = .docking) (hheld : d.bdu.clampsHeld = true) (hlast : d.dkc.last = .clamped) :
    d.DockedAt d.clampedReport o := by
  obtain ⟨c, q, t, fs, cs, w, hend, -⟩ := Dev.endOrder_changes (d := d.parkedAt o.pad) ho .arrived none
  obtain ⟨hdown, hup⟩ := (d.parkedAt o.pad).commandsDropped_clamps
  have hroute := Dev.endOrder_routing (d := d.parkedAt o.pad) ho .arrived none
  have hsub : ((d.parkedAt o.pad).dkc.ended (d.parkedAt o.pad).bdu w).sub = .clamped := if_pos hheld
  rw [Dev.clampedReport_docking ho hab hs, Dev.enterState_of_rest (by decide)]
  generalize hx : (d.parkedAt o.pad).endOrder .arrived none = x at *
  have hdkc : x.dkc = (d.parkedAt o.pad).dkc.ended (d.parkedAt o.pad).bdu w := by rw [hend]
  have hbdu : x.bdu = (d.parkedAt o.pad).commandsDropped := by rw [hend]
  have hstc : x.stc = (d.parkedAt o.pad).stc.ended o .arrived none := by rw [hend]
  exact
    { sub := (congrArg Dkc.sub hdkc :).trans hsub
      last := (congrArg Dkc.last hdkc :).trans hlast
      clampTimer := (congrArg Dkc.clampTimer hdkc :)
      down := (congrArg Bdu.clampDown hbdu :).trans hdown
      up := (congrArg Bdu.clampUp hbdu :).trans hup
      state := rfl
      order := (congrArg Stc.order hstc :)
      pad := (congrArg Stc.parkedPad hstc :)
      lastOrder := (congrArg Stc.lastOrder hstc :)
      view := congrArg Prod.fst hroute
      loss := congrArg Prod.snd hroute
      speed := (congrArg (fun y : Dev => y.sup.vOrder) hend :)
      idx := (congrArg (fun y : Dev => y.odo.pos.idx) hend :)
      peers := (congrArg Dev.peers hend :) }

theorem Dev.clampingDone_docks {o : Order} (ho : d.stc.order = some o) (hab : d.dkc.abortTaken = false)
    (hs : d.stc.state = .docking) (hheld : d.bdu.clampsHeld = true) : d.DockedAt d.clampingDone o := by
  obtain ⟨w, hw⟩ := ({ d with dkc := { d.dkc with clampTimer := none } } : Dev).dropClampCommands_changes
  unfold Dev.clampingDone
  simp only [hw]
  exact { Dev.clampedReport_docks (d := { d with
    bdu := (({ d with bdu := { d.bdu with clampDown := false, clampUp := false } } : Dev).settle).bdu
    dkc := { d.dkc with clampTimer := none, watchTimer := w, sub := .clamped, last := .clamped }
    counters := (d.bump .docksCompleted).counters }) ho hab hs hheld rfl with }

/-! ### A departure that completes (R138, R148, R153) -/

/-- The station under way on an order that was departing. -/
structure Dev.DepartedOn (d e : Dev) (o : Order) : Prop where
  sub : e.dkc.sub = .idle
  last : e.dkc.last = .unclamped
  clampTimer : e.dkc.clampTimer = none
  down : e.bdu.clampDown = false
  up : e.bdu.clampUp = false
  order : e.stc.order = some { o with departing := false }
  pad : e.stc.parkedPad = none
  cle : e.cle = d.cle
  odo : e.odo = d.odo
  sup : e.sup = d.sup
  runs : d.stc.haltHold = false → e.stc.state = .running ∧ e.stc.waiting = true
  halts : d.stc.haltHold = true → e.stc.state = .halted ∧ e.stc.remembered = some .running

theorem Dev.unclampedReport_parked {o : Order} (ho : d.stc.order = some o) (hs : d.stc.state = .parked) : d.unclampedReport
    = if d.stc.haltHold then
        ({ d with stc := { d.stc with order := some { o with departing := false }, parkedPad := none } } : Dev).enterHalted .running
      else ({ d with stc := { d.stc with order := some { o with departing := false }, parkedPad := none } } : Dev).enterState .running := by
  unfold Dev.unclampedReport
  simp only [ho]
  rw [if_neg (by rw [hs]; decide)]

/-- The order of a departure that has ended, and no parked pad. -/
def Dev.moving (d : Dev) (o : Order) : Dev :=
  { d with stc := { d.stc with order := some { o with departing := false }, parkedPad := none } }

theorem Dev.unclampedReport_departs {o : Order} (ho : d.stc.order = some o) (hs : d.stc.state = .parked) (hsub : d.dkc.sub = .idle)
    (hlast : d.dkc.last = .unclamped) (htimer : d.dkc.clampTimer = none) (hdown : d.bdu.clampDown = false)
    (hup : d.bdu.clampUp = false) : d.DepartedOn d.unclampedReport o := by
  have hstop : ∀ t, ((d.moving o).entering t).dkc = d.dkc := fun t => by
    unfold Dev.entering
    simp only
    exact if_neg (by rw [show (d.moving o).dkc.sub = .idle from hsub]; exact Bool.false_ne_true)
  rw [Dev.unclampedReport_parked ho hs]
  by_cases hh : d.stc.haltHold = true
  · rw [if_pos hh, Dev.enterHalted, Dev.enterState_of_demanding rfl]
    have hdkc : ∀ x : Dev, x.dkc.sub = .idle → (x.entering .halted).dkc = x.dkc := fun x hx => by
      unfold Dev.entering
      simp only
      exact if_neg (by rw [hx]; exact Bool.false_ne_true)
    have hk := hdkc ({ d.moving o with stc := { (d.moving o).stc with remembered := some .running, haltHold := true } }) hsub
    exact
      { sub := (congrArg Dkc.sub hk :).trans hsub, last := (congrArg Dkc.last hk :).trans hlast
        clampTimer := (congrArg Dkc.clampTimer hk :).trans htimer, down := hdown, up := hup, order := rfl, pad := rfl
        cle := rfl, odo := rfl, sup := rfl, runs := fun h => absurd (h.symm.trans hh) (by decide), halts := fun _ => ⟨rfl, rfl⟩ }
  · rw [if_neg hh, Dev.enterState_of_demanding rfl]
    have hk := hstop .running
    exact
      { sub := (congrArg Dkc.sub hk :).trans hsub, last := (congrArg Dkc.last hk :).trans hlast
        clampTimer := (congrArg Dkc.clampTimer hk :).trans htimer, down := hdown, up := hup, order := rfl, pad := rfl
        cle := rfl, odo := rfl, sup := rfl, runs := fun _ => ⟨rfl, rfl⟩, halts := fun h => absurd h hh }

theorem Dev.departureDone_departs {o : Order} (ho : d.stc.order = some o) (hs : d.stc.state = .parked) :
    d.DepartedOn d.departureDone o := by
  obtain ⟨w, hw⟩ := ({ d with dkc := { d.dkc with clampTimer := none } } : Dev).dropClampCommands_changes
  unfold Dev.departureDone
  simp only [hw]
  exact { Dev.unclampedReport_departs (d := { d with
    bdu := (({ d with bdu := { d.bdu with clampDown := false, clampUp := false } } : Dev).settle).bdu
    dkc := { d.dkc with clampTimer := none, watchTimer := w, sub := .idle, last := .unclamped }
    counters := (d.bump .departures).counters }) ho hs rfl rfl rfl rfl rfl with }

/-! ### The sensor changes that complete a movement -/

theorem Dev.clampsDownChanged_docks (hsub : d.dkc.sub = .clamping) (hup : d.bdu.inClampsUp = false) :
    d.clampsDownChanged true = d.clampingDone := by
  simp [Dev.clampsDownChanged, hsub, hup]

theorem Dev.clampsUpChanged_docks (hsub : d.dkc.sub = .clamping) (hdown : d.bdu.inClampsDown = true) :
    d.clampsUpChanged false = d.clampingDone := by
  simp [Dev.clampsUpChanged, hsub, hdown]

theorem Dev.clampsUpChanged_departs (hsub : d.dkc.sub = .unclamping) (hdown : d.bdu.inClampsDown = false) :
    d.clampsUpChanged true = d.departureDone := by
  simp [Dev.clampsUpChanged, hsub, hdown]

theorem Dev.clampsDownChanged_departs (hsub : d.dkc.sub = .unclamping) (hup : d.bdu.inClampsUp = true) :
    d.clampsDownChanged false = ({ d with dkc := { d.dkc with downLeft := true } } : Dev).departureDone := by
  simp [Dev.clampsDownChanged, hsub, hup]

theorem Dev.clampSensor_down_docks {o : Order} (ha : d.bdu.active = true) (ho : d.stc.order = some o) (hs : d.stc.state = .docking)
    (hab : d.dkc.abortTaken = false) (hsub : d.dkc.sub = .clamping) (hdown : d.bdu.inClampsDown = false)
    (hup : d.bdu.inClampsUp = false) : d.DockedAt (d.clampSensor .down true) o := by
  obtain ⟨w, hw⟩ := (d.withClamp .down true).settle.zeroDemand.watchClamps_changes
  have hheld : (d.withClamp .down true).bdu.clampsHeld = true := by
    show (true && !d.bdu.inClampsUp) = true
    rw [hup]
    rfl
  rw [Dev.clampSensor_down (a := true) ha hdown, if_pos rfl, hw,
    Dev.clampsDownChanged_docks (d := { (d.withClamp .down true).settle.zeroDemand with
      dkc := { (d.withClamp .down true).settle.zeroDemand.dkc with watchTimer := w } }) hsub hup]
  exact { Dev.clampingDone_docks (d := { (d.withClamp .down true).settle.zeroDemand with
    dkc := { (d.withClamp .down true).settle.zeroDemand.dkc with watchTimer := w } }) ho hab hs hheld with }

theorem Dev.clampSensor_up_docks {o : Order} (ha : d.bdu.active = true) (ho : d.stc.order = some o) (hs : d.stc.state = .docking)
    (hab : d.dkc.abortTaken = false) (hsub : d.dkc.sub = .clamping) (hdown : d.bdu.inClampsDown = true)
    (hup : d.bdu.inClampsUp = true) (hduty : d.bdu.duty = 0) : d.DockedAt (d.clampSensor .up false) o := by
  obtain ⟨w, hw⟩ := (d.withClamp .up false).watchClamps_changes
  have hheld : (d.withClamp .up false).bdu.clampsHeld = true := by
    show (d.bdu.inClampsDown && !false) = true
    rw [hdown]
    rfl
  rw [Dev.clampSensor_up (a := false) ha hup, if_neg (by decide), Dev.judgeClampsUp_none hduty, hw,
    Dev.clampsUpChanged_docks (d := { d.withClamp .up false with dkc := { (d.withClamp .up false).dkc with watchTimer := w } }) hsub hdown]
  exact { Dev.clampingDone_docks (d := { d.withClamp .up false with
    dkc := { (d.withClamp .up false).dkc with watchTimer := w } }) ho hab hs hheld with }

theorem Dev.clampSensor_up_departs {o : Order} (ha : d.bdu.active = true) (ho : d.stc.order = some o) (hs : d.stc.state = .parked)
    (hsub : d.dkc.sub = .unclamping) (hdown : d.bdu.inClampsDown = false) (hup : d.bdu.inClampsUp = false) :
    d.DepartedOn (d.clampSensor .up true) o := by
  obtain ⟨w, hw⟩ := (d.withClamp .up true).watchClamps_changes
  rw [Dev.clampSensor_up (a := true) ha hup, if_pos rfl, hw,
    Dev.clampsUpChanged_departs (d := { d.withClamp .up true with dkc := { (d.withClamp .up true).dkc with watchTimer := w } }) hsub hdown]
  exact { Dev.departureDone_departs (d := { d.withClamp .up true with
    dkc := { (d.withClamp .up true).dkc with watchTimer := w } }) ho hs with }

theorem Dev.clampSensor_down_departs {o : Order} (ha : d.bdu.active = true) (ho : d.stc.order = some o) (hs : d.stc.state = .parked)
    (hsub : d.dkc.sub = .unclamping) (hdown : d.bdu.inClampsDown = true) (hup : d.bdu.inClampsUp = true) :
    d.DepartedOn (d.clampSensor .down false) o := by
  obtain ⟨w, hw⟩ := (d.withClamp .down false).settle.watchClamps_changes
  rw [Dev.clampSensor_down (a := false) ha hdown, if_neg (by decide), hw,
    Dev.clampsDownChanged_departs (d := { (d.withClamp .down false).settle with
      dkc := { (d.withClamp .down false).settle.dkc with watchTimer := w } }) hsub hup]
  exact { Dev.departureDone_departs (d := { (d.withClamp .down false).settle with
    dkc := { (d.withClamp .down false).settle.dkc with watchTimer := w, downLeft := true } }) ho hs with }

theorem Dev.clampTimeout_fails {o : Order} (ho : d.stc.order = some o) (hsub : d.dkc.sub = .clamping ∨ d.dkc.sub = .unclamping) :
    d.DockFailed d.clampTimeout o .clampTimeout .clampTimeout := by
  have heq : d.clampTimeout
      = (({ d with dkc := { d.dkc with clampTimer := none } } : Dev).raise .clampTimeout).failDocking .clampTimeout .clampTimeout := by
    obtain h | h := hsub <;> simp only [Dev.clampTimeout, h]
  rw [heq]
  exact { Dev.raise_failDocking (d := { d with dkc := { d.dkc with clampTimer := none } }) ho rfl _ with }

theorem Dev.correctionTimeout_fails {o : Order} (ho : d.stc.order = some o) (hsub : d.dkc.sub = .correct) :
    d.DockFailed d.correctionTimeout o .correctionTimeout .dockFailed := by
  have heq : d.correctionTimeout
      = (({ d with dkc := { d.dkc with corrTimer := none } } : Dev).raise .dockFailed).failDocking .correctionTimeout .dockFailed := by
    simp only [Dev.correctionTimeout, hsub, beq_self_eq_true, if_true]
  rw [heq]
  exact { Dev.raise_failDocking (d := { d with dkc := { d.dkc with corrTimer := none } }) ho rfl _ with }

end

/-- Settles O53: the sensor that completes each movement, and DKC's three timers. -/
theorem dockingMovementsEnd : Obligations.DockingMovementsEnd := by
  refine ⟨fun s o => ?_, fun s o => ?_⟩
  · intro d ha ho docked departed
    have hdocked : ∀ {c : Instr} {u : Dev}, exec c s = s.becomes u → d.DockedAt u o → docked c := fun hc h =>
      ⟨_, hc, h.sub, h.last, h.clampTimer, h.down, h.up, h.state, h.order, h.pad, h.lastOrder, h.view, h.loss, h.speed, h.idx, h.peers⟩
    have hdeparted : ∀ {c : Instr} {u : Dev}, exec c s = s.becomes u → d.DepartedOn u o → departed c := fun hc h =>
      ⟨_, hc, h.sub, h.last, h.clampTimer, h.down, h.up, h.order, h.pad, h.cle, h.odo, h.sup, h.runs, h.halts⟩
    exact ⟨fun hsub hab hs =>
        ⟨fun hdown hup => hdocked rfl (Dev.clampSensor_down_docks ha ho hs hab hsub hdown hup),
          fun hdown hup hduty => hdocked rfl (Dev.clampSensor_up_docks ha ho hs hab hsub hdown hup hduty)⟩,
      fun hsub hs =>
        ⟨fun hdown hup => hdeparted rfl (Dev.clampSensor_up_departs ha ho hs hsub hdown hup),
          fun hdown hup => hdeparted rfl (Dev.clampSensor_down_departs ha ho hs hsub hdown hup)⟩⟩
  · intro d ho failed
    have hfailed : ∀ {c : Instr} {cause : DockCause} {k : FaultKind} {u : Dev}, exec c s = s.becomes u → d.DockFailed u o cause k →
        failed c cause k := fun hc h =>
      ⟨_, hc, h.active, h.order, h.lastOrder, h.last, h.clampTimer, h.corrTimer, h.down, h.up, h.peers, h.halted⟩
    refine ⟨fun hsub hdue => ?_, fun hsub hdue => ?_, fun hdue => ?_⟩
    · exact hfailed (congrArg s.becomes (Dev.whileDue_due _ _ hdue)) (Dev.clampTimeout_fails ho hsub)
    · exact hfailed (congrArg s.becomes (Dev.whileDue_due _ _ hdue)) (Dev.correctionTimeout_fails ho hsub)
    · refine ⟨_, congrArg s.becomes (Dev.whileDue_due _ _ hdue), ?_⟩
      obtain ⟨u, hu⟩ : ∃ u : Dev, ({ d with dkc := { d.dkc with watchTimer := d.timerMs d.tmp.carriage.clampTimeout } } : Dev).bump .clampNeither = u :=
        ⟨_, rfl⟩
      have htimer : u.dkc.watchTimer = some (d.now + d.tmp.carriage.clampTimeout * 1000) := by rw [← hu]; rfl
      have horder : u.stc.order = some o := by rw [← hu]; exact ho
      have hcle : u.cle = d.cle := by rw [← hu]; rfl
      have hodo : u.odo = d.odo := by rw [← hu]; rfl
      have heq : d.clampWatchTimeout = u.raise .clampSensor := by rw [← hu]; rfl
      obtain ⟨fs, b, x, y, l, cs, hraise, -⟩ := u.raise_changes (k := .clampSensor) (by decide)
      rw [heq]
      refine ⟨Dev.raise_active_self (by decide) u, (Dev.dockShown_dkc (Dev.raise_dockShown_of_halt rfl u)).2.2.2.trans htimer,
        (congrArg Prod.fst (Dev.raise_orders_of_halt (k := .clampSensor) rfl u)).trans horder, ?_, ?_⟩
      · rw [hraise]
        exact hcle
      · rw [hraise]
        exact hodo

end Sys2Proof.Machine

/-! SUPPORT. The stop check with its outcomes (R134, R135), and the events that lead to it (R133, R136). -/

namespace Sys2Proof.Machine

section
variable {d : Dev}

/-- A direction asked for at standstill is taken, whatever the outputs do about it (R28, R112). -/
theorem Dev.takeDirection_taken (h : d.odo.standstill = true) (dir : Direction) : ∃ (u : Odo) (b : Bdu) (cs : List (BitVec 16)),
    d.takeDirection dir = some { d with odo := u, bdu := b, counters := cs } ∧ u.pos = { d.odo.pos with dir := dir } := by
  unfold Dev.takeDirection
  rw [if_neg (by rw [h]; decide)]
  by_cases hd : d.odo.pos.dir = dir
  · exact ⟨d.odo, d.bdu, d.counters, if_pos hd, by rw [← hd]⟩
  · rw [if_neg hd, Dev.turn, if_neg hd, Dev.reverseLine]
    simp only
    split <;> exact ⟨_, _, _, rfl, rfl⟩

/-! ### The stop check's outcomes (R134) -/

/-- Where DKC takes its stop check: the station is in DOCKING, and what the check and a correction depend on is as it was. -/
structure Dev.AtCheck (d v : Dev) (o : Order) : Prop where
  order : v.stc.order = some o
  state : v.stc.state = .docking
  odo : v.odo = d.odo
  tmp : v.tmp = d.tmp
  cle : v.cle = d.cle
  faults : v.faults = d.faults
  now : v.now = d.now
  peers : v.peers = d.peers
  corrections : v.dkc.corrections = d.dkc.corrections

/-- The stop error written, and the check counted. -/
def Dev.stopMeasured (d : Dev) (error : Int) : Dev :=
  ({ d with dkc := { d.dkc with stopError := error } } : Dev).bump .stopChecks

theorem Dev.stopCheck_eq {o : Order} (ho : d.stc.order = some o) : d.stopCheck =
    let error : Int := d.refCoord o.route - (o.route.padCoord : Int)
    let w := d.stopMeasured error
    if error.natAbs ≤ d.tmp.carriage.dockTol * 1000 then w.startClamping
    else if 2 ≤ d.dkc.corrections then (w.raise .dockFailed).failDocking .checksExhausted .dockFailed
    else w.judgeCorrection o error := by
  unfold Dev.stopCheck
  split
  · next hn => exact absurd (hn.symm.trans ho) nofun
  · next o' ho' =>
    obtain rfl : o' = o := Option.some.inj (ho'.symm.trans ho)
    rfl

theorem Dev.startClamping_changes (d : Dev) : ∃ w : Timer, d.startClamping = { d with
    sup := { d.sup with demand := 0 }
    bdu := ({ d with bdu := { d.bdu with demandHanded := 0, duty := 0, clampUp := false, clampDown := true } } : Dev).settle.bdu
    dkc := { d.dkc with sub := .clamping, watchTimer := w, clampTimer := d.timerMs d.tmp.carriage.clampTimeout } } := by
  obtain ⟨w, hw⟩ := (({ (d.setDock .clamping).zeroDemand with
    bdu := { (d.setDock .clamping).zeroDemand.bdu with clampUp := false, clampDown := true } } : Dev).settle).watchClamps_changes
  refine ⟨w, ?_⟩
  unfold Dev.startClamping Dev.requestClampDown
  simp only [hw]
  rfl

theorem Dev.judgeCorrection_refused {o : Order} {error : Int} (h : d.correctionPermitted o error = false) :
    d.judgeCorrection o error = (d.raise .dockFailed).failDocking .outsideHeld .dockFailed := by
  rw [Dev.judgeCorrection, if_neg (by rw [h]; decide)]

theorem Dev.judgeCorrection_permitted {o : Order} {error : Int} (hs : d.odo.standstill = true)
    (h : d.correctionPermitted o error = true) : ∃ (u : Odo) (b : Bdu) (cs : List (BitVec 16)),
    d.judgeCorrection o error = { d with
      odo := u, bdu := b, counters := cs
      dkc := { d.dkc with
        corrections := d.dkc.corrections + 1, motionSeen := false, sub := .correct
        corrTimer := d.timerMs d.tmp.carriage.clampTimeout } }
    ∧ u.pos = { d.odo.pos with dir := d.correctionDirection o error } := by
  obtain ⟨u, b, cs, hu, hpos⟩ := Dev.takeDirection_taken hs (d.correctionDirection o error)
  rw [Dev.judgeCorrection, if_pos h, hu]
  exact ⟨_, _, _, rfl, hpos⟩

/-- A correction is permitted where its end lies on HELD sections and reaches no buffer (R135). -/
theorem Dev.correctionPermitted_iff {o : Order} {error : Int} {p : PadRec} {e : RouteEntry} (hp : findPad d.tmp.pads o.pad = some p)
    (he : o.route.entries[o.route.padIdx - 1]? = some e) : d.correctionPermitted o error = true ↔
    let f := footprintOf d.tmp.sections o.route.entries
      { sec := p.sec, leg := p.leg, offset := p.offset * 1000, dir := e.dir, idx := some o.route.padIdx }
      (halfSpan d.tmp.carriage.length (d.odo.pos.unc + ceilDiv (error.natAbs * d.growth) 1000))
    (∀ n ∈ f.sections, d.cle.holds n = true) ∧ ∀ x ∈ f.front ++ f.rear, x.stop ≠ .buffer := by
  simp only [Dev.correctionPermitted, Dev.correctedFootprint, hp, he, Bool.and_eq_true, List.all_eq_true, Bool.not_eq_true',
    reachesBuffer, List.any_eq_false, beq_iff_eq, List.mem_append, or_imp, forall_and, and_assoc, ne_eq]

/-! ### The events that lead to the stop check (R133, R135, R136) -/

theorem Dev.enterCheck_checks {o : Order} (ho : d.stc.order = some o) (hs : d.stc.state = .approach ∨ d.stc.state = .docking) :
    ∃ v : Dev, d.enterCheck = v.stopCheck ∧ d.AtCheck v o := by
  refine ⟨_, rfl, ?_⟩
  obtain hs | hs := hs
  · rw [if_pos (by rw [show (d.setDock .check).stc.state = .approach from hs]; rfl), Dev.enterState_of_demanding rfl]
    exact ⟨ho, rfl, rfl, rfl, rfl, rfl, rfl, rfl, rfl⟩
  · rw [if_neg (by rw [show (d.setDock .check).stc.state = .docking from hs]; decide)]
    exact ⟨ho, hs, rfl, rfl, rfl, rfl, rfl, rfl, rfl⟩

theorem Dev.dockStandstill_checks {o : Order} (ho : d.stc.order = some o) (hstill : d.odo.standstill = true)
    (hab : d.dkc.abortTaken = false)
    (h : (d.dkc.sub = .stopping ∧ d.stc.state = .approach) ∨ (d.dkc.sub = .check ∧ d.stc.state = .docking)
      ∨ (d.dkc.sub = .correct ∧ d.stc.state = .docking ∧ d.dkc.motionSeen = true)) :
    ∃ v : Dev, d.dockStandstill = v.stopCheck ∧ d.AtCheck v o := by
  obtain ⟨hsub, hs⟩ | ⟨hsub, hs⟩ | ⟨hsub, hs, hm⟩ := h
  · obtain ⟨v, hv, hat⟩ := Dev.enterCheck_checks ho (.inl hs)
    refine ⟨v, ?_, hat⟩
    rw [← hv]
    simp [Dev.dockStandstill, Dev.endOfApproach, hsub, hs, hab, hstill]
  · refine ⟨d, ?_, ⟨ho, hs, rfl, rfl, rfl, rfl, rfl, rfl, rfl⟩⟩
    simp [Dev.dockStandstill, Dev.recheck, hsub, hs, hab, hstill]
  · obtain ⟨v, hv, hat⟩ := Dev.enterCheck_checks (d := { d with dkc := { d.dkc with corrTimer := none } }) ho (.inr hs)
    refine ⟨v, ?_, { hat with }⟩
    rw [← hv]
    simp [Dev.dockStandstill, Dev.endOfCorrection, hsub, hs, hab, hstill, hm]

theorem Dev.dockStandstill_idle (h : d.dkc.abortTaken = true ∨ d.dkc.sub ∈ [.idle, .clamping, .clamped, .unclamping, .failed]) :
    d.dockStandstill = d := by
  unfold Dev.dockStandstill
  split
  iterate 2
    next hsub =>
      rw [Dev.endOfApproach, if_neg]
      rw [h.resolve_right (by rw [hsub]; decide)]
      simp
  · next hsub =>
    rw [Dev.recheck, if_neg]
    rw [h.resolve_right (by rw [hsub]; decide)]
    simp
  · next hsub =>
    rw [Dev.endOfCorrection, if_neg]
    rw [h.resolve_right (by rw [hsub]; decide)]
    simp
  all_goals rfl

/-- What a part shows after a docking that failed under the conditions of the stop check. -/
theorem Dev.DockFailed.shows {e v : Dev} {o : Order} {c : DockCause} (h : v.DockFailed e o c .dockFailed)
    (hs : v.stc.state ∈ [.running, .approach, .docking]) (hp : v.peers = d.peers) :
    e.faultActive .dockFailed = true ∧ e.stc.order = none ∧ e.stc.state = .halted ∧ e.stc.remembered = some .rest
      ∧ e.stc.lastOrder = ⟨o.id, some .failed, some .dockFailed⟩ ∧ e.dkc.last = .failed c ∧ e.dkc.clampTimer = none
      ∧ e.dkc.corrTimer = none ∧ e.bdu.clampDown = false ∧ e.bdu.clampUp = false ∧ e.peers = d.peers :=
  ⟨h.active, h.order, (h.halted hs).1, (h.halted hs).2, h.lastOrder, h.last, h.clampTimer, h.corrTimer, h.down, h.up,
    h.peers.trans hp⟩

end

/-- Settles O50: the stop check by its outcomes, the approach that saw no pad, and the sub-states in which standstill is no event. -/
theorem standstillEndsTheApproach : Obligations.StandstillEndsTheApproach := by
  intro d o r c e ho hstill error far growth permitted sense toward failed checks
  refine ⟨fun hab hchecks => ?check, fun hab hsub hs => ?creep, fun h => Dev.dockStandstill_idle h, ?event, fun m hm => ?motion⟩
  case check =>
    obtain ⟨v, hv, hat⟩ := Dev.dockStandstill_checks ho hstill hab hchecks
    have herror : v.refCoord o.route - (o.route.padCoord : Int) = error := by
      rw [Dev.refCoord, hat.tmp, hat.odo]
      rfl
    have he : e = if error.natAbs ≤ c.dockTol * 1000 then (v.stopMeasured error).startClamping
        else if 2 ≤ d.dkc.corrections then ((v.stopMeasured error).raise .dockFailed).failDocking .checksExhausted .dockFailed
        else (v.stopMeasured error).judgeCorrection o error := by
      refine hv.trans ((Dev.stopCheck_eq hat.order).trans ?_)
      simp only [herror, hat.tmp, hat.corrections]
      rfl
    have hdocking : (v.stopMeasured error).stc.state ∈ [.running, .approach, .docking] := by
      rw [show (v.stopMeasured error).stc.state = .docking from hat.state]
      decide
    clear_value e
    by_cases hnear : error.natAbs ≤ c.dockTol * 1000
    · rw [if_pos hnear] at he
      obtain ⟨w, hw⟩ := (v.stopMeasured error).startClamping_changes
      rw [hw] at he
      have htimer : (v.stopMeasured error).timerMs (v.stopMeasured error).tmp.carriage.clampTimeout
          = some (d.now + c.clampTimeout * 1000) := by
        show some (v.now + v.tmp.carriage.clampTimeout * 1000) = _
        rw [hat.now, hat.tmp]
      subst he
      refine ⟨rfl, fun _ => ⟨rfl, htimer, rfl, rfl, ?_, ?_, rfl, hat.state, hat.order, hat.cle, hat.odo, hat.faults⟩,
        fun hfar => absurd hnear (Nat.not_le.mpr hfar), fun hfar => absurd hnear (Nat.not_le.mpr hfar)⟩
      · exact ite_self (0 : Nat)
      · simp [Dev.settle, Bdu.forced]
    · rw [if_neg hnear] at he
      by_cases hcount : 2 ≤ d.dkc.corrections
      · rw [if_pos hcount] at he
        have hfail := Dev.raise_failDocking (d := v.stopMeasured error) (k := .dockFailed) hat.order rfl .checksExhausted
        rw [← he] at hfail
        exact ⟨hfail.stopError, fun hn => absurd (Nat.lt_of_not_le hnear) hn, fun _ _ => hfail.shows hdocking hat.peers,
          fun _ hlt => absurd hcount (Nat.not_le.mpr hlt)⟩
      · rw [if_neg hcount] at he
        have hodd : (v.stopMeasured error).odo.standstill = true := by
          show v.odo.standstill = true
          rw [hat.odo]
          exact hstill
        have hiff : ∀ p en, findPad d.tmp.pads o.pad = some p → r.entries[r.padIdx - 1]? = some en →
            (permitted ↔ (v.stopMeasured error).correctionPermitted o error = true) := fun p en hp hen => by
          have hgrowth : (v.stopMeasured error).growth = growth := by
            rw [Dev.growth_eq]
            show (if v.odo.chA.failed = false ∧ v.odo.chB.failed = false then v.tmp.carriage.growth else 2 * v.tmp.carriage.growth) = _
            rw [hat.odo, hat.tmp]
          have hbody := Dev.correctionPermitted_iff (d := v.stopMeasured error) (o := o) (error := error) (p := p) (e := en)
            (by show findPad v.tmp.pads o.pad = some p; rw [hat.tmp]; exact hp) hen
          rw [hgrowth, show (v.stopMeasured error).tmp = d.tmp from hat.tmp, show (v.stopMeasured error).odo = d.odo from hat.odo,
            show (v.stopMeasured error).cle = d.cle from hat.cle] at hbody
          rw [hbody]
          refine ⟨fun h => h p en hp hen, fun h p' en' hp' hen' => ?_⟩
          obtain rfl : p' = p := Option.some.inj (hp'.symm.trans hp)
          obtain rfl : en' = en := Option.some.inj (hen'.symm.trans hen)
          exact h
        cases hp : (v.stopMeasured error).correctionPermitted o error
        · rw [Dev.judgeCorrection_refused hp] at he
          have hfail := Dev.raise_failDocking (d := v.stopMeasured error) (k := .dockFailed) hat.order rfl .outsideHeld
          rw [← he] at hfail
          refine ⟨hfail.stopError, fun hn => absurd (Nat.lt_of_not_le hnear) hn, fun _ h2 => absurd h2 hcount, ?_⟩
          intro _ _ p en hfind hen
          exact ⟨fun hperm => absurd (((hiff p en hfind hen).mp hperm).symm.trans hp) (by decide),
            fun _ => hfail.shows hdocking hat.peers⟩
        · obtain ⟨u, b, cs, hjudge, hpos⟩ := Dev.judgeCorrection_permitted hodd hp
          have htoward : (v.stopMeasured error).correctionDirection o error = toward := by
            show (if error < 0 then (o.route.place v.tmp.sections v.odo.pos.point).2
              else (o.route.place v.tmp.sections v.odo.pos.point).2.flip) = _
            rw [hat.tmp, hat.odo]
          have hupos : u.pos = { d.odo.pos with dir := toward } := by
            rw [hpos, htoward, show (v.stopMeasured error).odo = d.odo from hat.odo]
          have htimer : (v.stopMeasured error).timerMs (v.stopMeasured error).tmp.carriage.clampTimeout
              = some (d.now + c.clampTimeout * 1000) := by
            show some (v.now + v.tmp.carriage.clampTimeout * 1000) = _
            rw [hat.now, hat.tmp]
          rw [hjudge] at he
          subst he
          refine ⟨rfl, fun hn => absurd (Nat.lt_of_not_le hnear) hn, fun _ h2 => absurd h2 hcount, ?_⟩
          intro _ _ p en hfind hen
          exact ⟨fun _ => ⟨rfl, congrArg (· + 1) hat.corrections, rfl, htimer, hupos, hat.state, hat.order, hat.cle, hat.faults⟩,
            fun hn => absurd ((hiff p en hfind hen).mpr hp) hn⟩
  case creep =>
    have he : e = if d.dkc.dStop.any (fun x => decide (x ≤ (c.dockTol : Int))) then
        (d.raise .dockFailed).failDocking .padNotSeen .dockFailed else d := by
      show d.dockStandstill = _
      simp only [Dev.dockStandstill, Dev.endOfApproach, hsub, hs, hab, hstill]
      rfl
    clear_value e
    constructor
    · intro x hx hle
      rw [if_pos (by rw [hx]; simpa using hle)] at he
      have hfail := Dev.raise_failDocking (k := .dockFailed) ho rfl .padNotSeen
      rw [← he] at hfail
      exact hfail.shows (by rw [hs]; decide) rfl
    · intro hall
      rw [he, if_neg]
      intro hany
      obtain ⟨x, hx, hle⟩ := (Option.any_eq_true _ _).mp hany
      exact absurd (of_decide_eq_true hle) (Int.not_le.mpr (hall x hx))
  case event =>
    rw [Dev.standstillChanged, hstill]
    rfl
  case motion =>
    rw [Dev.standstillChanged, hm, Dev.dockMotion]
    simp only [beq_iff_eq]
    rfl

end Sys2Proof.Machine

/-! SUPPORT. A beacon's payload by its fields, and what is read back of each (R43, R86, R169). -/

namespace Sys2Proof.Machine

/-! ### Bytes and fields at their places -/

theorem byteAt_append (l r : List Byte) (n : Nat) : byteAt (l ++ BitVec.ofNat 8 n :: r) l.length = n % 256 := by
  have h := getD_append_add l (BitVec.ofNat 8 n :: r) 0
  rw [Nat.add_zero] at h
  rw [byteAt, h]
  rfl

theorem map_toNat_ofNat {l : List Nat} (h : ∀ n ∈ l, n < 256) : (l.map (BitVec.ofNat 8 ·)).map (·.toNat) = l := by
  rw [List.map_map]
  exact (List.map_congr_left fun n hn => by
    show (BitVec.ofNat 8 n).toNat = id n
    rw [BitVec.toNat_ofNat, Nat.mod_eq_of_lt (h n hn), id]).trans (List.map_id l)

theorem dedupBy_of_nodup {l : List Nat} (h : l.Nodup) : ∀ seen : List Nat, (∀ n ∈ l, n ∉ seen) → dedupBy id seen l = l := by
  induction l with
  | nil => exact fun _ _ => rfl
  | cons x l ih =>
    intro seen hs
    obtain ⟨hx, hl⟩ := List.nodup_cons.mp h
    have hout : seen.contains (id x) = false := by simpa using hs x (.head _)
    rw [dedupBy, hout]
    simp only [Bool.false_eq_true, if_false]
    rw [ih hl]
    intro n hn
    simp only [id, List.mem_cons, not_or]
    exact ⟨fun h => hx (h ▸ hn), hs n (.tail _ hn)⟩

/-- A ticket within its limits is read back from its byte (R60, R169). -/
theorem Ticket.ofByte_toByte {t : Ticket} (hl : t.loss ≤ 15) (hp : t.priority ≤ 3) : Ticket.ofByte t.toByte t.station = t := by
  obtain ⟨o, l, p, s⟩ := t
  have hl' : l < 16 := Nat.lt_succ_of_le hl
  have hp' : p < 4 := Nat.lt_succ_of_le hp
  simp only [Ticket.ofByte, Ticket.toByte, Ticket.mk.injEq, and_true, Nat.mod_eq_of_lt hl', Nat.mod_eq_of_lt hp',
    BitVec.getLsbD_ofNat, Nat.testBit_eq_decide_div_mod_eq, BitVec.toNat_ofNat]
  cases o <;> simp only [Bool.toNat_true, Bool.toNat_false] <;> refine ⟨?_, ?_, ?_⟩ <;> simp <;> omega

/-- A beacon's bytes from the numbers it carries (R169). -/
def beaconBytes (sig : Nat) (state fault : Byte) (order sec off flags speed len unc : Nat) (held : List Nat) (tail : List Byte) :
    List Byte :=
  beBytes 4 sig ++ [state, fault] ++ beBytes 2 order ++ [BitVec.ofNat 8 sec] ++ beBytes 3 off ++ [BitVec.ofNat 8 flags]
    ++ beBytes 2 speed ++ beBytes 2 len ++ beBytes 2 unc ++ (BitVec.ofNat 8 held.length :: held.map (BitVec.ofNat 8 ·)) ++ tail

theorem beAt_drop (p : List Byte) (i w : Nat) : beAt p i w = beAt (p.drop i) 0 w := by
  simp only [beAt, List.getD_eq_getElem?_getD, List.getElem?_drop, Nat.zero_add]

theorem beAt_head (r : List Byte) (w n : Nat) : beAt (beBytes w n ++ r) 0 w = n % 256 ^ w :=
  beAt_beBytes [] r w n

theorem beAt_of_drop {p r : List Byte} {i w n : Nat} (h : p.drop i = beBytes w n ++ r) : beAt p i w = n % 256 ^ w := by
  rw [beAt_drop, h, beAt_head]

section
variable {sig order sec off flags speed len unc : Nat} {state fault : Byte} {held : List Nat} {tail : List Byte}

theorem beaconBytes_sig :
    beAt (beaconBytes sig state fault order sec off flags speed len unc held tail) 0 4 = sig % 256 ^ 4 := beAt_of_drop rfl

theorem beaconBytes_off :
    beAt (beaconBytes sig state fault order sec off flags speed len unc held tail) 9 3 = off % 256 ^ 3 := beAt_of_drop rfl

theorem beaconBytes_speed :
    beAt (beaconBytes sig state fault order sec off flags speed len unc held tail) 13 2 = speed % 256 ^ 2 := beAt_of_drop rfl

theorem beaconBytes_len :
    beAt (beaconBytes sig state fault order sec off flags speed len unc held tail) 15 2 = len % 256 ^ 2 := beAt_of_drop rfl

theorem beaconBytes_unc :
    beAt (beaconBytes sig state fault order sec off flags speed len unc held tail) 17 2 = unc % 256 ^ 2 := beAt_of_drop rfl

theorem beaconBytes_sec :
    byteAt (beaconBytes sig state fault order sec off flags speed len unc held tail) 8 = sec % 256 := rfl

theorem beaconBytes_flags :
    (beaconBytes sig state fault order sec off flags speed len unc held tail).getD 12 0 = BitVec.ofNat 8 flags := rfl

theorem beaconBytes_count :
    byteAt (beaconBytes sig state fault order sec off flags speed len unc held tail) 19 = held.length % 256 := rfl

theorem beaconBytes_drop :
    (beaconBytes sig state fault order sec off flags speed len unc held tail).drop 20 = held.map (BitVec.ofNat 8 ·) ++ tail := rfl

/-- The bytes behind the held list. -/
theorem beaconBytes_tail (k : Nat) :
    (beaconBytes sig state fault order sec off flags speed len unc held tail).getD (20 + held.length + k) 0 = tail.getD k 0 := by
  have h := getD_append_add (held.map (BitVec.ofNat 8 ·)) tail k
  rw [List.length_map, ← beaconBytes_drop (sig := sig) (state := state) (fault := fault) (order := order) (sec := sec) (off := off)
    (flags := flags) (speed := speed) (len := len) (unc := unc), List.getD_eq_getElem?_getD, List.getElem?_drop,
    ← List.getD_eq_getElem?_getD] at h
  rw [← h, Nat.add_assoc]

theorem beaconBytes_length :
    (beaconBytes sig state fault order sec off flags speed len unc held tail).length = 20 + held.length + tail.length := by
  simp only [beaconBytes, List.length_append, beBytes_length, List.length_cons, List.length_nil, List.length_map]
  omega

end

theorem readBeacon_held (p : List Byte) : (readBeacon p).held
    = dedupBy id [] ((((p.drop 20).take (byteAt p 19)).map (·.toNat)).filter (· != 0)) := rfl

theorem readBeacon_intentSec (p : List Byte) : (readBeacon p).intentSec = byteAt p (20 + byteAt p 19) := rfl

theorem readBeacon_ticketByte (p : List Byte) : (readBeacon p).ticketByte = p.getD (21 + byteAt p 19) 0 := rfl

theorem readBeacon_waitSec (p : List Byte) : (readBeacon p).waitSec = byteAt p (22 + byteAt p 19) := rfl

theorem readBeacon_waitPeer (p : List Byte) : (readBeacon p).waitPeer = byteAt p (23 + byteAt p 19) := rfl

/-! ### The values that a part puts in its beacon (R86, R169) -/

section
variable {d : Dev}

theorem Cle.heldSections_of_ok {c : Cle} (h : c.ok) (hs : ∀ e ∈ c.table, 1 ≤ e.sec ∧ e.sec ≤ 240) :
    c.heldSections.length ≤ 8 ∧ c.heldSections.Nodup ∧ ∀ n ∈ c.heldSections, 1 ≤ n ∧ n ≤ 240 := by
  obtain ⟨hlen, hnodup, -⟩ := h
  refine ⟨?_, ?_, ?_⟩
  · rw [Cle.heldSections, List.length_map]
    exact (List.length_filter_le ..).trans hlen
  · exact hnodup.sublist (List.filter_sublist.map _)
  · intro n hn
    obtain ⟨e, he, rfl⟩ := List.mem_map.mp hn
    exact hs e (List.mem_of_mem_filter he)

theorem Cle.contention_le {c : Cle} (hs : ∀ e ∈ c.table, e.sec ≤ 240) : (c.contention.map (·.1)).getD 0 ≤ 240 := by
  cases hc : c.contention with
  | none => exact Nat.zero_le _
  | some x =>
    obtain ⟨e, he, heq⟩ := List.exists_of_findSome?_eq_some hc
    have hsec : x.1 = e.sec := by
      split at heq
      · rw [← Option.some.inj heq]
      all_goals exact absurd heq nofun
    show x.1 ≤ 240
    rw [hsec]
    exact hs e he

theorem Cle.waitingFor_le {c : Cle} (hs : ∀ e ∈ c.table, e.sec ≤ 240) : c.waitingFor.1 ≤ 240 := by
  unfold Cle.waitingFor
  split
  · next e he =>
    split
    · exact hs e (Cle.front_mem he)
    all_goals exact Nat.zero_le _
  · exact Nat.zero_le _

/-- The flag bits of a beacon (R169). -/
theorem flags_read (dir : Direction) (restricted warn : Bool) :
    let b : Byte := BitVec.ofNat 8 (dir.code + 2 * restricted.toNat + 4 * warn.toNat)
    Direction.ofCode b.toNat = dir ∧ b.getLsbD 1 = restricted ∧ b.getLsbD 2 = warn := by
  cases dir <;> cases restricted <;> cases warn <;> decide

/-- The payload by its fields. -/
theorem Dev.beaconPayload_eq (d : Dev) : d.beaconPayload = beaconBytes d.tmp.signature.toNat d.stateByte d.faultSummary
    ((d.stc.order.map (·.id)).getD 0) d.odo.beaconPlace.1 d.odo.beaconPlace.2
    (d.odo.pos.dir.code + 2 * (d.odo.pos.validity == .restricted).toNat + 4 * d.sup.warnFlag.toNat)
    (min d.odo.vMeas 65535) d.tmp.carriage.length (if d.odo.known then ceilDiv d.odo.pos.unc 1000 else 0) d.cle.heldSections
    [BitVec.ofNat 8 ((d.cle.contention.map (·.1)).getD 0), d.beaconTicket.toByte, BitVec.ofNat 8 d.cle.waitingFor.1,
      BitVec.ofNat 8 d.cle.waitingFor.2] := rfl

end

/-- Settles O17: each field of the payload is read back at its place. -/
theorem beaconIsReadBack : Obligations.BeaconIsReadBack := by
  intro d hok hsecs hsec hoff hlen hunc hloss hprio hpeer hstation b
  obtain ⟨hcount, hnodup, hrange⟩ := Cle.heldSections_of_ok hok hsecs
  have hcont := Cle.contention_le (c := d.cle) (fun e he => (hsecs e he).2)
  have hwait := Cle.waitingFor_le (c := d.cle) (fun e he => (hsecs e he).2)
  have hn : byteAt d.beaconPayload 19 = d.cle.heldSections.length := by
    rw [d.beaconPayload_eq, beaconBytes_count]
    omega
  have htail : ∀ k, d.beaconPayload.getD (20 + d.cle.heldSections.length + k) 0 =
      [BitVec.ofNat 8 ((d.cle.contention.map (·.1)).getD 0), d.beaconTicket.toByte, BitVec.ofNat 8 d.cle.waitingFor.1,
        BitVec.ofNat 8 d.cle.waitingFor.2].getD k 0 := fun k => by
    rw [d.beaconPayload_eq, beaconBytes_tail]
  have hplace : ∀ n, n ≤ 240 → n % 256 = n := fun n h => Nat.mod_eq_of_lt (by omega)
  obtain ⟨hdir, hrestricted, hwarn⟩ := flags_read d.odo.pos.dir (d.odo.pos.validity == .restricted) d.sup.warnFlag
  refine ⟨?layout, ?sig, ?known, ?unknown, ?dir, ?restricted, ?warn, ?speed, ?length, ?held, ?intent, ?ticket, ?wait⟩
  case layout =>
    have hsize : d.beaconPayload.length = 24 + d.cle.heldSections.length := by
      rw [d.beaconPayload_eq, beaconBytes_length]
      simp only [List.length_cons, List.length_nil]
      omega
    simp [layoutOk, FrameKind.minPayload, hsize, hn]
  case sig =>
    show BitVec.ofNat 32 (beAt d.beaconPayload 0 4) = _
    rw [d.beaconPayload_eq, beaconBytes_sig, Nat.mod_eq_of_lt (show d.tmp.signature.toNat < 256 ^ 4 from d.tmp.signature.isLt)]
    exact BitVec.ofNat_toNat ..
  case known =>
    intro hv
    have hk : d.odo.known = true := (Odo.known_iff _).mpr hv
    have hp : d.odo.beaconPlace = (d.odo.pos.sec, d.odo.pos.offset / 1000) := if_pos hk
    refine ⟨?_, ?_, ?_⟩
    · show byteAt d.beaconPayload 8 = _
      rw [d.beaconPayload_eq, beaconBytes_sec, hp, hplace _ hsec]
    · show beAt d.beaconPayload 9 3 = _
      rw [d.beaconPayload_eq, beaconBytes_off, hp]
      exact Nat.mod_eq_of_lt hoff
    · show beAt d.beaconPayload 17 2 = _
      rw [d.beaconPayload_eq, beaconBytes_unc, if_pos hk]
      have hcap : ceilDiv d.odo.pos.unc 1000 < 256 ^ 2 := by
        simp only [Config.uncertaintyCap] at hunc
        simp only [ceilDiv]
        omega
      rw [Nat.mod_eq_of_lt hcap]
      rfl
  case unknown =>
    intro hv
    have hk : d.odo.known = false := by
      cases h : d.odo.known
      · rfl
      · exact absurd hv ((Odo.known_iff _).mp h)
    have hp : d.odo.beaconPlace = (0, 0) := if_neg (by rw [hk]; decide)
    refine ⟨?_, ?_, ?_⟩
    · show byteAt d.beaconPayload 8 = _
      rw [d.beaconPayload_eq, beaconBytes_sec, hp]
      rfl
    · show beAt d.beaconPayload 9 3 = _
      rw [d.beaconPayload_eq, beaconBytes_off, hp]
      rfl
    · show beAt d.beaconPayload 17 2 = _
      rw [d.beaconPayload_eq, beaconBytes_unc, if_neg (by rw [hk]; decide)]
      rfl
  case dir => exact hdir
  case restricted => exact hrestricted
  case warn => exact hwarn
  case speed =>
    show beAt d.beaconPayload 13 2 = _
    rw [d.beaconPayload_eq, beaconBytes_speed]
    exact Nat.mod_eq_of_lt (Nat.lt_succ_of_le (Nat.min_le_right ..))
  case length =>
    show beAt d.beaconPayload 15 2 = _
    rw [d.beaconPayload_eq, beaconBytes_len]
    exact Nat.mod_eq_of_lt hlen
  case held =>
    show (readBeacon d.beaconPayload).held = _
    rw [readBeacon_held, hn, d.beaconPayload_eq, beaconBytes_drop, List.take_left' (List.length_map _),
      map_toNat_ofNat (fun n h => by have := hrange n h; omega), List.filter_eq_self.mpr]
    · exact dedupBy_of_nodup hnodup [] (fun _ _ => List.not_mem_nil)
    · intro n h
      have := hrange n h
      simp only [bne_iff_ne]
      omega
  case intent =>
    have hbyte := htail 0
    rw [Nat.add_zero] at hbyte
    show (readBeacon d.beaconPayload).intentSec = _
    rw [readBeacon_intentSec, byteAt, hn, hbyte, List.getD_cons_zero, BitVec.toNat_ofNat]
    exact hplace _ hcont
  case ticket =>
    show Ticket.ofByte (readBeacon d.beaconPayload).ticketByte d.station = _
    rw [readBeacon_ticketByte, hn, show 21 + d.cle.heldSections.length = 20 + d.cle.heldSections.length + 1 by omega, htail, ← hstation]
    exact Ticket.ofByte_toByte hloss hprio
  case wait =>
    have hwaitSec : byteAt d.beaconPayload (22 + d.cle.heldSections.length) = d.cle.waitingFor.1 := by
      rw [byteAt, show 22 + d.cle.heldSections.length = 20 + d.cle.heldSections.length + 2 by omega, htail]
      simp only [List.getD_cons_succ, List.getD_cons_zero, BitVec.toNat_ofNat]
      exact hplace _ hwait
    have hwaitPeer : byteAt d.beaconPayload (23 + d.cle.heldSections.length) = d.cle.waitingFor.2 := by
      rw [byteAt, show 23 + d.cle.heldSections.length = 20 + d.cle.heldSections.length + 3 by omega, htail]
      simp only [List.getD_cons_succ, List.getD_cons_zero, BitVec.toNat_ofNat]
      exact hplace _ (by omega)
    show ((readBeacon d.beaconPayload).waitSec, (readBeacon d.beaconPayload).waitPeer) = d.cle.waitingFor
    rw [readBeacon_waitSec, readBeacon_waitPeer, hn, hwaitSec, hwaitPeer]

end Sys2Proof.Machine

/-! SUPPORT. Intake of a peer's frame, said once (R40 to R42): the sender's record after it, and what else is as it was. -/

namespace Sys2Proof.Machine

section
variable {d : Dev} {f : Frame} {rest : List Frame} {r : PeerRec}

/-! ### A record made (R40) -/

theorem Dev.addPeer_new (h : d.peer r.station = none) : d.addPeer r = ({ d with
    peers := d.peers.takeWhile (fun x => decide (x.station ≤ r.station)) ++ r :: d.peers.dropWhile (fun x => decide (x.station ≤ r.station)) }
      : Dev).bump .recordsMade := by
  rw [Dev.addPeer, h, insertSorted_eq]
  rfl

theorem find?_between {α : Type} (p : α → Bool) (x : α) (l₁ l₂ : List α) (h : p x = false) :
    (l₁ ++ x :: l₂).find? p = (l₁ ++ l₂).find? p := by
  simp only [List.find?_append, List.find?_cons, h]

theorem Dev.peer_addPeer_ne (h : d.peer r.station = none) {n : Nat} (hn : n ≠ r.station) : (d.addPeer r).peer n = d.peer n := by
  rw [Dev.addPeer_new h]
  show List.find? _ (_ ++ r :: _) = _
  rw [find?_between _ _ _ _ (by simpa using fun hs => hn hs.symm), List.takeWhile_append_dropWhile]
  rfl

theorem Dev.peer_addPeer_same (h : d.peer r.station = none) : (d.addPeer r).peer r.station = some r := by
  rw [Dev.addPeer_new h]
  show List.find? _ (_ ++ r :: _) = _
  have hnone : (d.peers.takeWhile (fun x => decide (x.station ≤ r.station))).find? (fun x => x.station == r.station) = none := by
    rw [List.find?_eq_none] at *
    rw [Dev.peer, List.find?_eq_none] at h
    exact fun x hx => h x ((List.takeWhile_sublist _).subset hx)
  rw [List.find?_append, hnone, Option.none_or, List.find?_cons_of_pos (by simp)]

/-! ### The sender's record after intake (R42) -/

theorem Dev.foreignChanged_still (d : Dev) (n : Nat) : (d.foreignChanged n).still = d.still :=
  (inner_still d.still).foreignChanged n rfl

theorem Dev.onFreshness_still (d : Dev) (r : PeerRec) : (d.onFreshness r).still = d.still :=
  (inner_still d.still).onFreshness r rfl

theorem Intake.news_still (i : Intake) (d : Dev) (n : Nat) : (i.news d n).still = d.still := by
  unfold Intake.news
  split
  · split
    · exact d.onFreshness_still _
    · rfl
  · rfl

/-- What a part shows of its peers and its line after a frame from a source was taken: the frame is gone, one record is this one. -/
structure Dev.TookIn (d e : Dev) (f : Frame) (rest : List Frame) (r : PeerRec) : Prop where
  peer : e.peer f.src = some r
  others : ∀ n, n ≠ f.src → e.peer n = d.peer n
  mailbox : e.lif.mailbox = rest
  tmp : e.tmp = d.tmp
  now : e.now = d.now

theorem Dev.still_shows {d e : Dev} (h : e.still = d.still) :
    e.peers = d.peers ∧ e.lif.mailbox = d.lif.mailbox ∧ e.tmp = d.tmp ∧ e.now = d.now :=
  ⟨(congrArg Dev.peers h :), (congrArg (fun y : Dev => y.lif.mailbox) h :), (congrArg Dev.tmp h :), (congrArg Dev.now h :)⟩

theorem Dev.TookIn.still {e e' : Dev} (h : d.TookIn e f rest r) (hs : e'.still = e.still) : d.TookIn e' f rest r := by
  obtain ⟨hp, hm, ht, hn⟩ := Dev.still_shows hs
  exact ⟨(Dev.peer_congr hp _).trans h.peer, fun n hne => (Dev.peer_congr hp _).trans (h.others n hne), hm.trans h.mailbox,
    ht.trans h.tmp, hn.trans h.now⟩

/-- A record written anew in its place. -/
theorem Dev.TookIn.setPeer {e : Dev} {r' : PeerRec} (h : d.TookIn e f rest r) (hs : r'.station = f.src) :
    d.TookIn (e.setPeer r') f rest r' :=
  ⟨by rw [← hs]; exact Dev.peer_setPeer_same (by rw [hs]; exact h.peer),
    fun n hn => (Dev.peer_setPeer_ne e r' (by rwa [hs])).trans (h.others n hn), h.mailbox, h.tmp, h.now⟩

theorem Dev.addPeer_took (hs : r.station = f.src) (h : d.peer f.src = none) : d.TookIn ((d.without rest).addPeer r) f rest r := by
  have hnone : (d.without rest).peer r.station = none := by rw [hs]; exact h
  have hsame := Dev.peer_addPeer_same hnone
  have hothers : ∀ n, n ≠ r.station → ((d.without rest).addPeer r).peer n = (d.without rest).peer n :=
    fun n hn => Dev.peer_addPeer_ne hnone hn
  rw [hs] at hsame hothers
  rw [Dev.addPeer_new hnone] at hsame hothers ⊢
  exact ⟨hsame, hothers, rfl, rfl, rfl⟩

/-- A frame that passes the source check leaves its sender FRESH, heard now, in a record of the frame's kind. -/
theorem Dev.intake_heard (h : d.passes f rest) : ∃ r0 : PeerRec, ((d.without rest).intake f).record = some r0
    ∧ d.TookIn ((d.without rest).intake f).dev f rest r0 ∧ r0.station = f.src ∧ r0.kind = f.kind.sender ∧ r0.freshness = .fresh
    ∧ r0.heardAt = d.now ∧ (f.kind.sender = .carriage → r0.frozen = false) ∧ (∀ r, d.peer f.src = some r → r0 = r.heard d.now)
    ∧ (d.peer f.src = none → r0 = PeerRec.fresh f.src f.kind.sender d.now) := by
  obtain ⟨-, h1, h32, hs, hsender⟩ := h
  cases hr : d.peer f.src with
  | none =>
    have hi := Dev.intake_new (d := d.without rest) h1 h32 hs hr
    rw [hi]
    exact ⟨_, rfl, Dev.addPeer_took rfl hr, rfl, rfl, rfl, rfl, fun _ => rfl,
      fun _ h => absurd h (Option.some_ne_none _).symm, fun _ => rfl⟩
  | some r =>
    have hk : r.kind = f.kind.sender := by simpa [hr] using hsender
    have hi : (d.without rest).updates f r := Dev.intake_known h1 h32 hs hr hk
    have htook : d.TookIn (d.without rest) f rest r := ⟨hr, fun _ _ => rfl, rfl, rfl, rfl⟩
    have hstation : (r.heard d.now).station = f.src := (Dev.peer_station hr : r.station = f.src)
    rw [hi]
    refine ⟨_, rfl, (htook.setPeer hstation).still (Dev.foreignChanged_still _ _), hstation, hk, rfl, rfl, fun hc => ?_,
      fun x hx => by rw [← Option.some.inj hx]; rfl, fun h => absurd h (Option.some_ne_none _)⟩
    simp [PeerRec.heard, hk, hc]

/-- A FRESH sender's record is all that intake changes. -/
theorem Dev.setPeerCounted_of_fresh (hok : d.peersOk) (hr : d.peer f.src = some r) (hfresh : r.freshness = .fresh) :
    d.setPeerCounted (r.heard d.now) = d.setPeer (r.heard d.now) := by
  have hr' : d.peer (r.heard d.now).station = some r := (congrArg d.peer (Dev.peer_station hr)).trans hr
  rw [Dev.setPeerCounted, ← Dev.foreignCount_setPeer hok hr' rfl rfl hfresh.symm, Dev.foreignChanged_same]

/-! ### The frames' own changes of their sender's record (R43, R44, R46) -/

theorem PeerRec.heard_carriage {r : PeerRec} (h : r.kind = .carriage) (now : Nat) :
    r.heard now = { r with heardAt := now, framesHeard := satInc r.framesHeard, freshness := .fresh, frozen := false } := by
  simp only [PeerRec.heard, h, beq_self_eq_true, if_true]

theorem Dev.intake_bad (h : f.src = 0 ∨ 32 < f.src) : d.intake f = ⟨d.bump .badSource, none, false⟩ := by
  rw [Dev.intake, if_pos (by simpa using h)]

theorem Dev.intake_echo (h1 : 1 ≤ f.src) (h32 : f.src ≤ 32) (hs : f.src = d.station) :
    d.intake f = ⟨(d.bump .echoFrames).raise .echoId, none, false⟩ := by
  have hgood : ¬(f.src = 0 ∨ 32 < f.src) := by omega
  rw [Dev.intake, if_neg (by simpa using hgood), if_pos hs]

/-- A frame of another kind of sender than the record's: the record is heard all the same (R41). -/
theorem Dev.intake_conflict (h1 : 1 ≤ f.src) (h32 : f.src ≤ 32) (hs : f.src ≠ d.station) (hr : d.peer f.src = some r)
    (hk : r.kind ≠ f.kind.sender) (hc : f.kind.sender ≠ .console) :
    d.intake f = ⟨(d.setPeerCounted (r.heard d.now)).bump .kindConflict, none, r.freshness != .fresh⟩ := by
  have hgood : ¬(f.src = 0 ∨ 32 < f.src) := by omega
  rw [Dev.intake, if_neg (by simpa using hgood), if_neg hs]
  simp only [hr]
  rw [if_neg hk, if_neg hc]

theorem Dev.takePeerReport_none {x : Dev} {b : Bool} (h : d.intake f = ⟨x, none, b⟩) : d.takePeerReport f = x := by
  simp only [Dev.takePeerReport, h]

theorem Dev.takePeerReport_some {x : PeerRec} (h : (d.intake f).record = some x) : d.takePeerReport f = (d.intake f).only f.src := by
  simp only [Dev.takePeerReport, h]

theorem Frame.sender_of_report {f : Frame} (h : f.isPeerReport = true) : f.kind.sender = .carriage := by
  simp only [Frame.isPeerReport, Bool.or_eq_true, beq_iff_eq] at h
  obtain ((h | h) | h) | h := h <;> rw [h] <;> rfl

end

/-- A record of the table written over all entries of its station. -/
theorem Dev.setPeer_at {d : Dev} {r : PeerRec} {n : Nat} (h : r.station = n) :
    d.setPeer r = { d with peers := d.peers.map (fun x => if x.station = n then r else x) } := by
  rw [Dev.setPeer, h]

/-- Settles O23: the source check's outcomes in turn. -/
theorem dispatchChecksTheSource : Obligations.DispatchChecksTheSource := by
  intro s f rest d hmail hreport hok left made before grown
  have hsender : f.kind.sender = .carriage := Frame.sender_of_report hreport
  have hexec : exec .peerReportFrame s = s.becomes (left.takePeerReport f) :=
    congrArg s.becomes (Dev.dispatch_head (is := Frame.isPeerReport) hmail hreport Dev.takePeerReport)
  refine ⟨fun hbad => ?bad, fun h1 h32 hs => ?echo, fun h1 h32 hs hn => ?new, fun r h1 h32 hs hr hk hfresh => ?conflict,
    fun r h1 h32 hs hr hk => ?carriage⟩
  case bad =>
    rw [hexec, Dev.takePeerReport_none (Dev.intake_bad hbad)]
    rfl
  case echo =>
    have htake : left.takePeerReport f = (left.bump .echoFrames).raise .echoId :=
      Dev.takePeerReport_none (Dev.intake_echo h1 h32 hs)
    refine ⟨_, hexec, ?_⟩
    obtain ⟨fs, b, cs, heq, -⟩ := (left.bump .echoFrames).enterFault_changes .echoId
    rw [htake]
    refine ⟨Dev.raise_active_self (by decide) _, ?_⟩
    rw [Dev.raise_of_warn rfl, heq]
    refine ⟨rfl, rfl, rfl, ?_⟩
    show (if _ then Lif.place _ _ else _).mailbox = rest
    split
    · rw [Lif.place_eq]
      rfl
    · rfl
  case new =>
    have hi := Dev.intake_new (d := left) h1 h32 hs hn
    rw [hexec, Dev.takePeerReport_some (congrArg Intake.record hi), hi, Intake.only, Intake.news_of_fresh rfl, hsender,
      Dev.addPeer_new (d := left) (r := PeerRec.fresh f.src .carriage left.now) hn]
    rfl
  case conflict =>
    intro heard
    have hheard : r.heard d.now = { r with heardAt := d.now, framesHeard := satInc r.framesHeard } := by
      have hkind : (r.kind == .carriage) = false := beq_false_of_ne hk
      simp only [PeerRec.heard, hkind, Bool.false_eq_true, if_false, ← hfresh]
    have hset := Dev.setPeerCounted_of_fresh (d := left) hok hr hfresh
    have htake : left.takePeerReport f = (left.setPeer (r.heard d.now)).bump .kindConflict :=
      (Dev.takePeerReport_none (Dev.intake_conflict (d := left) h1 h32 hs hr (by rw [hsender]; exact hk)
        (by rw [hsender]; decide))).trans (congrArg (fun x : Dev => x.bump .kindConflict) hset)
    have hstation : (r.heard d.now).station = f.src := (Dev.peer_station hr : r.station = f.src)
    rw [hexec, htake, Dev.setPeer_at hstation, hheard]
    rfl
  case carriage =>
    intro heard
    have hi : left.updates f r := Dev.intake_known h1 h32 hs hr (hk.trans hsender.symm)
    have hstation : (r.heard d.now).station = f.src := (Dev.peer_station hr : r.station = f.src)
    have hpeers : (left.setPeer (r.heard d.now)).peers = heard := by
      rw [Dev.setPeer_at hstation, PeerRec.heard_carriage hk]
    have htake : left.takePeerReport f = (left.intake f).only f.src :=
      Dev.takePeerReport_some (congrArg Intake.record hi)
    constructor
    · refine ⟨_, hexec, ?_⟩
      have hstill : (left.takePeerReport f).still = (left.setPeer (r.heard d.now)).still := by
        rw [htake, Intake.only, Intake.news_still, hi]
        exact Dev.foreignChanged_still _ _
      obtain ⟨hp, hm, ht, -⟩ := Dev.still_shows hstill
      exact ⟨hp.trans hpeers, hm, ht⟩
    · intro hfresh
      have hset := Dev.setPeerCounted_of_fresh (d := left) hok hr hfresh
      rw [hexec, htake, Intake.only, Intake.news_of_fresh (by rw [hi, hfresh]; rfl), hi, hset, Dev.setPeer_at hstation,
        PeerRec.heard_carriage hk]
      rfl

/-- Settles O24: the beacon's fields written into the sender's record, or only its hearing. -/
theorem beaconReplacesTheRecord : Obligations.BeaconReplacesTheRecord := by
  intro s f rest d b hpass hkind hok
  have hexec : exec .beacon s = s.becomes ((d.without rest).takeBeacon f) :=
    congrArg s.becomes (Dev.dispatch_head hpass.1 (Frame.isKind_of hkind) Dev.takeBeacon)
  obtain ⟨r0, hrec, htook, hstation, hsender, hfresh, hat, hfrozen, hknown, -⟩ := Dev.intake_heard hpass
  have hcount : (readBeacon f.payload).heldCount = byteAt f.payload 19 := rfl
  constructor
  · intro hle
    let r' := ((d.without rest).intake f).dev.beaconRecord r0 b
    have htake : (d.without rest).takeBeacon f = (((d.without rest).intake f).news
        (((d.without rest).intake f).dev.setPeerCounted r') f.src).onBeacon r' := by
      simp only [Dev.takeBeacon, hrec, hcount]
      exact if_neg (Nat.not_lt.mpr hle)
    have hstill : ((d.without rest).takeBeacon f).still = (((d.without rest).intake f).dev.setPeer r').still := by
      rw [htake]
      refine ((inner_still _).onBeacon r' rfl).trans ((Intake.news_still ..).trans ?_)
      exact Dev.foreignChanged_still _ _
    obtain ⟨hpeer, hothers, hmail, htmp, hnow⟩ := (htook.setPeer (r' := r') hstation).still hstill
    refine ⟨_, r', hexec, hpeer, ?_, hfresh, hat, ?_, rfl, ?_, rfl, rfl, rfl, ?_, rfl, ?_, rfl, hothers, hmail⟩
    · exact hsender.trans (by rw [hkind]; rfl)
    · exact hfrozen (by rw [hkind]; rfl)
    · show (b.signature != ((d.without rest).intake f).dev.tmp.signature) = _
      rw [htook.tmp]
    · show Ticket.ofByte b.ticketByte r0.station = _
      rw [hstation]
    · show (if b.intentSec = 0 then none else some (PeerIntent.mk b.intentSec (Ticket.ofByte b.ticketByte r0.station)
        (((d.without rest).intake f).dev.now + 2 * ((d.without rest).intake f).dev.tmp.plan.claimWindow * 1000))) = _
      rw [hstation, htook.now, htook.tmp]
  · intro hgt r hr heard
    have hcarriage : r.kind = .carriage := by
      obtain ⟨-, -, -, -, hsend⟩ := hpass
      simpa [hr, hkind, FrameKind.sender] using hsend
    have hr0 : r0 = heard := (hknown r hr).trans (PeerRec.heard_carriage hcarriage _)
    have htake : (d.without rest).takeBeacon f = ((d.without rest).intake f).dev.bump .beaconMalformed := by
      simp only [Dev.takeBeacon, hrec, hcount]
      exact if_pos hgt
    have hi : (d.without rest).updates f r := by
      obtain ⟨-, h1, h32, hs, hsend⟩ := hpass
      exact Dev.intake_known h1 h32 hs hr (hcarriage.trans (by rw [hkind]; rfl))
    constructor
    · refine ⟨_, hexec, ?_⟩
      rw [htake, ← hr0]
      refine ⟨htook.peer, htook.others, ?_⟩
      rw [hi]
      exact (Dev.setPeerCounted_claims _ _).1
    · intro hf
      have hset := Dev.setPeerCounted_of_fresh (d := d.without rest) hok hr hf
      have hstation : (r.heard (d.without rest).now).station = f.src := (Dev.peer_station hr : r.station = f.src)
      rw [hexec, htake, hi, hset, Dev.setPeer_at hstation, PeerRec.heard_carriage hcarriage]
      rfl

theorem takeHeld_fst (l : List Nat) (n : Nat) :
    (n ∈ l → (takeHeld l n).1 = l) ∧ (n ∉ l → l.length < 8 → (takeHeld l n).1 = l ++ [n])
      ∧ (n ∉ l → 8 ≤ l.length → (takeHeld l n).1 = l.drop 1 ++ [n]) := by
  refine ⟨fun h => ?_, fun h hlt => ?_, fun h hle => ?_⟩
  · rw [takeHeld, if_pos (by simpa using h)]
  · rw [takeHeld, if_neg (by simpa using h), if_pos (show l.length < Config.maxHeld from hlt)]
  · rw [takeHeld, if_neg (by simpa using h), if_neg (show ¬l.length < Config.maxHeld from Nat.not_lt.mpr hle)]

/-- Settles O28: the two frames' changes of the record that intake has heard. -/
theorem takenAndIntentUpdateTheRecord : Obligations.TakenAndIntentUpdateTheRecord := by
  intro s f rest r d sec hpass hr hok t heard
  obtain ⟨r0, hrec, htook, hstation, hsender, -, -, -, hknown, -⟩ := Dev.intake_heard hpass
  have hheard : f.kind.sender = .carriage → r0 = heard := fun hc =>
    (hknown r hr).trans (PeerRec.heard_carriage (by rw [hknown r hr] at hsender; exact hsender.trans hc) _)
  constructor
  · intro hkind
    have hr0 := hheard (by rw [hkind]; rfl)
    have hexec : exec .taken s = s.becomes ((d.without rest).takeTaken f) :=
      congrArg s.becomes (Dev.dispatch_head hpass.1 (Frame.isKind_of hkind) Dev.takeTaken)
    let r' : PeerRec := { r0 with
      held := (takeHeld r0.held sec).1
      ticket := Ticket.ofByte (f.payload.getD 1 0) r0.station
      intent := if r0.intent.any (fun x => x.sec == sec) then none else r0.intent }
    have hstill : ((d.without rest).takeTaken f).still = (((d.without rest).intake f).dev.setPeer r').still := by
      simp only [Dev.takeTaken, hrec]
      refine ((inner_still _).onTaking _ _ rfl).trans ((Intake.news_still ..).trans ?_)
      split <;> rfl
    obtain ⟨hpeer, hothers, hmail, -, -⟩ := (htook.setPeer (r' := r') hstation).still hstill
    have hr' : r' = { heard with
        held := (takeHeld r.held sec).1
        intent := if r.intent.any (fun x => x.sec == sec) then none else r.intent
        ticket := t } := by
      have hs : r.station = f.src := Dev.peer_station hr
      simp only [r', hr0, heard, t, hs]
    obtain ⟨hin, hroom, hfull⟩ := takeHeld_fst r.held sec
    refine ⟨_, _, _, hexec, hpeer.trans (congrArg some hr'), hin, hroom, hfull, ?_, ?_, hothers, hmail⟩
    · rintro ⟨i, hi, hsec⟩
      rw [if_pos (by rw [hi]; simpa using hsec)]
    · intro hi
      refine if_neg fun hany => ?_
      obtain ⟨i, hmem, hsec⟩ := (Option.any_eq_true _ _).mp hany
      exact hi i hmem (by simpa using hsec)
  · intro hkind
    have hr0 := hheard (by rw [hkind]; rfl)
    have hexec : exec .intent s = s.becomes ((d.without rest).takeIntent f) :=
      congrArg s.becomes (Dev.dispatch_head hpass.1 (Frame.isKind_of hkind) Dev.takeIntent)
    let r' : PeerRec := { r0 with
      intent := some (((d.without rest).intake f).dev.newIntent sec (Ticket.ofByte (f.payload.getD 1 0) r0.station)) }
    have hstill : ((d.without rest).takeIntent f).still = (((d.without rest).intake f).dev.setPeer r').still := by
      simp only [Dev.takeIntent, hrec]
      exact ((inner_still _).onIntent _ _ _ rfl).trans (Intake.news_still ..)
    obtain ⟨hpeer, hothers, hmail, -, -⟩ := (htook.setPeer (r' := r') hstation).still hstill
    have hr' : r' = { heard with intent := some ⟨sec, t, d.now + 2 * d.tmp.plan.claimWindow * 1000⟩ } := by
      have hs : r.station = f.src := Dev.peer_station hr
      simp only [r', hr0, heard, t, hs, Dev.newIntent, htook.now, htook.tmp]
    exact ⟨_, hexec, hpeer.trans (congrArg some hr'), hothers, hmail⟩

end Sys2Proof.Machine

/-! SUPPORT. Points requested anew, and the freshness event of a junction (R82 to R84): what it does to each entry of its points. -/

namespace Sys2Proof.Machine

section
variable {d : Dev} {c : Claim}

/-! ### Points requested (R82) -/

/-- An entry whose points are requested at a time, its points timer kept or started (R82, R84). -/
def Dev.requested (d : Dev) (keep : Bool) (e : Claim) : Claim :=
  { e with
    points := .requested
    pointsTimer := if keep then e.pointsTimer else d.timerMs d.tmp.plan.lockTimeout
    rerequestTimer := d.timerMs d.tmp.plan.beaconPeriod }

theorem Dev.sendPointsRequest_line (d : Dev) (c : Claim) : ∃ (q : List TxEntry) (t : TxState) (cs : List (BitVec 16)),
    d.sendPointsRequest c = { d with lif := { d.lif with queue := q, tx := t }, counters := cs } := by
  unfold Dev.sendPointsRequest
  split
  · exact d.enqueue_line _ _ _ _
  · exact ⟨_, _, _, rfl⟩

/-- A request of points changes the queue, the counters and the entry of its section. -/
theorem Dev.requestPoints_changes (d : Dev) (c : Claim) (keep : Bool) : ∃ (q : List TxEntry) (t : TxState) (cs : List (BitVec 16)),
    d.requestPoints c keep = { d with
      lif := { d.lif with queue := q, tx := t }, counters := cs, cle := d.cle.update c.sec (d.requested keep) } := by
  obtain ⟨q, t, cs, h⟩ := d.sendPointsRequest_line c
  exact ⟨q, t, cs, by rw [Dev.requestPoints, h]; rfl⟩

theorem Cle.entry_update_ne {c : Cle} {n m : Nat} {f : Claim → Claim} (hs : ∀ x, (f x).sec = x.sec) (h : m ≠ n) :
    (c.update n f).entry m = c.entry m := by
  unfold Cle.entry Cle.update
  rw [List.find?_map]
  have htest : (fun x : Claim => x.sec == m) ∘ (fun x => if x.sec = n then f x else x) = fun x => x.sec == m := by
    funext x
    simp only [Function.comp]
    split <;> simp [hs]
  rw [htest]
  cases hx : c.table.find? (fun x => x.sec == m) with
  | none => rfl
  | some x =>
    have hsec : x.sec = m := by simpa using List.find?_some hx
    rw [Option.map_some, if_neg (by rw [hsec]; exact h)]

/-- A change of entries that keeps the route index and the state keeps whether there is a front entry. -/
theorem Cle.front_update_none {c : Cle} {n : Nat} {f : Claim → Claim} (hf : ∀ x, (f x).idx = x.idx ∧ (f x).state = x.state)
    (h : c.front = none) : (c.update n f).front = none := by
  unfold Cle.front at h ⊢
  rw [List.find?_eq_none] at h ⊢
  intro y hy
  obtain ⟨x, hx, rfl⟩ := List.mem_map.mp hy
  have := h x hx
  split
  · rwa [(hf x).1, Claim.isHeld, (hf x).2]
  · exact this

/-! ### A junction gone silent (R84) -/

/-- What a silent junction makes of one entry of its points. -/
def Dev.relock (d : Dev) (c : Claim) : Dev :=
  match c.points with
  | .locked => (d.bump .lockLosses).requestPoints c false
  | .requested => (d.bump .lockLosses).requestPoints c true
  | .unrequested | .lost => d

/-- The entry itself after it. -/
def Dev.relocked (d : Dev) (c : Claim) : Claim :=
  match c.points with
  | .locked => d.requested false c
  | .requested => d.requested true c
  | .unrequested | .lost => c

theorem Dev.relock_changes (d : Dev) (c : Claim) : ∃ (q : List TxEntry) (t : TxState) (cs : List (BitVec 16)) (x : Cle),
    d.relock c = { d with lif := { d.lif with queue := q, tx := t }, counters := cs, cle := x }
      ∧ (∀ m, m ≠ c.sec → x.entry m = d.cle.entry m) ∧ (d.cle.entry c.sec = some c → x.entry c.sec = some (d.relocked c))
      ∧ (d.cle.front = none → x.front = none) := by
  unfold Dev.relock Dev.relocked
  split
  · obtain ⟨q, t, cs, h⟩ := (d.bump .lockLosses).requestPoints_changes c false
    exact ⟨q, t, cs, _, h, fun m hm => Cle.entry_update_ne (fun _ => rfl) hm, fun he => Cle.entry_update (fun _ => rfl) he,
      Cle.front_update_none (fun _ => ⟨rfl, rfl⟩)⟩
  · obtain ⟨q, t, cs, h⟩ := (d.bump .lockLosses).requestPoints_changes c true
    exact ⟨q, t, cs, _, h, fun m hm => Cle.entry_update_ne (fun _ => rfl) hm, fun he => Cle.entry_update (fun _ => rfl) he,
      Cle.front_update_none (fun _ => ⟨rfl, rfl⟩)⟩
  iterate 2 exact ⟨d.lif.queue, d.lif.tx, d.counters, d.cle, rfl, fun _ _ => rfl, id, id⟩

/-- Over a list of entries of distinct sections each entry is relocked once, and no other changes. -/
theorem Dev.foldl_relock (l : List Claim) (hl : (l.map (·.sec)).Nodup) : ∀ d : Dev,
    (∀ m, m ∉ l.map (·.sec) → (l.foldl Dev.relock d).cle.entry m = d.cle.entry m)
      ∧ (∀ y ∈ l, d.cle.entry y.sec = some y → (l.foldl Dev.relock d).cle.entry y.sec = some (d.relocked y))
      ∧ (d.cle.front = none → (l.foldl Dev.relock d).cle.front = none) := by
  induction l with
  | nil => exact fun d => ⟨fun _ _ => rfl, fun _ h => absurd h List.not_mem_nil, id⟩
  | cons c l ih =>
    intro d
    obtain ⟨hc, hl⟩ := List.nodup_cons.mp hl
    obtain ⟨q, t, cs, x, heq, hne, hsame, hfront⟩ := d.relock_changes c
    obtain ⟨hout, hin, hnone⟩ := ih hl (d.relock c)
    have hcle : (d.relock c).cle = x := by rw [heq]
    rw [hcle] at hout hin hnone
    refine ⟨fun m hm => ?_, fun y hy he => ?_, fun h => hnone (hfront h)⟩
    · simp only [List.map_cons, List.mem_cons, not_or] at hm
      exact (hout m hm.2).trans (hne m hm.1)
    · obtain rfl | hy := List.mem_cons.mp hy
      · exact (hout _ hc).trans (hsame he)
      · have hsec : y.sec ≠ c.sec := fun h => hc (by
          show c.sec ∈ _
          rw [← h]
          exact List.mem_map_of_mem hy)
        have := hin y hy ((hne _ hsec).trans he)
        rw [List.foldl_cons, this, heq]
        rfl

/-- The entries of a junction's own points. -/
def Dev.pointsOf (d : Dev) (n : Nat) (e : Claim) : Bool :=
  (findSection d.tmp.sections e.sec).any (fun s => s.kind == .points && s.junction == n)

theorem Dev.junctionSilent_eq (d : Dev) (n : Nat) : d.junctionSilent n = (d.cle.table.filter (d.pointsOf n)).foldl Dev.relock d := rfl

/-- The freshness event of a silent junction, with no front entry: its points' entries one by one. -/
theorem Dev.onFreshness_junction {r : PeerRec} (hok : d.cle.ok) (hk : r.kind = .junction) (hr : r.freshness ≠ .fresh)
    (hfront : d.cle.front = none) {y : Claim} (hy : y ∈ d.cle.table) (hmine : d.pointsOf r.station y = true) :
    (d.onFreshness r).cle.entry y.sec = some (d.relocked y) := by
  obtain ⟨-, hnodup, -⟩ := id hok
  have hentry : d.gatheringNone.cle.entry y.sec = some y := by
    cases he : d.cle.entry y.sec with
    | none => exact absurd (List.find?_eq_none.mp he y hy) (by simp)
    | some z =>
      obtain ⟨hz, hs⟩ := Cle.entry_mem he
      rw [show z = y from Cle.sec_inj hok hz hy hs] at he
      exact he
  obtain ⟨-, hin, hnone⟩ := Dev.foldl_relock (d.cle.table.filter (d.pointsOf r.station))
    (hnodup.sublist (List.filter_sublist.map _)) d.gatheringNone
  have hact : (if r.kind == .junction && r.freshness != .fresh then d.gatheringNone.junctionSilent r.station else d.gatheringNone)
      = (d.cle.table.filter (d.pointsOf r.station)).foldl Dev.relock d.gatheringNone := by
    rw [if_pos (by simp [hk, hr]), Dev.junctionSilent_eq]
    rfl
  have hquiet : ∀ z p b, ((d.cle.table.filter (d.pointsOf r.station)).foldl Dev.relock d.gatheringNone).cle.front = some z →
      z.state ≠ .blocked p b none := fun z p b hz => by
    rw [hnone hfront] at hz
    exact absurd hz nofun
  rw [Dev.onFreshness, Dev.event_entry]
  simp only [hact]
  rw [Dev.examineBlocked_other hquiet, hin y (List.mem_filter.mpr ⟨hy, hmine⟩) hentry]
  rfl

/-! ### A record that goes silent (R50, R51) -/

/-- A changed record with the count of R49: the claims, the map and the mailbox are as they were. -/
theorem Dev.setPeerCounted_shows {r' : PeerRec} {n : Nat} (hs : r'.station = n) :
    (d.setPeerCounted r').cle = d.cle ∧ (d.setPeerCounted r').peers = d.peers.map (fun y => if y.station = n then r' else y)
      ∧ (d.setPeerCounted r').tmp = d.tmp ∧ (d.setPeerCounted r').now = d.now
      ∧ (d.setPeerCounted r').lif.mailbox = d.lif.mailbox := by
  obtain ⟨hp, hm, ht, hn⟩ := Dev.still_shows (Dev.foreignChanged_still (d.setPeer r') d.foreignCount)
  refine ⟨(d.setPeerCounted_claims r').1, hp.trans ?_, ht, hn, hm⟩
  rw [Dev.setPeer_at hs]

theorem Dev.peerStale_eq {n : Nat} {r : PeerRec} (hr : d.peer n = some r) : d.peerStale n
    = if d.due (d.staleTimer r) then
        (d.setPeerCounted { r.silent with freshness := .stale }).onFreshness { r.silent with freshness := .stale }
      else d := by
  simp only [Dev.peerStale, hr]
  rfl

theorem Dev.peerLost_eq {n : Nat} {r : PeerRec} (hr : d.peer n = some r) : d.peerLost n
    = if d.due (d.lostTimer r) then
        (d.setPeerCounted { r.silent with freshness := .lost, frozen := r.kind == .carriage }).onFreshness
          { r.silent with freshness := .lost, frozen := r.kind == .carriage }
      else d := by
  simp only [Dev.peerLost, hr]
  rfl

theorem Dev.peerIntentExpiry_eq {n : Nat} {r : PeerRec} (hr : d.peer n = some r) : d.peerIntentExpiry n
    = if d.due r.intentTimer then (d.setPeer { r with intent := none }).onViewChanged else d := by
  simp only [Dev.peerIntentExpiry, hr]
  rfl

theorem PeerRec.silent_eq (r : PeerRec) :
    r.silent = { r with intent := none, points := if r.kind = .junction then [] else r.points } := by
  simp only [PeerRec.silent, beq_iff_eq]

end

/-- Settles O33: the three timers of a record, each with its event, before and after its time. -/
theorem silentPeerAges : Obligations.SilentPeerAges := by
  intro s n r d hr stale lost points becomes silent
  have hstation : r.station = n := Dev.peer_station hr
  have hsilent : ∀ {c : Instr} {r' : PeerRec}, r'.station = n → r'.kind = r.kind → r'.freshness ≠ .fresh →
      exec c s = s.becomes ((d.setPeerCounted r').onFreshness r') → silent c r' := by
    intro c r' hs hk hf hexec
    obtain ⟨hcle, hpeers, htmp, hnow, hmail⟩ := Dev.setPeerCounted_shows (d := d) hs
    obtain ⟨hp, hm, ht, -⟩ := Dev.still_shows (Dev.onFreshness_still (d.setPeerCounted r') r')
    refine ⟨⟨_, _, hexec, rfl, hcle, hpeers, hp, ht.trans htmp, hm.trans hmail⟩, fun y hy hj hfront hok hmine => ?_⟩
    have hentry : ((d.setPeerCounted r').onFreshness r').cle.entry y.sec = some ((d.setPeerCounted r').relocked y) := by
      refine Dev.onFreshness_junction (by rw [hcle]; exact hok) (hk.trans hj) hf (by rw [hcle]; exact hfront) (by rw [hcle]; exact hy) ?_
      rw [Dev.pointsOf, htmp, hs]
      exact hmine
    refine ⟨_, hexec, fun hp => ?_, fun hp => ?_, fun hp => ?_⟩
    · rw [hentry, Dev.relocked, hp]
      simp only [Dev.requested, Dev.timerMs, hnow, htmp, Bool.false_eq_true, if_false]
    · rw [hentry, Dev.relocked, hp]
      simp only [Dev.requested, Dev.timerMs, hnow, htmp, if_true, ← hp]
    · rw [hentry, Dev.relocked]
      obtain hp | hp := hp <;> rw [hp]
  have hstaleTimer : r.freshness = .fresh → d.staleTimer r = some stale := fun h => by rw [Dev.staleTimer_eq, if_pos h]
  have hlostTimer : r.freshness ≠ .lost → d.lostTimer r = some lost := fun h => by rw [Dev.lostTimer_eq, if_neg h]
  have hstale := congrArg s.becomes (Dev.peerStale_eq hr)
  have hlost := congrArg s.becomes (Dev.peerLost_eq hr)
  have hintent := congrArg s.becomes (Dev.peerIntentExpiry_eq hr)
  refine ⟨fun hf hle => ?_, fun h => ?_, fun hf hle => ?_, fun h => ?_, fun i hi hle => ?_, fun h => ?_⟩
  · rw [if_pos (by rw [hstaleTimer hf, Dev.due_some]; simpa using hle), PeerRec.silent_eq] at hstale
    exact hsilent hstation rfl (show Freshness.stale ≠ .fresh by decide) hstale
  · rw [if_neg] at hstale
    · exact hstale
    · rw [Dev.due_iff]
      rintro ⟨t, ht, hle⟩
      obtain hne | hlt := h
      · rw [Dev.staleTimer_eq, if_neg hne] at ht
        exact absurd ht nofun
      · rw [Dev.staleTimer_eq] at ht
        split at ht
        · obtain rfl := Option.some.inj ht
          exact absurd hle (Nat.not_le.mpr hlt)
        · exact absurd ht nofun
  · rw [if_pos (by rw [hlostTimer hf, Dev.due_some]; simpa using hle), PeerRec.silent_eq] at hlost
    exact hsilent hstation rfl (show Freshness.lost ≠ .fresh by decide) hlost
  · rw [if_neg] at hlost
    · exact hlost
    · rw [Dev.due_iff]
      rintro ⟨t, ht, hle⟩
      obtain he | hlt := h
      · rw [Dev.lostTimer_eq, if_pos he] at ht
        exact absurd ht nofun
      · rw [Dev.lostTimer_eq] at ht
        split at ht
        · exact absurd ht nofun
        · obtain rfl := Option.some.inj ht
          exact absurd hle (Nat.not_le.mpr hlt)
  · have hdue : d.due r.intentTimer = true := by
      rw [PeerRec.intentTimer, hi, Option.map_some, Dev.due_some]
      simpa using hle
    rw [if_pos hdue] at hintent
    have hset := Dev.setPeer_at (d := d) (r := { r with intent := none }) hstation
    have hstill : (d.setPeer { r with intent := none }).onViewChanged.still = (d.setPeer { r with intent := none }).still :=
      (inner_still _).onViewChanged rfl
    obtain ⟨hp, hm, ht, -⟩ := Dev.still_shows hstill
    exact ⟨_, _, hintent, rfl, rfl, by rw [hset], hp, ht, hm⟩
  · rw [if_neg] at hintent
    · exact hintent
    · rw [PeerRec.intentTimer, Dev.due_iff]
      rintro ⟨t, ht, hle⟩
      obtain ⟨i, hi, rfl⟩ := Option.map_eq_some_iff.mp ht
      exact absurd hle (Nat.not_le.mpr (h i hi))

end Sys2Proof.Machine

/-! SUPPORT. A POINTS-STATE taken entry by entry (R48), and what one entry does to the claim of its section (R83). -/

namespace Sys2Proof.Machine

/-! ### The points-state list (R48) -/

/-- A points-state list with one entry of a frame taken: an own entry in place of any other for its section. -/
def pointsTaken (own : PointsEntry → Bool) (l : List PointsEntry) (e : PointsEntry) : List PointsEntry :=
  if own e then insertSorted (fun x => x.sec) e (l.filter (fun x => x.sec != e.sec)) else l

section
variable {own : PointsEntry → Bool} {x : PointsEntry}

theorem mem_pointsTaken {l : List PointsEntry} {e : PointsEntry} :
    x ∈ pointsTaken own l e ↔ (own e = true ∧ x = e) ∨ (x ∈ l ∧ (own e = true → x.sec ≠ e.sec)) := by
  unfold pointsTaken
  split
  · next h => simp [mem_insertSorted, h]
  · next h => simp [h]

theorem mem_foldl_pointsTaken (es : List PointsEntry) : ∀ {l : List PointsEntry}, x ∈ es.foldl (pointsTaken own) l →
    (x ∈ es ∧ own x = true) ∨ x ∈ l := by
  induction es with
  | nil => exact fun h => .inr h
  | cons e es ih =>
    intro l h
    obtain ⟨hmem, hown⟩ | h := ih h
    · exact .inl ⟨.tail _ hmem, hown⟩
    · obtain ⟨hown, rfl⟩ | ⟨hl, -⟩ := mem_pointsTaken.mp h
      · exact .inl ⟨.head _, hown⟩
      · exact .inr hl

/-- An entry stays while no later one names its section. -/
theorem foldl_pointsTaken_keeps (es : List PointsEntry) (hes : ∀ y ∈ es, y.sec ≠ x.sec) :
    ∀ {l : List PointsEntry}, x ∈ l → x ∈ es.foldl (pointsTaken own) l := by
  induction es with
  | nil => exact fun h => h
  | cons e es ih =>
    intro l h
    exact ih (fun y hy => hes y (.tail _ hy)) (mem_pointsTaken.mpr (.inr ⟨h, fun _ he => hes e (.head _) he.symm⟩))

theorem foldl_pointsTaken_last {pre post : List PointsEntry} (hown : own x = true) (hpost : ∀ y ∈ post, y.sec ≠ x.sec)
    (l : List PointsEntry) : x ∈ (pre ++ x :: post).foldl (pointsTaken own) l := by
  rw [List.foldl_append, List.foldl_cons]
  exact foldl_pointsTaken_keeps post hpost (mem_pointsTaken.mpr (.inl ⟨hown, rfl⟩))

end

section
variable {d : Dev} {r : PeerRec} {n : Nat}

/-- An entry is of one of the junction's own points. -/
def Dev.ownPoints (d : Dev) (n : Nat) (x : PointsEntry) : Bool :=
  (findSection d.tmp.sections x.sec).any (fun s => s.kind == .points && s.junction == n)

theorem Dev.onPoints_still (d : Dev) (sec : Nat) (leg : Leg) (l : Bool) (h : Nat) : (d.onPoints sec leg l h).still = d.still :=
  (inner_still d.still).onPoints sec leg l h rfl

theorem Dev.peer_setPeer_at {r' : PeerRec} (hs : r'.station = n) (hr : d.peer n = some r) : (d.setPeer r').peer n = some r' := by
  subst hs
  exact Dev.peer_setPeer_same hr

/-- One entry taken: the junction's list, and every other record as it was. -/
theorem Dev.takePoints_peers (hr : d.peer n = some r) (e : PointsEntry) :
    (d.takePoints n e).peer n = some { r with points := pointsTaken (d.ownPoints n) r.points e }
      ∧ (∀ m, m ≠ n → (d.takePoints n e).peer m = d.peer m) ∧ (d.takePoints n e).tmp = d.tmp := by
  have hs : r.station = n := Dev.peer_station hr
  cases ho : d.ownPoints n e
  · have htake : d.takePoints n e = d.bump .pointsForeign := by
      simp only [Dev.takePoints, hr]
      exact if_neg (by rw [← Dev.ownPoints, ho]; decide)
    rw [htake, pointsTaken, if_neg (by rw [ho]; decide)]
    exact ⟨hr, fun _ _ => rfl, rfl⟩
  · have htake : d.takePoints n e = (d.setPeer { r with points := pointsTaken (d.ownPoints n) r.points e }).onPoints
        e.sec e.leg e.locked e.holder := by
      simp only [Dev.takePoints, hr, pointsTaken, ho, if_true]
      exact if_pos (by rw [← Dev.ownPoints, ho])
    obtain ⟨hp, -, ht, -⟩ := Dev.still_shows (Dev.onPoints_still
      (d.setPeer { r with points := pointsTaken (d.ownPoints n) r.points e }) e.sec e.leg e.locked e.holder)
    rw [htake]
    refine ⟨(Dev.peer_congr hp n).trans ?_, fun m hm => (Dev.peer_congr hp m).trans ?_, ht⟩
    · exact Dev.peer_setPeer_at hs hr
    · exact Dev.peer_setPeer_ne d _ (fun h => hm (h.trans hs))

theorem Dev.foldl_takePoints (es : List PointsEntry) : ∀ {d : Dev} {r : PeerRec}, d.peer n = some r →
    (es.foldl (fun d e => d.takePoints n e) d).peer n = some { r with points := es.foldl (pointsTaken (d.ownPoints n)) r.points }
      ∧ (∀ m, m ≠ n → (es.foldl (fun d e => d.takePoints n e) d).peer m = d.peer m) := by
  induction es with
  | nil => exact fun h => ⟨h, fun _ _ => rfl⟩
  | cons e es ih =>
    intro d r h
    obtain ⟨hsame, hne, htmp⟩ := Dev.takePoints_peers h e
    obtain ⟨hsame', hne'⟩ := ih hsame
    have hown : (d.takePoints n e).ownPoints n = d.ownPoints n := by
      funext x
      rw [Dev.ownPoints, htmp]
      rfl
    rw [hown] at hsame'
    exact ⟨hsame', fun m hm => (hne' m hm).trans (hne m hm)⟩

/-! ### The points event at an entry (R83) -/

theorem Dev.judgeHeldReport_cle (d : Dev) (b : Bool) : (d.judgeHeldReport b).cle = d.cle := by
  have hsend : ∀ o, (d.sendHeldReport o).cle = d.cle := fun o => Dev.send_cle ..
  unfold Dev.judgeHeldReport
  split
  · split
    · split
      · exact ite_keeps (P := fun e => e.cle = d.cle) (fun _ => hsend _) (fun _ => rfl)
      · exact ite_keeps (P := fun e => e.cle = d.cle) (fun _ => hsend _) (fun _ => rfl)
    · rfl
  · rfl

/-- A lock shown for this station on the leg needed. -/
def Dev.locksFor (d : Dev) (c : Claim) (x : PointsEntry) : Bool :=
  c.legNeeded == some x.leg && x.locked && x.holder == d.station

theorem Dev.onPoints_locks {c : Claim} {x : PointsEntry} (hc : d.cle.entry x.sec = some c) (hp : c.points = .requested)
    (hl : d.locksFor c x = true) : (d.onPoints x.sec x.leg x.locked x.holder).cle.entry x.sec
      = some { c with points := .locked, pointsTimer := none, rerequestTimer := none } := by
  have hupdate := Cle.entry_update (f := fun e => { e with points := .locked, pointsTimer := none, rerequestTimer := none })
    (fun _ => rfl) hc
  have hcle : (d.onPoints x.sec x.leg x.locked x.holder).cle
      = d.cle.update x.sec (fun e => { e with points := .locked, pointsTimer := none, rerequestTimer := none }) := by
    rw [Dev.locksFor] at hl
    simp only [Dev.onPoints, hc, hp, hl, if_true]
    split
    · rw [Dev.judgeHeldReport_cle]
      rfl
    · rfl
  rw [hcle]
  exact hupdate

theorem Dev.onPoints_waits {c : Claim} {x : PointsEntry} (hc : d.cle.entry x.sec = some c) (hp : c.points = .requested)
    (hl : d.locksFor c x = false) : d.onPoints x.sec x.leg x.locked x.holder = d := by
  rw [Dev.locksFor] at hl
  simp only [Dev.onPoints, hc, hp, hl, Bool.false_eq_true, if_false]

theorem Dev.onPoints_loses {c : Claim} {x : PointsEntry} (hc : d.cle.entry x.sec = some c) (hp : c.points = .locked)
    (hl : d.locksFor c x = false) : (d.onPoints x.sec x.leg x.locked x.holder).cle.entry x.sec = some (d.requested false c) := by
  have hsec : c.sec = x.sec := (Cle.entry_mem hc).2
  obtain ⟨q, t, cs, heq⟩ := (d.bump .lockLosses).requestPoints_changes c false
  rw [Dev.locksFor] at hl
  simp only [Dev.onPoints, hc, hp, hl, Bool.false_eq_true, if_false, heq]
  rw [hsec]
  exact Cle.entry_update (fun _ => rfl) hc

end

/-- Settles O32: the list by its fold over the frame's entries, and the claim of a frame of one entry. -/
theorem pointsStateIsTaken : Obligations.PointsStateIsTaken := by
  intro s f rest d hpass hkind hpeers hok own lock
  obtain ⟨r0, hrec, htook, hstation, -, hfresh, -, -, hknown, hnew⟩ := Dev.intake_heard hpass
  let u : Dev := ((d.without rest).intake f).only f.src
  have htake : (d.without rest).takePointsState f = (readPointsState f.payload).foldl (fun d e => d.takePoints f.src e) u := by
    simp only [Dev.takePointsState, hrec, hstation]
    rfl
  have hexec : exec .pointsState s = s.becomes ((readPointsState f.payload).foldl (fun d e => d.takePoints f.src e) u) :=
    (congrArg s.becomes (Dev.dispatch_head hpass.1 (Frame.isKind_of hkind) Dev.takePointsState)).trans (congrArg s.becomes htake)
  have hu : d.TookIn u f rest r0 := htook.still (Intake.news_still ..)
  obtain ⟨hpeer, hothers⟩ := Dev.foldl_takePoints (readPointsState f.payload) hu.peer
  have hown : u.ownPoints f.src = own := by
    funext x
    rw [Dev.ownPoints, hu.tmp]
  rw [hown] at hpeer
  refine ⟨_, _, hexec, hpeer, hfresh, ?last, ?only, fun n hn => (hothers n hn).trans (hu.others n hn), ?claim⟩
  case last =>
    intro pre x post hsplit hx hpost
    show x ∈ List.foldl _ _ _
    rw [hsplit]
    exact foldl_pointsTaken_last hx hpost _
  case only =>
    intro x hx
    refine (mem_foldl_pointsTaken _ hx).imp_right fun hx => ?_
    cases hr : d.peer f.src with
    | none =>
      rw [hnew hr] at hx
      exact absurd hx List.not_mem_nil
    | some r =>
      rw [hknown r hr] at hx
      exact ⟨r, rfl, hx⟩
  case claim =>
    intro x c r hone hx hc hr hf
    have hi : (d.without rest).updates f r := by
      obtain ⟨-, h1, h32, hs, hsend⟩ := hpass
      exact Dev.intake_known h1 h32 hs hr (by simpa [hr] using hsend)
    have hucle : u.cle = d.cle := by
      show (Intake.only _ _).cle = _
      rw [Intake.only, Intake.news_of_fresh (by rw [hi, hf]; rfl), hi]
      exact (Dev.setPeerCounted_claims _ _).1
    have hfold : (readPointsState f.payload).foldl (fun d e => d.takePoints f.src e) u = u.takePoints f.src x := by rw [hone]; rfl
    obtain ⟨v, hv, hvcle, hvtmp, hvnow⟩ : ∃ v : Dev, u.takePoints f.src x = v.onPoints x.sec x.leg x.locked x.holder
        ∧ v.cle = d.cle ∧ v.tmp = d.tmp ∧ v.now = d.now := by
      refine ⟨u.setPeer { r0 with points := pointsTaken (u.ownPoints f.src) r0.points x }, ?_, hucle, hu.tmp, hu.now⟩
      have hx' : u.ownPoints f.src x = true := by rw [hown]; exact hx
      simp only [Dev.takePoints, hu.peer, pointsTaken, hx', if_true]
      exact if_pos hx'
    have hlock : v.locksFor c x = true ↔ lock x c := by
      simp only [Dev.locksFor, Dev.station, hvtmp, Bool.and_eq_true, beq_iff_eq, and_assoc]
      exact Iff.rfl
    have hentry : v.cle.entry x.sec = some c := by rw [hvcle]; exact hc
    rw [hfold, hv]
    refine ⟨fun hp hl => Dev.onPoints_locks hentry hp (hlock.mpr hl), fun hp hl => ?_, fun hp hl => ?_⟩
    · rw [Dev.onPoints_waits hentry hp (by simpa using fun h => hl (hlock.mp h)), hvcle]
    · rw [Dev.onPoints_loses hentry hp (by simpa using fun h => hl (hlock.mp h))]
      simp only [Dev.requested, Dev.timerMs, hvnow, hvtmp, Bool.false_eq_true, if_false]

end Sys2Proof.Machine

/-! SUPPORT. Operations that take no section: nothing joins the claim table, and nothing of it becomes HELD (R63 to R68, R75 to R80,
R152, R158). -/

namespace Sys2Proof.Machine

/-- Each entry of the second part's table has an entry for its section in the first one's, HELD if it is. -/
def Dev.shrinks (d e : Dev) : Prop :=
  ∀ x ∈ e.cle.table, ∃ y ∈ d.cle.table, y.sec = x.sec ∧ (x.isHeld = true → y.isHeld = true)

namespace Dev.shrinks

variable {d e f : Dev}

theorem refl (d : Dev) : d.shrinks d := fun x hx => ⟨x, hx, rfl, id⟩

theorem trans (h : d.shrinks e) (h' : e.shrinks f) : d.shrinks f := fun x hx => by
  obtain ⟨y, hy, hs, hh⟩ := h' x hx
  obtain ⟨z, hz, hs', hh'⟩ := h y hy
  exact ⟨z, hz, hs'.trans hs, hh' ∘ hh⟩

theorem of_table (h : e.cle.table = d.cle.table) : d.shrinks e := fun x hx => ⟨x, h ▸ hx, rfl, id⟩

theorem of_cle (h : e.cle = d.cle) : d.shrinks e := of_table (by rw [h])

theorem of_filter {p : Claim → Bool} (h : e.cle.table = d.cle.table.filter p) : d.shrinks e := fun x hx =>
  ⟨x, List.mem_of_mem_filter (h ▸ hx), rfl, id⟩

/-- A table whose entries keep their sections and become HELD nowhere. -/
theorem of_map {g : Claim → Claim} (hg : ∀ x, (g x).sec = x.sec ∧ ((g x).isHeld = true → x.isHeld = true))
    (h : e.cle.table = d.cle.table.map g) : d.shrinks e := fun x hx => by
  rw [h] at hx
  obtain ⟨y, hy, rfl⟩ := List.mem_map.mp hx
  exact ⟨y, hy, (hg y).1.symm, (hg y).2⟩

theorem holds (h : d.shrinks e) {n : Nat} (hn : d.cle.holds n = false) : e.cle.holds n = false := by
  unfold Cle.holds at hn ⊢
  rw [List.any_eq_false] at hn ⊢
  intro x hx hheld
  obtain ⟨y, hy, hs, hh⟩ := h x hx
  simp only [Bool.and_eq_true, beq_iff_eq] at hheld
  exact hn y hy (by simp [hs.trans hheld.1, hh hheld.2])

theorem entry_none (h : d.shrinks e) {n : Nat} (hn : d.cle.entry n = none) : e.cle.entry n = none := by
  unfold Cle.entry at hn ⊢
  rw [List.find?_eq_none] at hn ⊢
  intro x hx hsec
  obtain ⟨y, hy, hs, -⟩ := h x hx
  exact hn y hy (by simpa [hs] using hsec)

/-! ### The table's own operations -/

theorem updateClaim (d : Dev) (n : Nat) {g : Claim → Claim}
    (hg : ∀ x, (g x).sec = x.sec ∧ ((g x).isHeld = true → x.isHeld = true)) : d.shrinks (d.updateClaim n g) :=
  of_map (g := fun x => if x.sec = n then g x else x) (fun x => by split; exacts [hg x, ⟨rfl, id⟩]) rfl

/-- An entry given a state that is not HELD. -/
theorem update_state (d : Dev) (n : Nat) {st : ClaimState} (hst : ∀ b t, st ≠ .held b t) :
    d.shrinks (d.updateClaim n (fun x => { x with state := st })) :=
  updateClaim d n (fun x => ⟨rfl, fun h => by
    cases st with
    | held b t => exact absurd rfl (hst b t)
    | wanted m => exact absurd h Bool.false_ne_true
    | contending t g w => exact absurd h Bool.false_ne_true
    | blocked p b w => exact absurd h Bool.false_ne_true⟩)

theorem tidyDeadlock (d : Dev) : d.shrinks d.tidyDeadlock := of_table (by rw [Dev.tidyDeadlock_table])

theorem endDeadlock (d : Dev) : d.shrinks d.endDeadlock := of_table (by rw [Dev.endDeadlock_table])

theorem enqueue (d : Dev) (k : FrameKind) (dst : Nat) (b : List Byte) (t : Option Nat) : d.shrinks (d.enqueue k dst b t).1 :=
  of_cle (Dev.enqueue_cle ..)

theorem foldl_abandon (d : Dev) (l : List Claim) : d.shrinks (l.foldl Dev.abandon d) := of_cle (Dev.foldl_abandon_cle ..)

theorem dropClaims (d : Dev) (p : Claim → Bool) : d.shrinks (d.dropClaims p) := by
  refine of_filter (p := fun e => !p e) ?_
  rw [Dev.dropClaims, Dev.tidyDeadlock_table]
  simp only [Dev.foldl_abandon_cle]

theorem announceRelease_table (d : Dev) (l : List Nat) : (d.announceRelease l).cle.table = d.cle.table := by
  unfold Dev.announceRelease
  split
  · rfl
  · exact Dev.sendRelease_table ..

theorem releaseClaims (d : Dev) (p : Claim → Bool) : d.shrinks (d.releaseClaims p) := by
  refine of_filter (p := fun e => !(e.isHeld && p e)) ?_
  rw [Dev.releaseClaims, Dev.tidyDeadlock_table, announceRelease_table]

theorem surrenderFrom (d : Dev) (k : Nat) : d.shrinks (d.surrenderFrom k) := by
  refine of_map (g := fun x => if d.yields k x then
      { x with state := .wanted false, points := .unrequested, pointsTimer := none, rerequestTimer := none } else x) (fun x => ?_) ?_
  · split
    · exact ⟨rfl, fun h => absurd h Bool.false_ne_true⟩
    · exact ⟨rfl, id⟩
  · unfold Dev.surrenderFrom
    rw [Dev.tidyDeadlock_table, announceRelease_table]
    show List.map _ (Dev.cle (List.foldl Dev.abandon d _)).table = _
    rw [Dev.foldl_abandon_cle]

/-! ### The examinations (R66, R76) -/

theorem mutualYield (d : Dev) (t : Claim) (p : Nat) : d.shrinks (d.mutualYield t p) := by
  unfold Dev.mutualYield
  split
  · exact releaseClaims d _
  · next k _ =>
    have h1 : d.shrinks ((d.surrenderFrom k).raiseLoss.bump .mutualYields).endDeadlock :=
      (surrenderFrom d k).trans (endDeadlock ((d.surrenderFrom k).raiseLoss.bump .mutualYields))
    simp only
    split
    · exact h1.trans (update_state _ _ (fun _ _ => ClaimState.noConfusion))
    · exact h1

theorem raiseDeadlock (d : Dev) : d.shrinks (d.raise .deadlock) := by
  refine of_cle ?_
  rw [Dev.raise_of_warn rfl]
  exact (d.enterFault_claims _).1

theorem examineMutual (d : Dev) : d.shrinks d.examineMutual := by
  unfold Dev.examineMutual
  split
  · next p b _ _ =>
    have hended : d.shrinks (if d.cle.deadlock.any (fun q => q != p) then d.endDeadlock else d) := by
      split
      · exact endDeadlock d
      · exact refl d
    simp only
    generalize (if d.cle.deadlock.any (fun q => q != p) then d.endDeadlock else d) = x at hended ⊢
    refine hended.trans ?_
    split
    · split
      · exact endDeadlock x
      · exact refl x
    · split
      · exact refl x
      · split
        · exact (of_table rfl : x.shrinks { x with cle := { x.cle with deadlock := some p } }).trans (raiseDeadlock _)
        · split
          · exact mutualYield x _ _
          · exact refl x
  · exact refl d

theorem contend (d : Dev) (c : Claim) : d.shrinks (d.contend c) := by
  have hq : d.shrinks ((({ d with cle := { d.cle with nextTag := d.cle.nextTag + 1 } } : Dev).bump .contentionsStarted).enqueue
      .intent 0 (ticketPayload c.sec d.currentTicket) (some d.cle.nextTag)).1 :=
    (of_table rfl : d.shrinks (({ d with cle := { d.cle with nextTag := d.cle.nextTag + 1 } } : Dev).bump .contentionsStarted)).trans
      (enqueue _ _ _ _ _)
  unfold Dev.contend
  simp only
  split
  · exact hq.trans (update_state _ _ (fun _ _ => ClaimState.noConfusion))
  · exact hq.trans (update_state _ _ (fun _ _ => ClaimState.noConfusion))

theorem examineFront (d : Dev) : d.shrinks d.examineFront := by
  unfold Dev.examineFront
  split
  · exact tidyDeadlock d
  · next c hc =>
    split
    · exact dropClaims d _
    · split
      · exact (update_state d _ (fun _ _ => ClaimState.noConfusion)).trans (tidyDeadlock _)
      · have hexam : d.shrinks (match d.blocked c.sec with
            | some (p, b) => if c.state = .blocked p b none then d
              else (d.updateClaim c.sec (fun e => { e with state := .blocked p b none })).examineMutual
            | none => (d.contend c).tidyDeadlock) := by
          split
          · split
            · exact refl d
            · exact (update_state d _ (fun _ _ => ClaimState.noConfusion)).trans (examineMutual _)
          · exact (contend d c).trans (tidyDeadlock _)
        split
        iterate 3 exact refl d
        iterate 2 exact hexam

theorem examineBlocked (d : Dev) : d.shrinks d.examineBlocked := by
  unfold Dev.examineBlocked
  split
  · exact examineFront d
  · exact refl d

theorem event (d : Dev) {act : Dev → Dev} (h : ∀ x : Dev, x.shrinks (act x)) : d.shrinks (Dev.event act d) :=
  ((of_table rfl : d.shrinks d.gatheringNone).trans (h _)).trans (of_table (Dev.event_table act d))

theorem onViewChanged (d : Dev) : d.shrinks d.onViewChanged := event d examineBlocked

/-! ### The end of an order and the entry into SAFE-STOP (R79, R80, R152, R158) -/

theorem settleAbort (d : Dev) : d.shrinks d.settleAbort := by
  unfold Dev.settleAbort
  split
  · exact (releaseClaims d _).trans (of_table rfl)
  · exact refl d

theorem claimsAbort (d : Dev) : d.shrinks d.claimsAbort :=
  event d fun x => ((dropClaims x _).trans (of_table rfl)).trans (settleAbort _)

theorem claimsAtStandstill (d : Dev) : d.shrinks d.claimsAtStandstill := by
  unfold Dev.claimsAtStandstill
  split
  · exact (releaseClaims d _).trans (dropClaims _ _)
  · exact refl d

theorem realign_perm (c : Cle) (order : List Nat) : (c.realign order).table.Perm c.table := by
  refine (refill_perm _ _ _ (sortBy_perm _ _).length_eq).trans ?_
  exact ((sortBy_perm _ _).append_right _).trans (List.filter_append_perm _ _)

theorem afterOrder (d : Dev) (order : List Nat) : d.shrinks { d with cle := d.cle.afterOrder order } := fun x hx => by
  have hx' := (realign_perm _ _).mem_iff.mp hx
  obtain ⟨y, hy, rfl⟩ := List.mem_map.mp hx'
  exact ⟨y, hy, rfl, id⟩

theorem claimsOrderEnd (d : Dev) : d.shrinks d.claimsOrderEnd :=
  event d fun x => by
    have h1 : x.shrinks x.dropUnheld.endDeadlock := (dropClaims x _).trans (endDeadlock _)
    have h2 := h1.trans (afterOrder x.dropUnheld.endDeadlock
      (if x.dropUnheld.endDeadlock.odo.known then x.dropUnheld.endDeadlock.footprint.sections else []))
    simp only
    split
    · exact h2.trans (claimsAtStandstill _)
    · exact h2

theorem endOrder (d : Dev) (o : OrderOutcome) (k : Option FaultKind) : d.shrinks (d.endOrder o k) := by
  unfold Dev.endOrder
  split
  · exact refl d
  · refine trans (e := Dev.claimsOrderEnd _) ?_ (of_cle (Dev.dockOrderEnd_cle _))
    refine trans ?_ (claimsOrderEnd _)
    exact of_cle (Dev.send_cle d ..)

theorem takeHalt (d : Dev) : d.shrinks d.takeHalt := of_cle d.takeHalt_claims.1

theorem enterSafeStop (d : Dev) (k : FaultKind) : d.shrinks (d.enterSafeStop k) := by
  have h1 : d.shrinks (((({ d with stc := { d.stc with listenTimer := none, remembered := none, stopKind := some k } } : Dev).enterState
      .safeStop).bump .entriesSafeStop).claimsAbort) :=
    (of_cle (by rw [Dev.bump_cle, Dev.enterState_cle]) :
      d.shrinks ((({ d with stc := { d.stc with listenTimer := none, remembered := none, stopKind := some k } } : Dev).enterState
        .safeStop).bump .entriesSafeStop)).trans (claimsAbort _)
  unfold Dev.enterSafeStop
  simp only
  split
  · exact h1
  · split
    · exact h1.trans (endOrder _ _ _)
    · exact h1.trans (endOrder _ _ _)

theorem raise (d : Dev) (k : FaultKind) : d.shrinks (d.raise k) := by
  have h1 : d.shrinks (d.enterFault k) := of_cle (d.enterFault_claims k).1
  refine h1.trans (f := (d.enterFault k).takeRaise k) ?_
  unfold Dev.takeRaise
  split
  · exact refl _
  · exact takeHalt _
  · split
    iterate 8 exact enterSafeStop _ _
    all_goals exact refl _

end Dev.shrinks

end Sys2Proof.Machine

/-! SUPPORT. The loss of a contention on any basis, with a blocker that waits for nothing (R68, R76). -/

namespace Sys2Proof.Machine

section
variable {d : Dev} {c : Claim} {p sec tag : Nat} {mine : Ticket} {w : Timer} {b : BlockBasis}

/-- A peer that waits for no section, or that is not known. -/
def Dev.idlePeer (d : Dev) (p : Nat) : Prop := ∀ r, d.peer p = some r → r.waiting = none

theorem Dev.waitedEntry_of_idle (h : d.idlePeer p) : d.waitedEntry p = none := by
  unfold Dev.waitedEntry
  cases hr : d.peer p with
  | none => rfl
  | some r => rw [Option.bind_some, h r hr, Option.bind_none]

/-- A blocker that waits for nothing: the examination of a mutual wait only ends a DEADLOCK (R76, R77). -/
theorem Dev.sameButDeadlock.examineMutual_idle (h : d.cle.frontState = some (.blocked p b w)) (hp : b = .intent ∨ d.idlePeer p) :
    d.sameButDeadlock d.examineMutual := by
  have hother : d.sameButDeadlock (if d.cle.deadlock.any (fun q => q != p) then d.endDeadlock else d)
      ∧ (if d.cle.deadlock.any (fun q => q != p) then d.endDeadlock else d).peers = d.peers := by
    split
    · exact ⟨Dev.sameButDeadlock.endDeadlock d, d.endDeadlock_peers⟩
    · exact ⟨Dev.sameButDeadlock.refl d, rfl⟩
  unfold Dev.examineMutual
  rw [h]
  simp only
  generalize (if d.cle.deadlock.any (fun q => q != p) then d.endDeadlock else d) = x at hother ⊢
  obtain ⟨hsame, hpeers⟩ := hother
  have hnone : (if b = .intent then none else x.waitedEntry p) = none := by
    split
    · rfl
    · next hb =>
      exact Dev.waitedEntry_of_idle fun r hr => hp.resolve_left hb r ((Dev.peer_congr hpeers p).symm.trans hr)
  rw [hnone]
  refine hsame.trans ?_
  simp only
  split
  · exact Dev.sameButDeadlock.endDeadlock x
  · exact Dev.sameButDeadlock.refl x

/-- A contention lost to a peer with a basis, its backoff running, before DEADLOCK is looked at (R68). -/
def Dev.lostTo (d : Dev) (c : Claim) (p : Nat) (b : BlockBasis) : Dev :=
  (((d.abandon c).raiseLoss).bump .contentionsLost).updateClaim c.sec
    (fun e => { e with state := .blocked p b d.claimBackoff })

theorem Dev.lostTo_entry (he : d.cle.entry c.sec = some c) (p : Nat) (b : BlockBasis) :
    (d.lostTo c p b).cle.entry c.sec = some { c with state := .blocked p b d.claimBackoff } := by
  refine Cle.entry_update (fun _ => rfl) ?_
  rw [Dev.bump_cle, Cle.entry_congr (Dev.raiseLoss_table _), Dev.abandon_cle, he]

theorem Dev.lostTo_lossCount (d : Dev) (c : Claim) (p : Nat) (b : BlockBasis) :
    (d.lostTo c p b).cle.lossCount = min 15 (d.cle.lossCount + 1) := by
  show min 15 ((d.abandon c).cle.lossCount + 1) = _
  rw [Dev.abandon_cle]

theorem Dev.lostTo_gathering (d : Dev) (c : Claim) (p : Nat) (b : BlockBasis) :
    (d.lostTo c p b).cle.gathering = d.cle.gathering := by
  show (d.abandon c).cle.gathering = _
  rw [Dev.abandon_cle]

theorem Dev.abandon_peers (d : Dev) (c : Claim) : (d.abandon c).peers = d.peers := by
  unfold Dev.abandon
  split <;> simp

theorem Dev.lostTo_peers (d : Dev) (c : Claim) (p : Nat) (b : BlockBasis) : (d.lostTo c p b).peers = d.peers :=
  Dev.abandon_peers d c

/-- The entry that lost is the front entry still (R58). -/
theorem Dev.lostTo_front (hok : d.cle.ok) (he : d.cle.entry c.sec = some c) (hst : c.state = .contending mine tag w) (p : Nat)
    (b : BlockBasis) : (d.lostTo c p b).cle.front = some { c with state := .blocked p b d.claimBackoff } := by
  have hfront : d.cle.front = some c :=
    Cle.front_of_tried hok (Cle.entry_mem he).1 (by simp [Claim.tried, Claim.isContending, hst])
  let counted : Dev := ((d.abandon c).raiseLoss).bump .contentionsLost
  have htable : counted.cle.table = d.cle.table := (Dev.raiseLoss_table _).trans (congrArg Cle.table (d.abandon_cle c))
  have hok' : counted.cle.ok := Cle.ok_same htable (.inr (Nat.min_le_left ..)) hok
  have hlost : (d.lostTo c p b).cle.ok :=
    Cle.ok_front (x := c) (by rw [Cle.front, htable]; exact hfront) (fun _ => rfl) (fun _ => rfl) rfl hok'
  exact Cle.front_of_tried hlost (Cle.entry_mem (Dev.lostTo_entry he p b)).1 rfl

theorem Dev.loseContention_eq (hst : c.state = .contending mine tag w) (p : Nat) (b : BlockBasis) :
    d.loseContention c p b = (d.lostTo c p b).tidyDeadlock.examineMutual := by
  simp only [Dev.loseContention, Dev.lostTo, Dev.abandon, hst]
  rfl

theorem Dev.loseContention_idle (hok : d.cle.ok) (he : d.cle.entry c.sec = some c) (hst : c.state = .contending mine tag w)
    (hp : b = .intent ∨ d.idlePeer p) : (d.lostTo c p b).sameButDeadlock (d.loseContention c p b) := by
  have hfront : (d.lostTo c p b).tidyDeadlock.cle.frontState = some (.blocked p b d.claimBackoff) := by
    have := Dev.lostTo_front hok he hst p b
    rw [Cle.frontState, Cle.front, Dev.tidyDeadlock_table]
    exact congrArg (Option.map Claim.state) this
  have hpeers : (d.lostTo c p b).tidyDeadlock.peers = d.peers :=
    ((Inner.peersAre _).tidyDeadlock rfl).trans (d.lostTo_peers c p b)
  rw [Dev.loseContention_eq hst]
  exact (Dev.sameButDeadlock.tidyDeadlock _).trans (Dev.sameButDeadlock.examineMutual_idle hfront
    (hp.imp_right fun h r hr => h r ((Dev.peer_congr hpeers p).symm.trans hr)))

/-- An event that only makes the CONTENDING entry lose. -/
theorem Dev.event_loses {act : Dev → Dev} (hok : d.cle.ok) (he : d.cle.entry c.sec = some c) (hst : c.state = .contending mine tag w)
    (hp : b = .intent ∨ d.idlePeer p) (hact : act d.gatheringNone = d.gatheringNone.loseContention c p b) :
    (Dev.event act d).cle.entry c.sec = some { c with state := .blocked p b d.claimBackoff }
      ∧ (Dev.event act d).cle.lossCount = min 15 (d.cle.lossCount + 1) := by
  have he' : d.gatheringNone.cle.entry c.sec = some c := he
  have hlost := Dev.loseContention_idle (d := d.gatheringNone) hok he' hst hp
  have hnone : (d.gatheringNone.loseContention c p b).cle.gathering = some [] :=
    hlost.gathering.trans (d.gatheringNone.lostTo_gathering c p b)
  rw [Dev.event_eq hact hnone]
  exact ⟨(Cle.entry_congr hlost.table c.sec).trans (Dev.lostTo_entry he' p b),
    hlost.lossCount.trans (d.gatheringNone.lostTo_lossCount c p b)⟩

/-- An event that only counts. -/
theorem Dev.event_bump {act : Dev → Dev} {n : Counter} (h : act d.gatheringNone = d.gatheringNone.bump n) :
    Dev.event act d = d.bump n := by
  rw [Dev.event_eq h rfl]
  rfl

theorem Dev.onObjection_loses (hok : d.cle.ok) (he : d.cle.entry c.sec = some c) (hst : c.state = .contending mine tag w)
    (hp : d.idlePeer p) (holding : Bool) :
    (d.onObjection p c.sec holding).cle.entry c.sec
        = some { c with state := .blocked p (if holding then .held else .intent) d.claimBackoff }
      ∧ (d.onObjection p c.sec holding).cle.lossCount = min 15 (d.cle.lossCount + 1) := by
  have he' : d.gatheringNone.cle.entry c.sec = some c := he
  exact Dev.event_loses hok he hst (.inr hp) (by simp only [he', hst])

theorem Dev.onObjection_none (he : d.cle.entry sec = none) (holding : Bool) :
    d.onObjection p sec holding = d.bump .lateObjections := by
  have he' : d.gatheringNone.cle.entry sec = none := he
  exact Dev.event_bump (by simp only [he'])

/-- An objection for an entry that is neither HELD nor CONTENDING, or one of basis CONTENDING for a HELD entry, is late (R71). -/
theorem Dev.onObjection_late (he : d.cle.entry sec = some c) {holding : Bool}
    (h : (c.isHeld = true ∧ holding = false) ∨ c.isBlocked = true ∨ c.isWanted = true) :
    d.onObjection p sec holding = d.bump .lateObjections := by
  have he' : d.gatheringNone.cle.entry sec = some c := he
  refine Dev.event_bump ?_
  simp only [he']
  cases hst : c.state with
  | held k t =>
    have hlate : holding = false := by simpa [Claim.isHeld, Claim.isBlocked, Claim.isWanted, hst] using h
    rw [hlate]
    rfl
  | contending t g n => simp [Claim.isHeld, Claim.isBlocked, Claim.isWanted, hst] at h
  | blocked q k n => rfl
  | wanted m => rfl

end

/-! ### Intake with no BLOCKED entry that waits (R42, R55) -/

section
variable {d : Dev} {f : Frame} {rest : List Frame} {r : PeerRec}

theorem Dev.intake_claims (h : d.passes f rest) :
    ((d.without rest).intake f).dev.cle = d.cle ∧ ((d.without rest).intake f).dev.odo = d.odo := by
  obtain ⟨-, h1, h32, hs, hsender⟩ := h
  cases hr : d.peer f.src with
  | none =>
    rw [Dev.intake_new (d := d.without rest) h1 h32 hs hr]
    exact Dev.addPeer_claims (d.without rest) _
  | some r =>
    have hk : r.kind = f.kind.sender := by simpa [hr] using hsender
    have hi : (d.without rest).updates f r := Dev.intake_known h1 h32 hs hr hk
    rw [hi]
    exact Dev.setPeerCounted_claims (d.without rest) _

/-- The part after intake, the claims standing: the sender's record is the one heard, or a new one. -/
theorem Dev.takenIn_took (h : d.passes f rest) (hq : d.cle.quiet) : ∃ r0 : PeerRec, d.TookIn (d.takenIn f rest) f rest r0
    ∧ r0.station = f.src ∧ (d.takenIn f rest).cle = d.cle ∧ (d.takenIn f rest).odo = d.odo
    ∧ (d.idlePeer f.src → r0.waiting = none) := by
  obtain ⟨r0, -, htook, hstation, -, hfresh, -, -, hknown, hnew⟩ := Dev.intake_heard h
  obtain ⟨hcle, hodo⟩ := Dev.intake_claims h
  have hnews : d.takenIn f rest = ((d.without rest).intake f).dev := by
    rw [Dev.takenIn_eq]
    refine Intake.news_of_quiet (by rw [hcle]; exact hq) fun r hr => ?_
    rw [← Option.some.inj (htook.peer.symm.trans hr)]
    exact hfresh
  refine ⟨r0, by rw [hnews]; exact htook, hstation, by rw [hnews]; exact hcle, by rw [hnews]; exact hodo, fun hidle => ?_⟩
  cases hr : d.peer f.src with
  | none => rw [hnew hr]; rfl
  | some r => rw [hknown r hr]; exact hidle r hr

/-- The part after intake of a frame of a FRESH sender. -/
theorem Dev.takenIn_of_fresh (h : d.passes f rest) (hok : d.peersOk) (hr : d.peer f.src = some r) (hfresh : r.freshness = .fresh) :
    d.takenIn f rest = (d.without rest).setPeer (r.heard d.now) := by
  obtain ⟨-, h1, h32, hs, hsender⟩ := h
  have hk : r.kind = f.kind.sender := by simpa [hr] using hsender
  have hi : (d.without rest).updates f r := Dev.intake_known h1 h32 hs hr hk
  rw [Dev.takenIn_eq, Intake.only, Intake.news_of_fresh (by rw [hi, hfresh]; rfl), hi]
  exact Dev.setPeerCounted_of_fresh (d := d.without rest) hok hr hfresh

end

theorem exec_object {s : State} {f : Frame} {rest : List Frame} (h : s.dev.passes f rest) (hk : f.kind = .object) :
    exec .object s = .next { s with dev := (if f.dest = s.dev.station then
      (s.dev.takenIn f rest).onObjection f.src (byteAt f.payload 0) (byteAt f.payload 1 == 1) else s.dev.takenIn f rest) } := by
  have hexec : exec .object s = s.becomes ((s.dev.without rest).takeObject f) :=
    congrArg s.becomes (Dev.dispatch_head h.1 (Frame.isKind_of hk) Dev.takeObject)
  obtain ⟨r0, hrec, htook, hs, -⟩ := Dev.intake_heard h
  have hstation : (s.dev.takenIn f rest).station = s.dev.station :=
    congrArg (fun t : Tmp => t.carriage.station)
      ((htook.still (Intake.news_still _ _ _ : (s.dev.takenIn f rest).still = _)).tmp)
  rw [hexec]
  simp only [Dev.takeObject, hrec, ← Dev.takenIn_eq, hs, hstation]
  rfl

/-- Settles O31: the objection event by the entry of its section. -/
theorem objectionMakesTheContenderLose : Obligations.ObjectionMakesTheContenderLose := by
  intro s f rest d sec hpass hkind hpeers hok
  have hexec := exec_object hpass hkind
  refine ⟨fun c t tag w hdest hfront hsec hst hidle => ?loses, fun hdest hnone => ?late, fun hdest => ?other⟩
  case loses =>
    intro basis backoff
    rw [if_pos hdest] at hexec
    obtain ⟨r0, htook, hs, hcle, -, hwaits⟩ := Dev.takenIn_took hpass (Cle.quiet_of_front_contending hfront hst)
    have he : (d.takenIn f rest).cle.entry c.sec = some c := by
      rw [hcle]
      exact Cle.entry_front hok hfront
    have hidle' : (d.takenIn f rest).idlePeer f.src := fun r hr => by
      rw [← Option.some.inj (htook.peer.symm.trans hr)]
      exact hwaits hidle
    have hbackoff : (d.takenIn f rest).claimBackoff = backoff := by
      rw [Dev.claimBackoff, Dev.timerMs, Dev.station, htook.tmp, htook.now]
      rfl
    obtain ⟨hentry, hcount⟩ := Dev.onObjection_loses (hcle ▸ hok) he hst hidle' (byteAt f.payload 1 == 1)
    rw [hbackoff] at hentry
    rw [hcle] at hcount
    have hbasis : (if (byteAt f.payload 1 == 1) = true then BlockBasis.held else .intent) = basis := by simp only [basis, beq_iff_eq]
    rw [hbasis] at hentry
    rw [show byteAt f.payload 0 = c.sec from hsec.symm] at hexec
    rw [← hsec]
    exact ⟨_, hexec, hentry, hcount⟩
  case late =>
    rw [if_pos hdest] at hexec
    rw [hexec, Dev.onObjection_none hnone]
  case other =>
    rw [if_neg hdest] at hexec
    exact hexec

end Sys2Proof.Machine

/-! SUPPORT. A clash on a HELD entry as one event of the Claim Engine: its three outcomes (R73 to R75). -/

namespace Sys2Proof.Machine

section
variable {d : Dev} {c : Claim} {p : Nat} {r : PeerRec} {t : Ticket} {b : ClaimBasis}

/-- Queuing a frame counts a coalesced beacon or a frame lost, and nothing else (R173). -/
theorem Dev.enqueue_counter {n : Counter} (hc : n.index ≠ Counter.coalescedBeacons.index) (hq : n.index ≠ Counter.queueDrops.index)
    (d : Dev) (k : FrameKind) (dst : Nat) (pl : List Byte) (tag : Option Nat) : (d.enqueue k dst pl tag).1.counter n = d.counter n := by
  unfold Dev.enqueue
  simp only
  split
  · rfl
  · split
    · exact d.counter_bump_ne hc.symm
    · split
      · rfl
      · split
        · exact Dev.counter_bump_ne { d with lif := _ } hq.symm
        · exact d.counter_bump_ne hq.symm

/-- The outcomes of a clash on a HELD entry (R74). -/
def Dev.clashConflict (d : Dev) (sec : Nat) (r : PeerRec) : Prop :=
  d.odo.pos.validity = .unknown ∨ (d.underOwn sec = true ∧ sec ∈ d.peerFootprint r)

def Dev.clashStays (d : Dev) (sec : Nat) (r : PeerRec) (p : Nat) : Prop :=
  ¬d.clashConflict sec r ∧ (d.underOwn sec = true ∨ (sec ∉ d.peerFootprint r ∧ d.station < p))

theorem Dev.clash_eq (hr : d.peer p = some r) (hfresh : r.freshness = .fresh) (hst : c.state = .held b t) :
    d.clash c p = (if !d.odo.known || (d.underOwn c.sec && (d.peerFootprint r).contains c.sec) then
        ((d.bump .clashesFound).raise .occupancyConflict).announceTaken c.sec t
      else if d.underOwn c.sec then (d.bump .clashesFound).announceTaken c.sec t
      else if (d.peerFootprint r).contains c.sec then (d.bump .clashesFound).clashYield c
      else if d.station < p then (d.bump .clashesFound).announceTaken c.sec t
      else (d.bump .clashesFound).clashYield c) := by
  unfold Dev.clash
  simp only [hr, hst, hfresh]
  exact if_neg Bool.false_ne_true

theorem Dev.conflict_iff (d : Dev) (n : Nat) (r : PeerRec) :
    (!d.odo.known || (d.underOwn n && (d.peerFootprint r).contains n)) = true ↔ d.clashConflict n r := by
  unfold Dev.clashConflict Odo.known
  cases d.odo.pos.validity <;> simp

variable (hr : d.peer p = some r) (hfresh : r.freshness = .fresh) (hst : c.state = .held b t)

include hr hfresh hst

theorem Dev.clash_conflict (h : d.clashConflict c.sec r) :
    d.clash c p = ((d.bump .clashesFound).raise .occupancyConflict).announceTaken c.sec t := by
  rw [Dev.clash_eq hr hfresh hst, if_pos ((d.conflict_iff c.sec r).mpr h)]

theorem Dev.clash_stays (h : d.clashStays c.sec r p) : d.clash c p = (d.bump .clashesFound).announceTaken c.sec t := by
  obtain ⟨hno, hkeep⟩ := h
  rw [Dev.clash_eq hr hfresh hst, if_neg (mt (d.conflict_iff c.sec r).mp hno)]
  obtain hmine | ⟨htheirs, hlower⟩ := hkeep
  · rw [if_pos hmine]
  · rw [if_neg (c := (d.peerFootprint r).contains c.sec = true) (by simpa using htheirs), if_pos hlower, ite_self]

theorem Dev.clash_yields (hno : ¬d.clashConflict c.sec r) (h : ¬d.clashStays c.sec r p) :
    d.clash c p = (d.bump .clashesFound).clashYield c ∧ d.underOwn c.sec = false := by
  have hmine : ¬d.underOwn c.sec = true := fun hm => h ⟨hno, .inl hm⟩
  rw [Dev.clash_eq hr hfresh hst, if_neg (mt (d.conflict_iff c.sec r).mp hno), if_neg hmine]
  refine ⟨?_, eq_false_of_ne_true hmine⟩
  by_cases htheirs : (d.peerFootprint r).contains c.sec = true
  · rw [if_pos htheirs]
  · rw [if_neg htheirs, if_neg fun hlower => h ⟨hno, .inr ⟨by simpa using htheirs, hlower⟩⟩]

end

/-! ### What a yield gives back (R75) -/

section
variable {d : Dev} {c : Claim}

/-- With sections that occur once, a table without the entry of a section has none for it. -/
theorem Cle.entry_filter_ne {x y : Cle} {n : Nat} (h : y.table = x.table.filter (fun e => !(e.isHeld && e.sec == n)))
    (hheld : ∀ e ∈ x.table, e.sec = n → e.isHeld = true) : y.entry n = none := by
  rw [Cle.entry, h, List.find?_eq_none]
  intro e he hsec
  have hmem := List.mem_filter.mp he
  have hs : e.sec = n := by simpa using hsec
  simp [hheld e hmem.1 hs, hs] at hmem

theorem Cle.holds_of_entry_none {x : Cle} {n : Nat} (h : x.entry n = none) : x.holds n = false := by
  rw [Cle.holds, List.any_eq_false]
  intro e he
  have := List.find?_eq_none.mp h e he
  simpa using fun hs => absurd hs (by simpa using this)

/-- The surrendered entries are HELD no more. -/
theorem Dev.surrenderFrom_table (d : Dev) (k : Nat) : (d.surrenderFrom k).cle.table = d.cle.table.map (fun e =>
    if d.yields k e then { e with state := .wanted false, points := .unrequested, pointsTimer := none, rerequestTimer := none } else e) := by
  unfold Dev.surrenderFrom
  rw [Dev.tidyDeadlock_table, Dev.shrinks.announceRelease_table]
  show List.map _ (Dev.cle (List.foldl Dev.abandon d _)).table = _
  rw [Dev.foldl_abandon_cle]

theorem Dev.surrenderFrom_holds {k n : Nat} (h : ∀ e ∈ d.cle.table, e.sec = n → d.yields k e = true) :
    (d.surrenderFrom k).cle.holds n = false := by
  rw [Cle.holds, List.any_eq_false, Dev.surrenderFrom_table]
  intro x hx
  obtain ⟨e, he, rfl⟩ := List.mem_map.mp hx
  split
  · simp [Claim.isHeld]
  · next hno => simpa using fun hs => absurd (h e he hs) hno

theorem Dev.releaseClaims_table (d : Dev) (p : Claim → Bool) :
    (d.releaseClaims p).cle.table = d.cle.table.filter (fun e => !(e.isHeld && p e)) := by
  rw [Dev.releaseClaims, Dev.tidyDeadlock_table, Dev.shrinks.announceRelease_table]

/-- A clash yielded: the section is HELD no more, an entry off the route is gone, and one near is an authority withdrawn (R75, log 17). -/
theorem Dev.clashYield_yields (hok : d.cle.ok) (he : d.cle.entry c.sec = some c) (hheld : c.isHeld = true)
    (hmine : d.underOwn c.sec = false) : (d.clashYield c).cle.holds c.sec = false
      ∧ (c.idx = none → (d.clashYield c).cle.entry c.sec = none)
      ∧ (d.withinStopping c = true → (d.clashYield c).faultActive .authorityWithdrawn = true) := by
  have hsame : ∀ e ∈ d.cle.table, e.sec = c.sec → e = c := fun e hm hs => Cle.sec_inj hok hm (Cle.entry_mem he).1 hs
  have hgive : ∀ x : Dev, x.shrinks (if d.withinStopping c then x.raise .authorityWithdrawn else x) := fun x => by
    split
    · exact Dev.shrinks.raise x _
    · exact Dev.shrinks.refl x
  have hnear : ∀ x : Dev, d.withinStopping c = true →
      (if d.withinStopping c then x.raise .authorityWithdrawn else x).faultActive .authorityWithdrawn = true := fun x hn => by
    rw [if_pos hn, Dev.raised_active _ _ (by decide)]
    rfl
  unfold Dev.clashYield
  simp only
  cases hidx : c.idx with
  | none =>
    have hgone : ((d.bump .clashYields).releaseClaims (fun e => e.sec == c.sec)).cle.entry c.sec = none :=
      Cle.entry_filter_ne (Dev.releaseClaims_table _ _) fun e hm hs => by rw [hsame e hm hs]; exact hheld
    exact ⟨Cle.holds_of_entry_none ((hgive _).entry_none hgone), fun _ => (hgive _).entry_none hgone, hnear _⟩
  | some k =>
    have hgone : ((d.bump .clashYields).surrenderFrom k).cle.holds c.sec = false := Dev.surrenderFrom_holds fun e hm hs => by
      have hu : (d.bump .clashYields).underOwn c.sec = false := hmine
      rw [hsame e hm hs, Dev.yields, Claim.fromIdx, hidx, hu]
      simp
    exact ⟨((Dev.shrinks.examineFront _).trans (hgive _)).holds hgone,
      fun h => absurd h (Option.some_ne_none k), hnear _⟩

end

/-! ### A clash as the event of a TAKEN or an OBJECT -/

section
variable {d : Dev} {c : Claim} {p : Nat} {r : PeerRec} {t : Ticket} {b : ClaimBasis} {act next : Dev → Dev}

/-- What the Claim Engine does after a clash in the same event: an examination at most. -/
structure Dev.AfterClash (cle : Cle) (next : Dev → Dev) : Prop where
  idle : ∀ x : Dev, x.cle = cle → next x = x
  survives : ∀ x : Dev, x.survives (next x)
  shrinks : ∀ x : Dev, x.shrinks (next x)

theorem Dev.afterClash_id (cle : Cle) : Dev.AfterClash cle id := ⟨fun _ _ => rfl, Dev.survives_refl, Dev.shrinks.refl⟩

theorem Dev.afterClash_examineBlocked {cle : Cle} (h : cle.front = none) : Dev.AfterClash cle Dev.examineBlocked :=
  ⟨fun x hx => Dev.examineBlocked_other (by rw [hx, h]; exact fun _ _ _ he => absurd he (Option.some_ne_none _).symm),
    fun x => (safeWork_survives x).examineBlocked x.survives_refl, Dev.shrinks.examineBlocked⟩

theorem Dev.event_survives (act : Dev → Dev) (d : Dev) : (act d.gatheringNone).survives (Dev.event act d) :=
  ((safeWork_survives _).sendRelease _ ((safeWork_survives _).sendRelease _ (Dev.survives_refl _) :))

variable (hact : act d.gatheringNone = next (d.gatheringNone.clash c p)) (hr : d.peer p = some r) (hfresh : r.freshness = .fresh)
  (hst : c.state = .held b t)

include hact hr hfresh hst

theorem Dev.event_conflict (hnext : Dev.AfterClash d.gatheringNone.cle next) (h : d.clashConflict c.sec r) :
    (Dev.event act d).faultActive .occupancyConflict = true := by
  have hraised : (((d.gatheringNone.bump .clashesFound).raise .occupancyConflict)).faultActive .occupancyConflict = true := by
    rw [Dev.raised_active _ _ (by decide)]
    rfl
  have htaken := (safeWork_survives _).announceTaken c.sec t (Dev.survives_refl ((d.gatheringNone.bump .clashesFound).raise .occupancyConflict))
  rw [← Dev.clash_conflict (d := d.gatheringNone) hr hfresh hst h] at htaken
  exact (Dev.event_survives act d).2 _ (by decide) (hact ▸ (hnext.survives _).2 _ (by decide) (htaken.2 _ (by decide) hraised))

theorem Dev.event_stays (hnext : Dev.AfterClash d.gatheringNone.cle next) (h : d.clashStays c.sec r p) :
    (Dev.event act d).cle.table = d.cle.table ∧ (Dev.event act d).odo = d.odo ∧ (Dev.event act d).stc = d.stc
      ∧ (Dev.event act d).faults = d.faults
      ∧ (d.counters.length = Counter.count → (Dev.event act d).counter .clashesFound = satInc (d.counter .clashesFound))
      ∧ (d.lif.hasRoom → ∃ y ∈ (Dev.event act d).lif.queue, y.kind = .taken ∧ y.dest = 0 ∧ y.payload = ticketPayload c.sec t) := by
  let x : Dev := d.gatheringNone.bump .clashesFound
  have hclash : d.gatheringNone.clash c p = x.announceTaken c.sec t := Dev.clash_stays (d := d.gatheringNone) hr hfresh hst h
  have hcle : (x.announceTaken c.sec t).cle = d.gatheringNone.cle := Dev.send_cle ..
  have hdone : act d.gatheringNone = x.announceTaken c.sec t := by rw [hact, hclash, hnext.idle _ hcle]
  have hcounter : (x.announceTaken c.sec t).counter .clashesFound = x.counter .clashesFound :=
    Dev.enqueue_counter (by decide) (by decide) x _ _ _ _
  have hqueued : d.lif.hasRoom → (x.announceTaken c.sec t).lif = d.lif.place ⟨.taken, 0, ticketPayload c.sec t, 0, none, false⟩ := fun hroom => by
    rw [Dev.announceTaken, Dev.send, Dev.enqueue_of_room (d := x) hroom rfl]
    rfl
  obtain ⟨q, tx, cs, hline⟩ := x.enqueue_line .taken 0 (ticketPayload c.sec t) none
  rw [Dev.event_eq hdone (by rw [hcle]; rfl)]
  refine ⟨(congrArg Cle.table hcle :), ?_, ?_, ?_, fun hlen => ?_, fun hroom => ?_⟩
  · exact (congrArg Dev.odo hline :)
  · exact (congrArg Dev.stc hline :)
  · exact (congrArg Dev.faults hline :)
  · exact hcounter.trans (Dev.counter_bump d.gatheringNone _ (by rw [show d.gatheringNone.counters = d.counters from rfl, hlen]; decide))
  · refine ⟨⟨.taken, 0, ticketPayload c.sec t, 0, none, false⟩, ?_, rfl, rfl, rfl⟩
    show _ ∈ (x.announceTaken c.sec t).lif.queue
    rw [hqueued hroom]
    exact Lif.mem_place ..

theorem Dev.event_yields (hok : d.cle.ok) (he : d.cle.entry c.sec = some c) (hnext : Dev.AfterClash d.gatheringNone.cle next)
    (hno : ¬d.clashConflict c.sec r) (h : ¬d.clashStays c.sec r p) :
    (Dev.event act d).cle.holds c.sec = false ∧ (c.idx = none → (Dev.event act d).cle.entry c.sec = none)
      ∧ (d.withinStopping c = true → (Dev.event act d).faultActive .authorityWithdrawn = true) := by
  obtain ⟨hclash, hmine⟩ := Dev.clash_yields (d := d.gatheringNone) hr hfresh hst hno h
  have hheld : c.isHeld = true := by rw [Claim.isHeld, hst]
  obtain ⟨hholds, hentry, hnear⟩ := Dev.clashYield_yields (d := d.gatheringNone.bump .clashesFound) hok he hheld hmine
  rw [← hclash] at hholds hentry hnear
  have hshrinks : (d.gatheringNone.clash c p).shrinks (Dev.event act d) := by
    refine Dev.shrinks.trans (hact ▸ hnext.shrinks _) (Dev.shrinks.of_table (Dev.event_table act d))
  exact ⟨hshrinks.holds hholds, fun hi => hshrinks.entry_none (hentry hi),
    fun hn => (Dev.event_survives act d).2 _ (by decide) (hact ▸ (hnext.survives _).2 _ (by decide) (hnear hn))⟩

end

/-! ### The events themselves (R71 to R73) -/

section
variable {d : Dev} {c : Claim} {p sec : Nat} {b : ClaimBasis} {t : Ticket}

/-- What a clash with a FRESH peer's record comes to in one event, by its outcome. -/
structure Dev.ClashResults (d e : Dev) (c : Claim) (r : PeerRec) (p : Nat) (t : Ticket) : Prop where
  conflict : d.clashConflict c.sec r → e.faultActive .occupancyConflict = true
  stays : d.clashStays c.sec r p → e.cle.table = d.cle.table ∧ e.odo = d.odo ∧ e.stc = d.stc ∧ e.faults = d.faults
    ∧ (d.counters.length = Counter.count → e.counter .clashesFound = satInc (d.counter .clashesFound))
    ∧ (d.lif.hasRoom → ∃ y ∈ e.lif.queue, y.kind = .taken ∧ y.dest = 0 ∧ y.payload = ticketPayload c.sec t)
  yields : ¬d.clashConflict c.sec r → ¬d.clashStays c.sec r p → e.cle.holds c.sec = false ∧ (c.idx = none → e.cle.entry c.sec = none)
    ∧ (d.withinStopping c = true → e.faultActive .authorityWithdrawn = true)

variable {r : PeerRec} (hok : d.cle.ok) (he : d.cle.entry c.sec = some c) (hr : d.peer p = some r) (hfresh : r.freshness = .fresh)
  (hst : c.state = .held b t)

include hok he hr hfresh hst

theorem Dev.onTaking_clash (hfront : d.cle.front = none) : d.ClashResults (d.onTaking p c.sec) c r p t := by
  have he' : d.gatheringNone.cle.entry c.sec = some c := he
  have hnext : Dev.AfterClash d.gatheringNone.cle Dev.examineBlocked := Dev.afterClash_examineBlocked hfront
  exact ⟨Dev.event_conflict (next := Dev.examineBlocked) (by simp only [he', hst]) hr hfresh hst hnext,
    Dev.event_stays (next := Dev.examineBlocked) (by simp only [he', hst]) hr hfresh hst hnext,
    Dev.event_yields (next := Dev.examineBlocked) (by simp only [he', hst]) hr hfresh hst hok he hnext⟩

theorem Dev.onObjection_clash : d.ClashResults (d.onObjection p c.sec true) c r p t := by
  have he' : d.gatheringNone.cle.entry c.sec = some c := he
  have hnext := Dev.afterClash_id d.gatheringNone.cle
  exact ⟨Dev.event_conflict (next := id) (by simp only [he', hst, if_true, id]) hr hfresh hst hnext,
    Dev.event_stays (next := id) (by simp only [he', hst, if_true, id]) hr hfresh hst hnext,
    Dev.event_yields (next := id) (by simp only [he', hst, if_true, id]) hr hfresh hst hok he hnext⟩

end

section
variable {d : Dev} {c : Claim} {p sec tag : Nat} {t : Ticket} {w : Timer}

theorem Dev.onTaking_loses (hok : d.cle.ok) (he : d.cle.entry c.sec = some c) (hst : c.state = .contending t tag w)
    (hp : d.idlePeer p) : (d.onTaking p c.sec).cle.entry c.sec = some { c with state := .blocked p .held d.claimBackoff }
      ∧ (d.onTaking p c.sec).cle.lossCount = min 15 (d.cle.lossCount + 1) := by
  have he' : d.gatheringNone.cle.entry c.sec = some c := he
  exact Dev.event_loses hok he hst (.inr hp) (by simp only [he', hst])

/-- A TAKEN for an entry that is WANTED or BLOCKED examines a BLOCKED entry that waits, and there is none here (R66, R71). -/
theorem Dev.onTaking_idle (he : d.cle.entry sec = some c) (hst : c.isBlocked = true ∨ c.isWanted = true) (hq : d.cle.quiet) :
    d.onTaking p sec = d := by
  have he' : d.gatheringNone.cle.entry sec = some c := he
  have hidle : d.gatheringNone.examineBlocked = d.gatheringNone := Dev.examineBlocked_other (fun c p b => hq c p b)
  refine Dev.event_idle ?_
  simp only [he']
  cases hs : c.state with
  | held b t => simp [Claim.isBlocked, Claim.isWanted, hs] at hst
  | contending t g n => simp [Claim.isBlocked, Claim.isWanted, hs] at hst
  | blocked q b n => exact hidle
  | wanted m => exact hidle

end

/-! ### The frames of a FRESH sender -/

/-- `u` is `d` but for the peers, the mailbox and the counters, and shows this record's place and waiting for this peer. -/
structure Dev.FreshlyTook (d u : Dev) (f : Frame) (r : PeerRec) : Prop where
  apart : ∃ (ps : List PeerRec) (m : List Frame) (cs : List (BitVec 16)),
    u = { d with peers := ps, lif := { d.lif with mailbox := m }, counters := cs }
  counters : u.counters.length = d.counters.length
  clashes : u.counter .clashesFound = d.counter .clashesFound
  peer : ∃ r' : PeerRec, u.peer f.src = some r' ∧ r'.freshness = .fresh ∧ r'.waiting = r.waiting ∧ d.peerFootprint r' = d.peerFootprint r

section
variable {s : State} {f : Frame} {rest : List Frame} {r : PeerRec} {d u : Dev} {c : Claim} {t : Ticket}

theorem Dev.takenIn_freshly (hpass : d.passes f rest) (hok : d.peersOk) (hr : d.peer f.src = some r) (hfresh : r.freshness = .fresh) :
    d.FreshlyTook (d.takenIn f rest) f r := by
  have hs : (r.heard d.now).station = f.src := (Dev.peer_station hr : r.station = f.src)
  rw [Dev.takenIn_of_fresh hpass hok hr hfresh]
  refine ⟨⟨_, _, _, rfl⟩, rfl, rfl, r.heard d.now, ?_, rfl, rfl, rfl⟩
  rw [← hs]
  exact Dev.peer_setPeer_same (d := d.without rest) (by rw [hs]; exact hr)

/-- A TAKEN of a FRESH sender is a taking event of a part whose records and counters alone have changed (R46, R71). -/
theorem exec_taken (hpass : s.dev.passes f rest) (hk : f.kind = .taken) (hok : s.dev.peersOk) (hr : s.dev.peer f.src = some r)
    (hfresh : r.freshness = .fresh) : ∃ u : Dev, s.dev.FreshlyTook u f r
      ∧ exec .taken s = .next { s with dev := u.onTaking f.src (byteAt f.payload 0) } := by
  have hexec : exec .taken s = s.becomes ((s.dev.without rest).takeTaken f) :=
    congrArg s.becomes (Dev.dispatch_head hpass.1 (Frame.isKind_of hk) Dev.takeTaken)
  obtain ⟨-, h1, h32, hne, hsender⟩ := hpass
  have hkind : r.kind = f.kind.sender := by simpa [hr] using hsender
  have hi : (s.dev.without rest).updates f r := Dev.intake_known h1 h32 hne hr hkind
  have hs : (r.heard s.dev.now).station = f.src := (Dev.peer_station hr : r.station = f.src)
  have hset := Dev.setPeerCounted_of_fresh (d := s.dev.without rest) hok hr hfresh
  let h := takeHeld r.held (byteAt f.payload 0)
  let r' : PeerRec := { r.heard s.dev.now with
    held := h.1
    ticket := Ticket.ofByte (f.payload.getD 1 0) r.station
    intent := if r.intent.any (fun x => x.sec == byteAt f.payload 0) then none else r.intent }
  let v : Dev := ((s.dev.without rest).setPeer (r.heard s.dev.now)).setPeer r'
  have htake : (s.dev.without rest).takeTaken f
      = (if h.2 then v.bump .listOverrun else v).onTaking f.src (byteAt f.payload 0) := by
    rw [Dev.takeTaken, hi]
    simp only
    rw [Intake.news_of_fresh (by rw [hfresh]; rfl)]
    show Dev.onTaking _ (r.heard s.dev.now).station _ = _
    rw [hs, hset]
    rfl
  have hpeer : v.peer f.src = some r' := by
    have hr' : ((s.dev.without rest).setPeer (r.heard s.dev.now)).peer r'.station = some (r.heard s.dev.now) :=
      Dev.peer_setPeer_same (d := s.dev.without rest) (r := r.heard s.dev.now) (by rw [hs]; exact hr)
    rw [← hs]
    exact Dev.peer_setPeer_same hr'
  refine ⟨_, ?_, hexec.trans (congrArg s.becomes htake)⟩
  split
  · exact ⟨⟨_, _, _, rfl⟩, by simp only [Dev.bump, List.length_modify]; rfl, Dev.counter_bump_ne v (by decide), r', hpeer, rfl, rfl, rfl⟩
  · exact ⟨⟨_, _, _, rfl⟩, rfl, rfl, r', hpeer, rfl, rfl, rfl⟩

/-- A clash of a part that took the frame, said of the part before it. -/
theorem Dev.FreshlyTook.clash (h : d.FreshlyTook u f r) {e : Dev} (hres : ∀ r', u.peer f.src = some r' → r'.freshness = .fresh →
    u.ClashResults e c r' f.src t) : d.ClashResults e c r f.src t := by
  obtain ⟨⟨ps, m, cs, rfl⟩, hlen, hclash, r', hpeer, hfresh', -, hfoot⟩ := h
  obtain ⟨hconflict, hstays, hyields⟩ := hres r' hpeer hfresh'
  have hconf : Dev.clashConflict { d with peers := ps, lif := { d.lif with mailbox := m }, counters := cs } c.sec r' = d.clashConflict c.sec r := by
    unfold Dev.clashConflict
    rw [← hfoot]
    rfl
  have hstay : Dev.clashStays { d with peers := ps, lif := { d.lif with mailbox := m }, counters := cs } c.sec r' f.src
      = d.clashStays c.sec r f.src := by
    unfold Dev.clashStays
    rw [hconf, ← hfoot]
    rfl
  rw [hconf] at hconflict hyields
  rw [hstay] at hstays hyields
  rw [hlen, hclash] at hstays
  exact ⟨hconflict, hstays, hyields⟩

end

/-- Settles O30: the taking and the objection event by the state of the section's entry. -/
theorem takingsAndObjectionsAct : Obligations.TakingsAndObjectionsAct := by
  intro s f rest r c d sec hpass hpeers hok hr hfresh hentry there mine conflict stays result clash
  obtain ⟨hmem, hsec⟩ := Cle.entry_mem hentry
  have hcle {u : Dev} (hu : d.FreshlyTook u f r) : u.cle = d.cle := by
    obtain ⟨⟨ps, m, cs, rfl⟩, -⟩ := hu
    rfl
  have hclash {i : Instr} {e : Dev} (hexec : exec i s = .next { s with dev := e })
      (h : ∀ b t, c.state = .held b t → d.ClashResults e c r f.src t) : clash i := by
    intro b t hst
    obtain ⟨hconflict, hstays, hyields⟩ := h b t hst
    rw [hsec] at hconflict hstays hyields
    exact ⟨fun hc => ⟨e, hexec, hconflict hc⟩, fun hs => ⟨e, hexec, hstays hs⟩, fun hc hs => ⟨e, hexec, hyields hc hs⟩⟩
  refine ⟨fun hk hfront => ?takenClash, fun hk hdest hbasis => ?objectClash, fun t tag w hk hst hwaits => ?loses,
    fun hk hdest hlate => ?late, fun hk hidle => ?idle⟩
  case takenClash =>
    obtain ⟨u, hu, hexec⟩ := exec_taken hpass hk hpeers hr hfresh
    have hu' := hcle hu
    refine hclash hexec fun b t hst => hu.clash fun r' hr' hfresh' => ?_
    rw [show byteAt f.payload 0 = c.sec from hsec.symm]
    exact Dev.onTaking_clash (hu' ▸ hok) (by rw [hu', hsec]; exact hentry) hr' hfresh' hst (by rw [hu']; exact hfront)
  case objectClash =>
    have hu := Dev.takenIn_freshly hpass hpeers hr hfresh
    have hu' := hcle hu
    have hexec := exec_object hpass hk
    rw [if_pos hdest, hbasis, show byteAt f.payload 0 = c.sec from hsec.symm] at hexec
    refine hclash hexec fun b t hst => hu.clash fun r' hr' hfresh' => ?_
    exact Dev.onObjection_clash (hu' ▸ hok) (by rw [hu', hsec]; exact hentry) hr' hfresh' hst
  case loses =>
    obtain ⟨u, hu, hexec⟩ := exec_taken hpass hk hpeers hr hfresh
    have hu' := hcle hu
    obtain ⟨⟨ps, m, cs, heq⟩, -, -, r', hr', -, hwaits', -⟩ := hu
    have hidle : u.idlePeer f.src := fun x hx => by rw [← Option.some.inj (hr'.symm.trans hx), hwaits', hwaits]
    obtain ⟨hlost, hcount⟩ := Dev.onTaking_loses (hu' ▸ hok) (by rw [hu', hsec]; exact hentry) hst hidle
    have hbackoff : u.claimBackoff = some (d.now + d.tmp.plan.claimWindow * (1 + d.station % 4) * 1000) := by
      rw [heq]
      rfl
    rw [hbackoff] at hlost
    rw [hu'] at hcount
    rw [show byteAt f.payload 0 = c.sec from hsec.symm] at hexec
    exact ⟨_, hexec, by rw [← hsec]; exact hlost, hcount⟩
  case late =>
    have hu' := hcle (Dev.takenIn_freshly hpass hpeers hr hfresh)
    have hexec := exec_object hpass hk
    have hentry' : (d.takenIn f rest).cle.entry sec = some c := by rw [hu']; exact hentry
    have hlate' : (c.isHeld = true ∧ (byteAt f.payload 1 == 1) = false) ∨ c.isBlocked = true ∨ c.isWanted = true :=
      hlate.imp_left fun h => ⟨h.1, beq_false_of_ne h.2⟩
    rw [hexec, if_pos hdest]
    exact congrArg s.becomes (Dev.onObjection_late hentry' hlate')
  case idle =>
    obtain ⟨u, hu, hexec⟩ := exec_taken hpass hk hpeers hr hfresh
    have hu' := hcle hu
    have hentry' : u.cle.entry sec = some c := by rw [hu']; exact hentry
    have hquiet : u.cle.quiet := by
      rw [hu']
      obtain ⟨p, b, n, hst⟩ | ⟨hwanted, hfront⟩ := hidle
      · have hfront : d.cle.front = some c := Cle.front_of_tried hok hmem (by simp [Claim.tried, Claim.isBlocked, hst])
        intro x q k hx
        rw [← Option.some.inj (hfront.symm.trans hx), hst]
        simp
      · intro x q k hx hst
        rw [← Option.some.inj (hfront.symm.trans hx)] at hst
        simp [Claim.isWanted, hst] at hwanted
    have hstate : c.isBlocked = true ∨ c.isWanted = true := by
      obtain ⟨p, b, n, hst⟩ | ⟨hwanted, -⟩ := hidle
      · exact .inl (by rw [Claim.isBlocked, hst])
      · exact .inr hwanted
    exact ⟨_, hexec, by rw [Dev.onTaking_idle hentry' hstate hquiet]; exact hu'⟩

end Sys2Proof.Machine

/-! SUPPORT. A BEACON of a FRESH record as an event of the Claim Engine (R43, R49, R68, R73, R76). -/

namespace Sys2Proof.Machine

section
variable {d u : Dev} {f : Frame} {rest : List Frame} {r r' : PeerRec}

/-- A record of this station's own plan makes no foreign record, and may leave none (R49). -/
theorem Dev.setPeerCounted_own (d : Dev) (hr : r.foreign = false) :
    d.setPeerCounted r = d.setPeer r ∨ d.setPeerCounted r = (d.setPeer r).causeEnded .planMismatch := by
  unfold Dev.setPeerCounted Dev.foreignChanged
  split
  · next h =>
    obtain ⟨hbefore, hafter⟩ : d.foreignCount = 0 ∧ 0 < (d.setPeer r).foreignCount := by simpa using h
    obtain ⟨x, hx⟩ := List.length_pos_iff_exists_mem.mp hafter
    obtain ⟨hmem, hforeign⟩ := List.mem_filter.mp hx
    obtain ⟨y, hy, rfl⟩ := List.mem_map.mp hmem
    split at hforeign
    · simp [hr] at hforeign
    · exact absurd (List.mem_filter.mpr ⟨hy, hforeign⟩) (by rw [List.eq_nil_of_length_eq_zero hbefore]; exact List.not_mem_nil)
  · split
    · exact .inr rfl
    · exact .inl rfl

theorem Dev.setPeerCounted_order (d : Dev) (r : PeerRec) : (d.setPeerCounted r).stc.order = d.stc.order := by
  unfold Dev.setPeerCounted Dev.foreignChanged
  split
  · exact congrArg Prod.fst (Dev.raise_orders_of_halt (k := .planMismatch) rfl (d.setPeer r))
  · split
    · unfold Dev.causeEnded
      split <;> rfl
    · rfl

/-- The sender's record after a BEACON that is not malformed (R43). -/
def Dev.beaconed (d : Dev) (r : PeerRec) (f : Frame) : PeerRec := d.beaconRecord (r.heard d.now) (readBeacon f.payload)

/-- A part whose sender's record has been replaced by a BEACON: the claims, the position, the parameters and the order stand; with the
same plan the peers, the mailbox, the faults and the counters alone have changed. -/
structure Dev.Beaconed (d u : Dev) (f : Frame) (r' : PeerRec) : Prop where
  cle : u.cle = d.cle
  odo : u.odo = d.odo
  tmp : u.tmp = d.tmp
  now : u.now = d.now
  order : u.stc.order = d.stc.order
  peer : u.peer f.src = some r'
  own : (readBeacon f.payload).signature = d.tmp.signature → ∃ (m : List Frame) (fs : List FaultEntry) (cs : List (BitVec 16)),
    u = { d with
      peers := d.peers.map (fun x => if x.station = f.src then r' else x)
      lif := { d.lif with mailbox := m }, faults := fs, counters := cs }

theorem exec_beacon {s : State} (hpass : s.dev.passes f rest) (hk : f.kind = .beacon) (hok : s.dev.peersOk)
    (hcount : byteAt f.payload 19 ≤ 8) (hr : s.dev.peer f.src = some r) (hfresh : r.freshness = .fresh) :
    ∃ u : Dev, s.dev.Beaconed u f (s.dev.beaconed r f)
      ∧ exec .beacon s = .next { s with dev := u.onBeacon (s.dev.beaconed r f) } := by
  have hexec : exec .beacon s = s.becomes ((s.dev.without rest).takeBeacon f) :=
    congrArg s.becomes (Dev.dispatch_head hpass.1 (Frame.isKind_of hk) Dev.takeBeacon)
  obtain ⟨-, h1, h32, hne, hsender⟩ := hpass
  have hkind : r.kind = f.kind.sender := by simpa [hr] using hsender
  have hi : (s.dev.without rest).updates f r := Dev.intake_known h1 h32 hne hr hkind
  have hs : (r.heard s.dev.now).station = f.src := (Dev.peer_station hr : r.station = f.src)
  have hset := Dev.setPeerCounted_of_fresh (d := s.dev.without rest) hok hr hfresh
  generalize hr' : s.dev.beaconed r f = r'
  have hs' : r'.station = f.src := by rw [← hr']; exact hs
  let v : Dev := (s.dev.without rest).setPeer (r.heard s.dev.now)
  have htake : (s.dev.without rest).takeBeacon f = (v.setPeerCounted r').onBeacon r' := by
    rw [Dev.takeBeacon, hi]
    simp only
    rw [if_neg (show ¬Config.maxHeld < (readBeacon f.payload).heldCount from Nat.not_lt.mpr hcount),
      Intake.news_of_fresh (by rw [hfresh]; rfl), hset, ← hr']
    rfl
  have hpeer : (v.setPeer r').peer f.src = some r' := by
    have hv : v.peer r'.station = some (r.heard s.dev.now) := by
      rw [hs', ← hs]
      exact Dev.peer_setPeer_same (d := s.dev.without rest) (r := r.heard s.dev.now) (by rw [hs]; exact hr)
    rw [← hs']
    exact Dev.peer_setPeer_same hv
  obtain ⟨hpeers, -, htmp, hnow⟩ := Dev.still_shows (Dev.foreignChanged_still (v.setPeer r') v.foreignCount)
  obtain ⟨hcle, hodo⟩ := v.setPeerCounted_claims r'
  refine ⟨v.setPeerCounted r', ⟨hcle, hodo, htmp, hnow, v.setPeerCounted_order r', ?_, fun hsig => ?_⟩,
    hexec.trans (congrArg s.becomes htake)⟩
  · exact (Dev.peer_congr hpeers f.src).trans hpeer
  · have hown : r'.foreign = false := by
      rw [← hr']
      show ((readBeacon f.payload).signature != s.dev.tmp.signature) = false
      rw [hsig, bne_self_eq_false]
    have hwritten : v.setPeer r' = { s.dev with
        peers := s.dev.peers.map (fun x => if x.station = f.src then r' else x), lif := { s.dev.lif with mailbox := rest } } := by
      rw [Dev.setPeer_setPeer _ (hs'.trans hs.symm), Dev.setPeer_at hs']
      rfl
    obtain h | h := v.setPeerCounted_own hown
    · rw [h, hwritten]
      exact ⟨_, _, _, rfl⟩
    · rw [h, hwritten]
      unfold Dev.causeEnded
      split <;> exact ⟨_, _, _, rfl⟩

end

/-! ### The steps of the beacon event (log 60) -/

section
variable {d : Dev} {r : PeerRec} {c : Claim}

theorem Dev.contendBeacon_none (h : d.cle.table.find? Claim.isContending = none) : d.contendBeacon r = d := by
  rw [Dev.contendBeacon, h]

/-- The CONTENDING entry is the one that is found (R58). -/
theorem Cle.find_contending {x : Cle} (hok : x.ok) (hm : c ∈ x.table) (hc : c.isContending = true) :
    x.table.find? Claim.isContending = some c := by
  cases hf : x.table.find? Claim.isContending with
  | none => exact absurd hc (by simpa using List.find?_eq_none.mp hf c hm)
  | some y =>
    have hy := Cle.front_of_tried hok (List.mem_of_find?_eq_some hf) (by simp [Claim.tried, (List.find?_some hf :)])
    have hx := Cle.front_of_tried hok hm (by simp [Claim.tried, hc])
    rw [Option.some.inj (hx.symm.trans hy)]

/-- With a front entry that is not CONTENDING, or none, no entry is CONTENDING (R58). -/
theorem Cle.find_contending_none {x : Cle} (hok : x.ok) (h : ∀ e, x.front = some e → e.isContending = false) :
    x.table.find? Claim.isContending = none := by
  rw [List.find?_eq_none]
  intro e he hc
  have hfront := Cle.front_of_tried hok he (by simp [Claim.tried, hc])
  rw [h e hfront] at hc
  exact Bool.false_ne_true hc

theorem Dev.clashBeacon_none (h : ∀ e ∈ d.cle.table, e.isHeld = true → e.sec ∉ r.held) : d.clashBeacon r = d := by
  have hnil : d.cle.table.filter (fun e => e.isHeld && r.held.contains e.sec) = [] := by
    rw [List.filter_eq_nil_iff]
    intro e he hb
    simp only [Bool.and_eq_true, List.contains_eq_mem, decide_eq_true_eq] at hb
    exact h e he hb.1 hb.2
  rw [Dev.clashBeacon, hnil, List.foldl_nil]

/-- An entry of the table is the one found for its section (R57). -/
theorem Cle.entry_of_mem {x : Cle} (hok : x.ok) (hm : c ∈ x.table) : x.entry c.sec = some c := by
  cases he : x.entry c.sec with
  | none => exact absurd (List.find?_eq_none.mp he c hm) (by simp)
  | some y =>
    obtain ⟨hy, hs⟩ := Cle.entry_mem he
    rw [Cle.sec_inj hok hy hm hs]

/-- One HELD entry that the beacon shows: the clash of that entry alone. -/
theorem Dev.clashBeacon_one (hok : d.cle.ok) (hm : c ∈ d.cle.table) (hheld : c.isHeld = true) (hshown : c.sec ∈ r.held)
    (h : ∀ e ∈ d.cle.table, e ≠ c → e.isHeld = true → e.sec ∉ r.held) : d.clashBeacon r = d.clash c r.station := by
  have hnodup : d.cle.table.Nodup := hok.2.1.of_map _
  have hone : d.cle.table.filter (fun e => e.isHeld && r.held.contains e.sec) = [c] := by
    have hshows : ∀ e ∈ d.cle.table, (e.isHeld && r.held.contains e.sec) = decide (e = c) := fun e he => by
      rw [Bool.eq_iff_iff]
      simp only [Bool.and_eq_true, List.contains_eq_mem, decide_eq_true_eq]
      refine ⟨fun hb => by_contra fun hne => h e he hne hb.1 hb.2, ?_⟩
      rintro rfl
      exact ⟨hheld, hshown⟩
    rw [List.filter_congr hshows, List.filter_eq, List.count_eq_one_of_mem hnodup hm]
    rfl
  rw [Dev.clashBeacon, hone, List.foldl_cons, List.foldl_nil, Cle.entry_of_mem hok hm]

end

/-! ### The beacon event by what it shows -/

section
variable {d : Dev} {r : PeerRec} {c : Claim} {t : Ticket} {g : Nat} {w : Timer} {b : ClaimBasis}

theorem Dev.lostTo_table (d : Dev) (c : Claim) (p : Nat) (b : BlockBasis) : (d.lostTo c p b).cle.table
    = d.cle.table.map (fun e => if e.sec = c.sec then { e with state := .blocked p b d.claimBackoff } else e) := by
  show List.map _ (d.abandon c).cle.table = _
  rw [Dev.abandon_cle]

/-- The BLOCKED entry stays with its backoff running, and an entry that has just become so is not examined for a mutual wait (R66, R76). -/
theorem Dev.beacon_loses {k : BlockBasis} (hok : d.cle.ok) (hm : c ∈ d.cle.table) (hst : c.state = .contending t g w)
    (hlone : ∀ e ∈ d.cle.table, e ≠ c → e.isHeld = true → e.sec ∉ r.held) (hp : d.idlePeer r.station)
    (hlose : d.gatheringNone.contendBeacon r = d.gatheringNone.loseContention c r.station k) :
    (d.onBeacon r).cle.entry c.sec = some { c with state := .blocked r.station k d.claimBackoff }
      ∧ (d.onBeacon r).cle.lossCount = min 15 (d.cle.lossCount + 1) := by
  let x : Dev := d.gatheringNone.loseContention c r.station k
  have he : d.gatheringNone.cle.entry c.sec = some c := Cle.entry_of_mem hok hm
  have hlost := Dev.loseContention_idle (d := d.gatheringNone) (b := k) hok he hst (.inr hp)
  have hfront : x.cle.front = some { c with state := .blocked r.station k d.claimBackoff } := by
    have hlostFront := Dev.lostTo_front (d := d.gatheringNone) hok he hst r.station k
    rw [Cle.front, ← hlost.table] at hlostFront
    exact hlostFront
  have hbefore : d.gatheringNone.cle.front = some c := Cle.front_of_tried hok hm (by simp [Claim.tried, Claim.isContending, hst])
  have hclash : x.clashBeacon r = x := Dev.clashBeacon_none fun e hmem hheld => by
    rw [hlost.table, Dev.lostTo_table] at hmem
    obtain ⟨y, hy, rfl⟩ := List.mem_map.mp hmem
    split at hheld
    · exact absurd hheld Bool.false_ne_true
    · next hs =>
      rw [if_neg hs]
      refine hlone y hy (fun h => hs (by rw [h])) hheld
  have hblocked : x.examineBlocked = x := Dev.examineBlocked_other fun e p q hx => by
    rw [← Option.some.inj (hfront.symm.trans hx)]
    simp [Dev.claimBackoff, Dev.timerMs]
  refine Dev.event_loses hok he hst (.inr hp) ?_
  simp only
  rw [hlose, hclash, hblocked, hfront, hbefore]
  have hnot : ((some { c with state := .blocked r.station k d.claimBackoff } : Option Claim) == some c) = false := by
    refine beq_false_of_ne fun h => ?_
    have := congrArg Claim.state (Option.some.inj h)
    rw [hst] at this
    exact ClaimState.noConfusion this
  simp [hnot, x]

theorem Dev.event_of_act {act : Dev → Dev} {e : Dev} (h : act d.gatheringNone = e) : Dev.event act d = Dev.event (fun _ => e) d := by
  rw [← h]
  rfl

/-- With no front entry the beacon event is the clash of the one HELD entry that the beacon shows (R73). -/
theorem Dev.onBeacon_clash (hok : d.cle.ok) (hm : c ∈ d.cle.table) (hheld : c.isHeld = true) (hshown : c.sec ∈ r.held)
    (hlone : ∀ e ∈ d.cle.table, e ≠ c → e.isHeld = true → e.sec ∉ r.held) (hfront : d.cle.front = none) :
    d.onBeacon r = Dev.event (fun _ => (d.gatheringNone.clash c r.station).examineBlocked) d := by
  have hcontend : d.gatheringNone.contendBeacon r = d.gatheringNone :=
    Dev.contendBeacon_none (Cle.find_contending_none hok fun e he => absurd (hfront.symm.trans he) (Option.some_ne_none e).symm)
  have hclash : d.gatheringNone.clashBeacon r = d.gatheringNone.clash c r.station :=
    Dev.clashBeacon_one (d := d.gatheringNone) hok hm hheld hshown hlone
  have hbefore : d.gatheringNone.cle.front = none := hfront
  refine Dev.event_of_act ?_
  simp only
  rw [hcontend, hclash, hbefore]
  split
  · next e he =>
    have hnot : ((some e : Option Claim) == none) = false := rfl
    split
    · rw [he, hnot, Bool.and_false]
      rfl
    iterate 3 rfl
  · rfl

theorem Dev.beacon_clash (hok : d.cle.ok) (hm : c ∈ d.cle.table) (hst : c.state = .held b t) (hshown : c.sec ∈ r.held)
    (hlone : ∀ e ∈ d.cle.table, e ≠ c → e.isHeld = true → e.sec ∉ r.held) (hfront : d.cle.front = none) (hr : d.peer r.station = some r)
    (hfresh : r.freshness = .fresh) : d.ClashResults (d.onBeacon r) c r r.station t := by
  have hnext := Dev.afterClash_examineBlocked (cle := d.gatheringNone.cle) hfront
  rw [Dev.onBeacon_clash hok hm (by rw [Claim.isHeld, hst]) hshown hlone hfront]
  exact ⟨Dev.event_conflict (next := Dev.examineBlocked) rfl hr hfresh hst hnext,
    Dev.event_stays (next := Dev.examineBlocked) rfl hr hfresh hst hnext,
    Dev.event_yields (next := Dev.examineBlocked) rfl hr hfresh hst hok (Cle.entry_of_mem hok hm) hnext⟩

/-- A BLOCKED front entry, its backoff running, is examined for a mutual wait by a beacon of its blocker that shows no HELD section (R76). -/
theorem Dev.beacon_examines {k : BlockBasis} {n : Nat} (hok : d.cle.ok) (hm : c ∈ d.cle.table)
    (hst : c.state = .blocked r.station k (some n)) (hnone : ∀ e ∈ d.cle.table, e.isHeld = true → e.sec ∉ r.held) :
    d.onBeacon r = Dev.event (fun _ => d.gatheringNone.examineMutual) d := by
  have hfront : d.gatheringNone.cle.front = some c := Cle.front_of_tried hok hm (by simp [Claim.tried, Claim.isBlocked, hst])
  have hcontend : d.gatheringNone.contendBeacon r = d.gatheringNone :=
    Dev.contendBeacon_none (Cle.find_contending_none hok fun e he => by
      rw [← Option.some.inj (hfront.symm.trans he), Claim.isContending, hst])
  have hclash : d.gatheringNone.clashBeacon r = d.gatheringNone := Dev.clashBeacon_none hnone
  have hblocked : d.gatheringNone.examineBlocked = d.gatheringNone := Dev.examineBlocked_other fun e p q he => by
    rw [← Option.some.inj (hfront.symm.trans he), hst]
    simp
  refine Dev.event_of_act ?_
  simp only
  rw [hcontend, hclash, hblocked, hfront]
  simp [hst]

end

/-! ### A mutual wait (R76) -/

section
variable {d : Dev} {c y : Claim} {p : Nat} {k : BlockBasis} {w : Timer} {r : PeerRec}

/-- The HELD entry that a peer waits for (R54, R76). -/
theorem Dev.waitedEntry_of (hok : d.cle.ok) (hr : d.peer p = some r) (hw : r.waiting = some (y.sec, d.station)) (hm : y ∈ d.cle.table)
    (hheld : y.isHeld = true) : d.waitedEntry p = some y := by
  have hfind : d.cle.table.find? (fun e => e.sec == y.sec && e.isHeld) = some y := by
    cases hf : d.cle.table.find? (fun e => e.sec == y.sec && e.isHeld) with
    | none => exact absurd (List.find?_eq_none.mp hf y hm) (by simp [hheld])
    | some z =>
      have hz := List.find?_some hf
      simp only [Bool.and_eq_true, beq_iff_eq] at hz
      rw [Cle.sec_inj hok (List.mem_of_find?_eq_some hf) hm hz.1]
  rw [Dev.waitedEntry, hr, Option.bind_some, hw, Option.bind_some, if_pos rfl, hfind]

/-- A mutual wait that this station's ticket does not settle, once no other peer's DEADLOCK stands (R76). -/
theorem Dev.examineMutual_waits (hst : d.cle.frontState = some (.blocked p k w)) (hk : k ≠ .intent)
    (hother : ∀ q, d.cle.deadlock = some q → q = p) (hok : d.cle.ok) (hr : d.peer p = some r) (hs : r.ticket.station = p)
    (hwait : r.waiting = some (y.sec, d.station)) (hm : y ∈ d.cle.table) (hheld : y.isHeld = true)
    (hrank : d.currentTicket.outranks r.ticket = false) :
    d.examineMutual = if d.underOwn y.sec then ({ d with cle := { d.cle with deadlock := some p } } : Dev).raise .deadlock
      else if d.beyondStopping y then d.mutualYield y p else d := by
  have hkeep : (d.cle.deadlock.any (fun q => q != p)) = false := by
    cases hd : d.cle.deadlock with
    | none => rfl
    | some q => simp [hother q hd]
  have htheirs : ({ (((d.peer p).map (·.ticket)).getD ⟨false, 0, 0, p⟩) with station := p } : Ticket) = r.ticket := by
    rw [hr, ← hs]
    rfl
  unfold Dev.examineMutual
  rw [hst]
  simp only [hkeep, Bool.false_eq_true, if_false]
  rw [if_neg hk, Dev.waitedEntry_of hok hr hwait hm hheld]
  simp only [htheirs, hrank, Bool.false_eq_true, if_false]

/-- A DEADLOCK of another peer ends first (R77). -/
theorem Dev.examineMutual_other (hst : d.cle.frontState = some (.blocked p k w)) {q : Nat} (hq : d.cle.deadlock = some q) (hne : q ≠ p) :
    d.examineMutual = d.endDeadlock.examineMutual ∧ d.endDeadlock.cle = { d.cle with deadlock := none } := by
  have hended : d.endDeadlock = ({ d with cle := { d.cle with deadlock := none } } : Dev).causeEnded .deadlock := by
    rw [Dev.endDeadlock, hq]
    rfl
  have hcle : d.endDeadlock.cle = { d.cle with deadlock := none } := by rw [hended, Dev.causeEnded_cle]
  have hst' : d.endDeadlock.cle.frontState = some (.blocked p k w) := by rw [hcle]; exact hst
  refine ⟨?_, hcle⟩
  have hany : (d.cle.deadlock.any (fun q => q != p)) = true := by simp [hq, hne]
  have hnone : (d.endDeadlock.cle.deadlock.any (fun q => q != p)) = false := by rw [hcle]; rfl
  rw [Dev.examineMutual, Dev.examineMutual, hst, hst']
  simp only [hany, hnone, if_true, Bool.false_eq_true, if_false]

/-- DEADLOCK raised for the blocker of the front entry: the table stays (R76). -/
theorem Dev.examineMutual_deadlock (hst : d.cle.frontState = some (.blocked p k w)) (hk : k ≠ .intent) (hok : d.cle.ok)
    (hr : d.peer p = some r) (hs : r.ticket.station = p) (hwait : r.waiting = some (y.sec, d.station)) (hm : y ∈ d.cle.table)
    (hheld : y.isHeld = true) (hrank : d.currentTicket.outranks r.ticket = false) (hunder : d.underOwn y.sec = true) :
    d.examineMutual.faultActive .deadlock = true ∧ d.examineMutual.cle = { d.cle with deadlock := some p } := by
  have hraised : ∀ x : Dev, (x.raise .deadlock).faultActive .deadlock = true ∧ (x.raise .deadlock).cle = x.cle := fun x => by
    refine ⟨Dev.raise_active_self (by decide) _, ?_⟩
    rw [Dev.raise_of_warn rfl]
    exact (x.enterFault_claims _).1
  by_cases hother : ∃ q, d.cle.deadlock = some q ∧ q ≠ p
  · obtain ⟨q, hq, hne⟩ := hother
    obtain ⟨hexam, hcle⟩ := Dev.examineMutual_other hst hq hne
    obtain ⟨x, fs, cs, hsame⟩ := Dev.sameButDeadlock.endDeadlock d
    have hwaits := Dev.examineMutual_waits (d := d.endDeadlock) (r := r) (y := y) (by rw [hcle]; exact hst) hk
      (by rw [hcle]; exact fun _ h => absurd h (Option.some_ne_none _).symm) (by rw [hcle]; exact hok)
      ((Dev.peer_congr d.endDeadlock_peers p).trans hr) hs (by rw [hsame]; exact hwait) (by rw [hcle]; exact hm) hheld
      (by rw [hsame]; exact hrank)
    rw [if_pos (by rw [hsame]; exact hunder)] at hwaits
    rw [hexam, hwaits]
    obtain ⟨ha, hc⟩ := hraised { d.endDeadlock with cle := { d.endDeadlock.cle with deadlock := some p } }
    refine ⟨ha, hc.trans ?_⟩
    show { d.endDeadlock.cle with deadlock := some p } = _
    rw [hcle]
  · have hwaits := Dev.examineMutual_waits hst hk (fun q hq => by_contra fun hne => hother ⟨q, hq, hne⟩) hok hr hs hwait hm hheld hrank
    rw [hwaits, if_pos hunder]
    exact hraised _

end

section
variable {d u : Dev} {f : Frame} {r r' : PeerRec}

theorem Dev.Beaconed.station (h : d.Beaconed u f r') : u.station = d.station := by rw [Dev.station, h.tmp]; rfl

theorem Dev.Beaconed.underOwn (h : d.Beaconed u f r') (n : Nat) : u.underOwn n = d.underOwn n := by
  unfold Dev.underOwn Dev.footprint Dev.routeEntries
  rw [h.odo, h.tmp, h.order]

theorem Dev.Beaconed.currentTicket (h : d.Beaconed u f r') : u.currentTicket = d.currentTicket := by
  unfold Dev.currentTicket
  rw [h.cle, h.station]

theorem Dev.Beaconed.claimBackoff (h : d.Beaconed u f r') : u.claimBackoff = d.claimBackoff := by
  unfold Dev.claimBackoff Dev.timerMs
  rw [h.tmp, h.now, h.station]

/-- The footprint that a BEACON of a carriage shows. -/
theorem Dev.beaconed_footprint (h : d.Beaconed u f (d.beaconed r f)) (hk : r.kind = .carriage) :
    u.peerFootprint (d.beaconed r f) = if (readBeacon f.payload).sec = 0 then [] else
      peerSections d.tmp.sections (readBeacon f.payload).sec (readBeacon f.payload).offset (readBeacon f.payload).dir
        (readBeacon f.payload).length (readBeacon f.payload).unc := by
  have hkind : (d.beaconed r f).kind = .carriage := hk
  have hsec : (d.beaconed r f).sec = (readBeacon f.payload).sec := rfl
  unfold Dev.peerFootprint
  rw [hkind, hsec, h.tmp]
  by_cases h0 : (readBeacon f.payload).sec = 0
  · simp [h0]
  · simp only [h0, if_false]
    simp [h0]
    rfl

end

/-- Settles O25: the beacon event, by what the beacon shows of the table. -/
theorem beaconActsOnTheClaims : Obligations.BeaconActsOnTheClaims := by
  intro s f rest d b hpass hk hpeers hok hcount hany there backoff result clear theirs
  obtain ⟨r, hr, hfresh⟩ : ∃ r, d.peer f.src = some r ∧ r.freshness = .fresh := by simpa [Option.any_eq_true] using hany
  have hkind : r.kind = .carriage := by
    obtain ⟨-, -, -, -, hsender⟩ := hpass
    simpa [hr, hk, FrameKind.sender] using hsender
  obtain ⟨u, hu, hexec⟩ := exec_beacon hpass hk hpeers hcount hr hfresh
  have hstation : (d.beaconed r f).station = f.src := (Dev.peer_station hr : r.station = f.src)
  have hok' : u.cle.ok := by rw [hu.cle]; exact hok
  have hpeer : u.peer (d.beaconed r f).station = some (d.beaconed r f) := by rw [hstation]; exact hu.peer
  have hfoot := Dev.beaconed_footprint hu hkind
  have hclear {c : Claim} (hc : clear c) : ∀ e ∈ u.cle.table, e ≠ c → e.isHeld = true → e.sec ∉ (d.beaconed r f).held := by
    rw [hu.cle]
    exact hc
  refine ⟨fun c hm t g w hst hlone hwait hshown => ?loses, fun c hm h t hst hlone hshown hfront => ?clash,
    fun c hm h w hst hbasis hnone y hy hheld hsec h0 hwaits hunder hrank => ?deadlock⟩
  case loses =>
    intro basis
    have hm' : c ∈ u.gatheringNone.cle.table := by rw [show u.gatheringNone.cle.table = d.cle.table by rw [← hu.cle]; rfl]; exact hm
    have hlose : u.gatheringNone.contendBeacon (d.beaconed r f)
        = u.gatheringNone.loseContention c (d.beaconed r f).station basis := by
      rw [Dev.contendBeacon, Cle.find_contending (x := u.gatheringNone.cle) hok' hm' (by rw [Claim.isContending, hst])]
      have hheldIff : (d.beaconed r f).held.contains c.sec = true ↔ c.sec ∈ b.held := by simp [Dev.beaconed, Dev.beaconRecord, b]
      have hthere : (u.gatheringNone.peerFootprint (d.beaconed r f)).contains c.sec = true ↔ c.sec ∈ there := by
        rw [show u.gatheringNone.peerFootprint (d.beaconed r f) = there from hfoot]
        simp
      simp only
      by_cases hin : c.sec ∈ b.held
      · rw [if_pos (hheldIff.mpr hin), show basis = .held from if_pos hin]
      · rw [if_neg (mt hheldIff.mp hin), if_pos (hthere.mpr (hshown.resolve_left hin)), show basis = .occupied from if_neg hin]
    have hidle : u.idlePeer (d.beaconed r f).station := fun x hx => by
      rw [← Option.some.inj (hpeer.symm.trans hx)]
      exact if_pos hwait
    obtain ⟨hentry, hloss⟩ := Dev.beacon_loses hok' hm' hst (hclear hlone) hidle hlose
    rw [hstation, hu.claimBackoff] at hentry
    rw [hu.cle] at hloss
    exact ⟨_, hexec, hentry, hloss⟩
  case clash =>
    have hres := Dev.beacon_clash hok' (by rw [hu.cle]; exact hm) hst hshown (hclear hlone) (by rw [hu.cle]; exact hfront) hpeer rfl
    intro mine conflict stays
    have hconflict : u.clashConflict c.sec (d.beaconed r f) = conflict := by
      rw [Dev.clashConflict, hu.odo, hu.underOwn, hfoot]
    have hstays : u.clashStays c.sec (d.beaconed r f) (d.beaconed r f).station = stays := by
      rw [Dev.clashStays, hconflict, hu.underOwn, hfoot, hu.station, hstation]
    obtain ⟨hc, hs, hy⟩ := hres
    rw [hconflict] at hc hy
    rw [hstays] at hs hy
    refine ⟨fun h => ⟨_, hexec, hc h⟩, fun h => ?_, fun hn h => ?_⟩
    · obtain ⟨htable, -, -, -, -, hqueue⟩ := hs h
      refine ⟨_, hexec, by rw [htable, hu.cle], fun hroom hsig => hqueue ?_⟩
      obtain ⟨m, fs, cs, heq⟩ := hu.own hsig
      rw [heq]
      exact hroom
    · obtain ⟨hholds, hgone, -⟩ := hy hn h
      exact ⟨_, hexec, hholds, hgone⟩
  case deadlock =>
    have hm' : c ∈ u.cle.table := by rw [hu.cle]; exact hm
    have hst' : c.state = .blocked (d.beaconed r f).station h (some w) := by rw [hstation]; exact hst
    have hfront : u.gatheringNone.cle.frontState = some (.blocked f.src h (some w)) := by
      have : u.cle.front = some c := Cle.front_of_tried hok' hm' (by simp [Claim.tried, Claim.isBlocked, hst])
      rw [← hst]
      exact congrArg (Option.map Claim.state) this
    have hwait : (d.beaconed r f).waiting = some (y.sec, u.gatheringNone.station) := by
      rw [show u.gatheringNone.station = d.station from hu.station, hsec, ← hwaits]
      exact if_neg h0
    obtain ⟨hactive, hcle⟩ := Dev.examineMutual_deadlock (d := u.gatheringNone) hfront hbasis hok' hu.peer hstation hwait
      (by rw [show u.gatheringNone.cle.table = d.cle.table from (congrArg Cle.table hu.cle :)]; exact hy) hheld
      (by
        rw [show u.gatheringNone.currentTicket = d.currentTicket from hu.currentTicket,
          show (d.beaconed r f).ticket = theirs from congrArg (Ticket.ofByte b.ticketByte) hstation]
        exact hrank)
      ((hu.underOwn y.sec).trans hunder)
    have hevent : u.onBeacon (d.beaconed r f) = { u.gatheringNone.examineMutual with
        cle := { u.gatheringNone.examineMutual.cle with gathering := u.cle.gathering } } := by
      rw [Dev.beacon_examines hok' hm' hst' (by rw [hu.cle]; exact hnone)]
      exact Dev.event_eq rfl (by rw [hcle]; rfl)
    refine ⟨_, hexec, ?_⟩
    rw [hevent]
    refine ⟨hactive, ?_, ?_⟩
    · show u.gatheringNone.examineMutual.cle.deadlock = _
      rw [hcle]
    · show u.gatheringNone.examineMutual.cle.table = _
      rw [hcle]
      exact (congrArg Cle.table hu.cle :)

end Sys2Proof.Machine

/-! SUPPORT. What an event gives back: its one RELEASE (R81), and the front entry after a surrender (R75). -/

namespace Sys2Proof.Machine

section
variable {d : Dev} {secs : List Nat}

/-- A RELEASE changes the tag, the queue, the transmitter and the counters alone (R81). -/
theorem Dev.sendRelease_changes (d : Dev) (secs : List Nat) : ∃ (n : Nat) (q : List TxEntry) (t : TxState) (cs : List (BitVec 16)),
    d.sendRelease secs = { d with cle := { d.cle with nextTag := n }, lif := { d.lif with queue := q, tx := t }, counters := cs } := by
  unfold Dev.sendRelease
  split
  · exact ⟨_, _, _, _, rfl⟩
  · obtain ⟨q, t, cs, hline⟩ := Dev.enqueue_line { d with cle := { d.cle with nextTag := d.cle.nextTag + 1 } } .release 0
      (releasePayload secs) (some d.cle.nextTag)
    simp only [hline]
    exact ⟨_, _, _, _, rfl⟩

theorem Dev.sendRelease_queued (hroom : d.lif.hasRoom) (hne : secs ≠ []) :
    ∃ y ∈ (d.sendRelease secs).lif.queue, y.kind = .release ∧ y.dest = 0 ∧ y.payload = releasePayload secs := by
  refine ⟨⟨.release, 0, releasePayload secs, 0, some d.cle.nextTag, false⟩, ?_, rfl, rfl, rfl⟩
  rw [Dev.sendRelease, if_neg (by simpa using hne)]
  show _ ∈ (Dev.enqueue _ _ _ _ _).1.lif.queue
  rw [Dev.enqueue_of_room (d := { d with cle := { d.cle with nextTag := d.cle.nextTag + 1 } }) hroom rfl]
  exact Lif.mem_place ..

/-- An event that released some of the entries that the table held at its start announces them in table order (R81). -/
theorem Dev.event_releases {act : Dev → Dev} {e : Dev} {p : Claim → Bool} (hok : d.cle.ok) (h : act d.gatheringNone = e)
    (hgone : e.cle.gathering = some ((d.cle.table.filter p).map (·.sec))) : Dev.event act d
      = ({ e with cle := { e.cle with gathering := d.cle.gathering } } : Dev).sendRelease ((d.cle.table.filter p).map (·.sec)) := by
  have hgathered : e.cle.gathered = (d.cle.table.filter p).map (·.sec) := by rw [Cle.gathered, hgone]; rfl
  have hinner : (d.cle.table.map (·.sec)).filter (fun n => ((d.cle.table.filter p).map (·.sec)).contains n)
      = (d.cle.table.filter p).map (·.sec) := by
    rw [List.filter_map]
    refine congrArg (List.map _) (List.filter_congr fun x hx => ?_)
    rw [Bool.eq_iff_iff]
    simp only [Function.comp, List.contains_eq_mem, decide_eq_true_eq, List.mem_map, List.mem_filter]
    constructor
    · rintro ⟨z, ⟨hz, hp⟩, hs⟩
      rwa [← Cle.sec_inj hok hz hx hs]
    · exact fun hp => ⟨x, ⟨hx, hp⟩, rfl⟩
  have houter : ((d.cle.table.filter p).map (·.sec)).filter (fun n => !(d.cle.table.map (·.sec)).contains n) = [] := by
    rw [List.filter_eq_nil_iff]
    intro n hn
    obtain ⟨z, hz, rfl⟩ := List.mem_map.mp hn
    have : z.sec ∈ d.cle.table.map (·.sec) := List.mem_map_of_mem (List.mem_of_mem_filter hz)
    simpa using this
  have hlen : ((d.cle.table.filter p).map (·.sec)).length ≤ Config.maxClaims := by
    rw [List.length_map]
    exact (List.length_filter_le _ _).trans hok.1
  have hact : act { d with cle := { d.cle with gathering := some [] } } = e := h
  unfold Dev.event
  simp only [hact, hgathered, hinner, houter, List.append_nil, List.take_of_length_le hlen, List.drop_of_length_le hlen,
    Dev.sendRelease_nil]

/-! ### The front entry (R58) -/

variable {c x y : Claim} {k j : Nat} {cle : Cle}

/-- An entry that is not HELD is a route entry (R57). -/
theorem Cle.open_of_unheld (hok : cle.ok) (hx : x ∈ cle.table) (hopen : x.isHeld = false) : (x.idx.isSome && !x.isHeld) = true := by
  obtain ⟨-, -, -, -, hroute, -⟩ := hok
  rw [hroute x hx hopen, hopen]
  rfl

theorem Cle.front_idx_le (hok : cle.ok) (hc : cle.front = some c) (hx : x ∈ cle.table) (hopen : x.isHeld = false) :
    c.orderKey ≤ x.orderKey := by
  obtain ⟨-, a, b, htable, ha⟩ := Cle.front_eq_some.mp hc
  have hisOpen := Cle.open_of_unheld hok hx hopen
  obtain ⟨-, -, -, hsorted, -, -⟩ := hok
  rw [htable, List.map_append, List.map_cons, List.pairwise_append] at hsorted
  obtain ⟨-, hb, -⟩ := hsorted
  rw [htable, List.mem_append, List.mem_cons] at hx
  obtain hxa | rfl | hxb := hx
  · exact absurd (ha x hxa) (by rw [Claim.isOpen, hisOpen]; decide)
  · exact le_refl _
  · exact (List.pairwise_cons.mp hb).1 _ (List.mem_map_of_mem hxb)

/-- The entry that is open, every other open one coming later in the route, is the front entry. -/
theorem Cle.front_of_least (hok : cle.ok) (hy : y ∈ cle.table) (hopen : y.isHeld = false)
    (h : ∀ x ∈ cle.table, x.isHeld = false → x = y ∨ y.orderKey < x.orderKey) : cle.front = some y := by
  cases hf : cle.front with
  | none =>
    exact absurd (Cle.open_of_unheld hok hy hopen) (List.find?_eq_none.mp hf y hy)
  | some c =>
    obtain ⟨hc, -⟩ := Cle.front_eq_some.mp hf
    obtain rfl | hlt := h c (Cle.front_mem hf) (by
      rw [Claim.isOpen, Bool.and_eq_true, Bool.not_eq_true'] at hc
      exact hc.2)
    · rfl
    · exact absurd (Cle.front_idx_le hok hf hy hopen) (Nat.not_le.mpr hlt)

theorem Cle.held_of_no_front (hok : cle.ok) (h : cle.front = none) (hx : x ∈ cle.table) : x.isHeld = true := by
  by_contra hopen
  exact List.find?_eq_none.mp h x hx (Cle.open_of_unheld hok hx (eq_false_of_ne_true hopen))

theorem Cle.entry_map {a b : Cle} {g : Claim → Claim} (hg : ∀ e, (g e).sec = e.sec) (h : b.table = a.table.map g) (n : Nat) :
    b.entry n = (a.entry n).map g := by
  rw [Cle.entry, h, List.find?_map]
  refine congrArg (Option.map g) ?_
  congr 1
  funext e
  simp [Function.comp, hg]

/-! ### A surrender during an event (R75, R77) -/

/-- An entry given back. -/
def Claim.given (c : Claim) : Claim :=
  { c with state := .wanted false, points := .unrequested, pointsTimer := none, rerequestTimer := none }

theorem Dev.foldl_abandon_calm (l : List Claim) (d : Dev) (h : ∀ e ∈ l, e.isContending = false) : l.foldl Dev.abandon d = d := by
  induction l with
  | nil => rfl
  | cons e l ih =>
    have he := h e List.mem_cons_self
    have hone : d.abandon e = d := by
      unfold Dev.abandon
      split
      · next hst => rw [Claim.isContending, hst] at he; exact absurd he.symm Bool.false_ne_true
      all_goals rfl
    rw [List.foldl_cons, hone, ih fun x hx => h x (List.mem_cons_of_mem e hx)]

theorem Dev.tidyDeadlock_none (h : d.cle.deadlock = none) : d.tidyDeadlock = d := by
  rw [Dev.tidyDeadlock, h]
  rfl

theorem Dev.endDeadlock_none (h : d.cle.deadlock = none) : d.endDeadlock = d := by
  rw [Dev.endDeadlock, h]
  rfl

/-- A surrender with nothing contending and no DEADLOCK, its sections gathered. -/
theorem Dev.surrenderFrom_eq (hg : d.cle.gathering = some secs) (hd : d.cle.deadlock = none)
    (hn : d.cle.table.find? Claim.isContending = none) (k : Nat) : d.surrenderFrom k = { d with cle := { d.cle with
      table := d.cle.table.map (fun e => if d.yields k e then e.given else e)
      gathering := some (secs ++ (d.cle.table.filter (fun e => e.isHeld && d.yields k e)).map (·.sec)) } } := by
  have habandon : (d.cle.table.filter (d.yields k)).foldl Dev.abandon d = d := Dev.foldl_abandon_calm _ _ fun e he => by
    simpa using List.find?_eq_none.mp hn e (List.mem_of_mem_filter he)
  unfold Dev.surrenderFrom
  simp only [habandon]
  rw [Dev.announceRelease]
  simp only [hg]
  exact Dev.tidyDeadlock_none hd

theorem Dev.surrendered_ok (hok : d.cle.ok) (k : Nat) :
    ({ d.cle with table := d.cle.table.map (fun e => if d.yields k e then e.given else e) } : Cle).ok :=
  Cle.ok_surrender k (d.yields k) Claim.given (fun _ => rfl) (fun _ => rfl) (fun _ => ⟨rfl, rfl⟩)
    (fun e h => by
      rw [Dev.yields, Bool.and_eq_true] at h
      exact h.1)
    (fun e hheld hidx => by rw [Dev.yields, hidx, hheld]; rfl) hok

/-- The entry from which a surrender begins is the front entry after it. -/
theorem Dev.surrendered_front (hok : d.cle.ok) (hy : y ∈ d.cle.table) (hidx : y.idx = some k)
    (hmine : d.underOwn y.sec = false) (hone : ∀ x ∈ d.cle.table, x.idx = some k → x = y)
    (hafter : ∀ x ∈ d.cle.table, x.isHeld = false → k < x.orderKey) :
    ({ d.cle with table := d.cle.table.map (fun e => if d.yields k e then e.given else e) } : Cle).front = some y.given := by
  have hyields : d.yields k y = true := by rw [Dev.yields, Claim.fromIdx, hidx, hmine]; simp
  have hkey : y.given.orderKey = k := by rw [Claim.orderKey, show y.given.idx = y.idx from rfl, hidx]; rfl
  refine Cle.front_of_least (d.surrendered_ok hok k) (List.mem_map.mpr ⟨y, hy, if_pos hyields⟩) rfl fun x hx hopen => ?_
  obtain ⟨z, hz, rfl⟩ := List.mem_map.mp hx
  by_cases hyz : d.yields k z = true
  · rw [if_pos hyz]
    obtain ⟨hfrom, -⟩ : z.fromIdx k = true ∧ _ := by rwa [Dev.yields, Bool.and_eq_true] at hyz
    obtain ⟨j, hj, hle⟩ : ∃ j, z.idx = some j ∧ k ≤ j := by simpa [Claim.fromIdx, Option.any_eq_true] using hfrom
    obtain rfl | hlt := Nat.eq_or_lt_of_le hle
    · exact .inl (by rw [hone z hz hj])
    · refine .inr ?_
      rw [hkey, Claim.orderKey, show z.given.idx = z.idx from rfl, hj]
      exact hlt
  · rw [if_neg hyz] at hopen ⊢
    exact .inr (hkey ▸ hafter z hz hopen)

/-- The claims after a surrender in an event whose first entry is BLOCKED then. -/
def Dev.yielded (d : Dev) (k : Nat) (y : Claim) (st : ClaimState) : Cle :=
  ({ d.cle with
      table := d.cle.table.map (fun e => if d.yields k e then e.given else e)
      gathering := some ((d.cle.table.filter (fun e => e.isHeld && d.yields k e)).map (·.sec)) } : Cle).update y.sec
    (fun e => { e with state := st })

variable {p : Nat} {b : BlockBasis} {w : Timer}

theorem Dev.yielded_entry (hok : d.cle.ok) (hx : x ∈ d.cle.table) (k : Nat) (y : Claim) (st : ClaimState) :
    (d.yielded k y st).entry x.sec = some (if x.sec = y.sec then { (if d.yields k x then x.given else x) with state := st }
      else if d.yields k x then x.given else x) := by
  have hgiven : ({ d.cle with
      table := d.cle.table.map (fun e => if d.yields k e then e.given else e)
      gathering := some ((d.cle.table.filter (fun e => e.isHeld && d.yields k e)).map (·.sec)) } : Cle).entry x.sec
        = some (if d.yields k x then x.given else x) := by
    rw [Cle.entry_map (a := d.cle) (g := fun e => if d.yields k e then e.given else e) (fun e => by split <;> rfl) rfl,
      Cle.entry_of_mem hok hx]
    rfl
  rw [Dev.yielded, Cle.entry_map (g := fun e => if e.sec = y.sec then { e with state := st } else e) (fun e => by split <;> rfl) rfl,
    hgiven, Option.map_some]
  have hsec : (if d.yields k x then x.given else x).sec = x.sec := by split <;> rfl
  simp only [hsec]

/-- Every entry given back is HELD no more, its points UNREQUESTED. -/
theorem Dev.yielded_gives (hok : d.cle.ok) (hx : x ∈ d.cle.table) (hyields : d.yields k x = true) {st : ClaimState}
    (hst : ∀ h t, st ≠ .held h t) (y : Claim) :
    ∃ z, (d.yielded k y st).entry x.sec = some z ∧ z.isHeld = false ∧ z.points = .unrequested := by
  refine ⟨_, Dev.yielded_entry hok hx k y st, ?_⟩
  rw [if_pos hyields]
  split
  · refine ⟨?_, rfl⟩
    unfold Claim.isHeld
    cases st with
    | held h t => exact absurd rfl (hst h t)
    | wanted m => rfl
    | contending t g n => rfl
    | blocked q c n => rfl
  · exact ⟨rfl, rfl⟩

theorem Dev.yielded_front (hok : d.cle.ok) (hy : y ∈ d.cle.table) (hidx : y.idx = some k)
    (hmine : d.underOwn y.sec = false) (hone : ∀ x ∈ d.cle.table, x.idx = some k → x = y)
    (hafter : ∀ x ∈ d.cle.table, x.isHeld = false → k < x.orderKey) (p : Nat) (b : BlockBasis) (w : Timer) :
    (d.yielded k y (.blocked p b w)).front = some { y.given with state := .blocked p b w } := by
  have hfront := Dev.surrendered_front hok hy hidx hmine hone hafter
  have hok' : (d.yielded k y (.blocked p b w)).ok :=
    Cle.ok_front (x := y.given) (c := { d.cle with
      table := d.cle.table.map (fun e => if d.yields k e then e.given else e)
      gathering := some ((d.cle.table.filter (fun e => e.isHeld && d.yields k e)).map (·.sec)) }) hfront (fun _ => rfl) (fun _ => rfl) rfl
      (Cle.ok_same rfl (.inl (Nat.le_refl _)) (d.surrendered_ok hok k))
  have hyields : d.yields k y = true := by rw [Dev.yields, Claim.fromIdx, hidx, hmine]; simp
  have hentry := Dev.yielded_entry hok hy k y (.blocked p b w)
  rw [if_pos rfl, if_pos hyields] at hentry
  exact Cle.front_of_tried hok' (Cle.entry_mem hentry).1 rfl

/-- The examination for a mutual wait changes nothing with no DEADLOCK and a blocker that waits for nothing (R76). -/
theorem Dev.examineMutual_calm (hd : d.cle.deadlock = none) (hst : d.cle.frontState = some (.blocked p b w)) (hp : d.idlePeer p) :
    d.examineMutual = d := by
  have hnone : (if b = .intent then none else d.waitedEntry p) = none := by
    rw [Dev.waitedEntry_of_idle hp, ite_self]
  unfold Dev.examineMutual
  rw [hst]
  simp only [hd, Option.any_none, Bool.false_eq_true, if_false]
  rw [hnone]
  rfl

/-- A clash yielded on a route entry during an event: the entry is BLOCKED by the first peer in view of its section (R66, R75). -/
theorem Dev.clashYield_route (hok : d.cle.ok) (hg : d.cle.gathering = some []) (hd : d.cle.deadlock = none) (hnone : d.cle.front = none)
    (hstop : d.claimingStopped = false) (hq : d.lif.quiet = false) (hy : y ∈ d.cle.table) (hidx : y.idx = some k)
    (hmine : d.underOwn y.sec = false) (hone : ∀ x ∈ d.cle.table, x.idx = some k → x = y)
    (hb : d.blocked y.sec = some (p, b)) (hp : d.idlePeer p) (hfar : d.withinStopping y = false) :
    d.clashYield y = { d.bump .clashYields with cle := d.yielded k y (.blocked p b none) } := by
  have hafter : ∀ x ∈ d.cle.table, x.isHeld = false → k < x.orderKey := fun x hx hopen => by
    rw [Cle.held_of_no_front hok hnone hx] at hopen
    exact absurd hopen.symm Bool.false_ne_true
  have hcont : d.cle.table.find? Claim.isContending = none :=
    Cle.find_contending_none hok fun e he => absurd (hnone.symm.trans he) (Option.some_ne_none e).symm
  have hsurrender := Dev.surrenderFrom_eq (d := d.bump .clashYields) hg hd hcont k
  have hfront := Dev.surrendered_front hok hy hidx hmine hone hafter
  have hexam : ((d.bump .clashYields).surrenderFrom k).examineFront = { d.bump .clashYields with cle := d.yielded k y (.blocked p b none) } := by
    rw [hsurrender]
    generalize hv : ({ d.bump .clashYields with cle := _ } : Dev) = v
    have hvfront : v.cle.front = some y.given := by rw [← hv]; exact hfront
    have hvb : v.blocked y.given.sec = some (p, b) := by rw [← hv]; exact hb
    have hvstop : v.claimingStopped = false := by rw [← hv]; exact hstop
    have hvq : v.lif.quiet = false := by rw [← hv]; exact hq
    have hupdated : v.updateClaim y.given.sec (fun e => { e with state := .blocked p b none })
        = { d.bump .clashYields with cle := d.yielded k y (.blocked p b none) } := by rw [← hv]; rfl
    rw [Dev.examineFront, hvfront]
    simp only [hvstop, hvq, hvb, Bool.false_eq_true, if_false]
    rw [hupdated]
    exact Dev.examineMutual_calm hd
      (congrArg (Option.map Claim.state) (Dev.yielded_front hok hy hidx hmine hone hafter p b none)) hp
  have hfar' : d.withinStopping y = false := hfar
  rw [Dev.clashYield]
  simp only [hidx, hfar', hexam]
  exact if_neg Bool.false_ne_true

/-- A mutual-wait yield of a route entry during an event (R77). -/
theorem Dev.mutualYield_route (hok : d.cle.ok) (hg : d.cle.gathering = some []) (hd : d.cle.deadlock = none)
    (hcont : d.cle.table.find? Claim.isContending = none) (hy : y ∈ d.cle.table) (hidx : y.idx = some k)
    (hmine : d.underOwn y.sec = false) (hone : ∀ x ∈ d.cle.table, x.idx = some k → x = y)
    (hafter : ∀ x ∈ d.cle.table, x.isHeld = false → k < x.orderKey) (p : Nat) : d.mutualYield y p = { d.bump .mutualYields with
      cle := { d.yielded k y (.blocked p .intent d.claimBackoff) with lossCount := min 15 (d.cle.lossCount + 1) } } := by
  have hfront := Dev.surrendered_front hok hy hidx hmine hone hafter
  rw [Dev.mutualYield]
  simp only [hidx]
  rw [Dev.surrenderFrom_eq hg hd hcont k]
  generalize hv : Dev.bump (Dev.raiseLoss _) _ = v
  rw [Dev.endDeadlock_none (by rw [← hv]; exact hd)]
  have hvfront : (v.cle.front.map (·.sec) == some y.sec) = true := by
    rw [← hv]
    exact beq_iff_eq.mpr (congrArg (Option.map Claim.sec) hfront)
  rw [if_pos hvfront, ← hv]
  rfl

/-- A mutual-wait yield of an entry with no route index (R77). -/
theorem Dev.mutualYield_footprint (hok : d.cle.ok) (hg : d.cle.gathering = some []) (hd : d.cle.deadlock = none) (hy : y ∈ d.cle.table)
    (hheld : y.isHeld = true) (hidx : y.idx = none) (p : Nat) : d.mutualYield y p = { d.bump .mutualYields with cle := { d.cle with
      table := d.cle.table.filter (fun e => e.sec != y.sec)
      gathering := some ((d.cle.table.filter (fun e => e.sec == y.sec)).map (·.sec))
      lossCount := min 15 (d.cle.lossCount + 1) } } := by
  have hsame : ∀ e ∈ d.cle.table, (e.isHeld && e.sec == y.sec) = (e.sec == y.sec) := fun e he => by
    by_cases hs : e.sec = y.sec
    · rw [Cle.sec_inj hok he hy hs, hheld, Bool.true_and]
    · rw [beq_false_of_ne hs, Bool.and_false]
  have hgone : d.cle.table.filter (fun e => e.isHeld && e.sec == y.sec) = d.cle.table.filter (fun e => e.sec == y.sec) :=
    List.filter_congr hsame
  have hkept : d.cle.table.filter (fun e => !(e.isHeld && e.sec == y.sec)) = d.cle.table.filter (fun e => e.sec != y.sec) :=
    List.filter_congr fun e he => by rw [hsame e he]; rfl
  rw [Dev.mutualYield]
  simp only [hidx]
  rw [Dev.releaseClaims, hgone, hkept, Dev.announceRelease]
  simp only [hg]
  have hcalm : ∀ x : Dev, x.cle.deadlock = none → x.tidyDeadlock.raiseLoss.bump .mutualYields = x.raiseLoss.bump .mutualYields :=
    fun x hx => by rw [Dev.tidyDeadlock_none hx]
  exact hcalm _ hd

end

/-! ### What a part shows after an event that released (R81) -/

section
variable {d e : Dev} {act : Dev → Dev} {p : Claim → Bool}

/-- One RELEASE names the entries that an event gave back, when the queue has room; the claims are as the event left them. -/
theorem Dev.event_released (hok : d.cle.ok) (h : act d.gatheringNone = e) (hlif : e.lif = d.lif)
    (hgone : e.cle.gathering = some ((d.cle.table.filter p).map (·.sec))) (hne : d.cle.table.filter p ≠ []) :
    (d.lif.hasRoom → ∃ x ∈ (Dev.event act d).lif.queue, x.kind = .release ∧ x.dest = 0
        ∧ x.payload = BitVec.ofNat 8 (d.cle.table.filter p).length :: (d.cle.table.filter p).map (fun z => BitVec.ofNat 8 z.sec))
      ∧ (Dev.event act d).cle.lossCount = e.cle.lossCount ∧ (Dev.event act d).cle.table = e.cle.table := by
  rw [Dev.event_releases hok h hgone]
  refine ⟨fun hroom => ?_, ?_, ?_⟩
  · obtain ⟨x, hx, hk, hd, hp⟩ := Dev.sendRelease_queued (d := { e with cle := { e.cle with gathering := d.cle.gathering } })
      (secs := (d.cle.table.filter p).map (·.sec)) (by rw [hlif]; exact hroom) (by simpa using hne)
    refine ⟨x, hx, hk, hd, ?_⟩
    rw [hp, releasePayload, List.length_map, List.map_map]
    rfl
  · obtain ⟨n, q, t, cs, heq⟩ := Dev.sendRelease_changes { e with cle := { e.cle with gathering := d.cle.gathering } }
      ((d.cle.table.filter p).map (·.sec))
    rw [heq]
  · exact Dev.sendRelease_table ..

end

theorem findSome?_of_agree {α β : Type} {g : α → Option β} {v : β} {l : List α} (hex : ∃ x ∈ l, g x = some v)
    (h : ∀ x ∈ l, g x = none ∨ g x = some v) : l.findSome? g = some v := by
  induction l with
  | nil => obtain ⟨x, hx, -⟩ := hex; exact absurd hx List.not_mem_nil
  | cons a l ih =>
    rw [List.findSome?_cons]
    obtain ha | ha := h a List.mem_cons_self
    · rw [ha]
      refine ih ?_ fun x hx => h x (List.mem_cons_of_mem a hx)
      obtain ⟨x, hx, hv⟩ := hex
      obtain rfl | hx := List.mem_cons.mp hx
      · exact absurd (ha.symm.trans hv) (Option.some_ne_none v).symm
      · exact ⟨x, hx, hv⟩
    · rw [ha]

/-- Settles O26: the two yields as events that gather what they give back. -/
theorem beaconMakesThisStationYield : Obligations.BeaconMakesThisStationYield := by
  intro s f rest c y h t d b hpass hk hpeers hok hcount hsig hany hstop hq hpos hy hst hmine hdead hone there backoff result goes released back
  obtain ⟨r, hr, hfresh⟩ : ∃ r, d.peer f.src = some r ∧ r.freshness = .fresh := by simpa [Option.any_eq_true] using hany
  have hkind : r.kind = .carriage := by
    obtain ⟨-, -, -, -, hsender⟩ := hpass
    simpa [hr, hk, FrameKind.sender] using hsender
  obtain ⟨u, hu, hexec⟩ := exec_beacon hpass hk hpeers hcount hr hfresh
  have hstation : (d.beaconed r f).station = f.src := (Dev.peer_station hr : r.station = f.src)
  have hfoot : u.peerFootprint (d.beaconed r f) = there := Dev.beaconed_footprint hu hkind
  have hunder := hu.underOwn
  have hheld : y.isHeld = true := by rw [Claim.isHeld, hst]
  obtain ⟨m, fs, cs, hown⟩ := hu.own hsig
  have hstop' : u.claimingStopped = false := by rw [hown]; exact hstop
  have hq' : u.lif.quiet = false := by rw [hown]; exact hq
  have hroom : d.lif.hasRoom → u.lif.hasRoom := fun h => by rw [hown]; exact h
  have hbackoff : u.claimBackoff = backoff := hu.claimBackoff
  have hclaims : u.cle.ok := by rw [hu.cle]; exact hok
  have hdead' : u.cle.deadlock = none := by rw [hu.cle]; exact hdead
  have hy' : y ∈ u.cle.table := by rw [hu.cle]; exact hy
  have hmine' : u.underOwn y.sec = false := (hunder y.sec).trans hmine
  have hyields : u.yields = d.yields := by
    funext k x
    rw [Dev.yields, Dev.yields, hunder]
  have hgoes (k : Nat) : (fun x : Claim => x.isHeld && u.yields k x) = goes k := by
    funext x
    rw [hyields]
    simp only [goes, Dev.yields, Claim.fromIdx]
    cases x.isHeld <;> simp
  have hgoesY {k : Nat} (hidx : y.idx = some k) : goes k y = true := by simp [goes, hheld, hidx, hmine]
  have hyieldsOf {k : Nat} {x : Claim} (hx : goes k x = true) : u.yields k x = true := by
    rw [← hgoes, Bool.and_eq_true] at hx
    exact hx.2
  have hreleased {k : Nat} (hidx : y.idx = some k) {v : Dev} (hlif : v.lif = u.lif) {st : ClaimState} {n : Nat}
      (hcle : v.cle = { u.gatheringNone.yielded k y st with lossCount := n }) (hevent : u.onBeacon (d.beaconed r f) = Dev.event (fun _ => v) u) :
      released (d.cle.table.filter (goes k)) (u.onBeacon (d.beaconed r f)) ∧ (u.onBeacon (d.beaconed r f)).cle.lossCount = n
        ∧ ∀ m, (u.onBeacon (d.beaconed r f)).cle.entry m = (u.gatheringNone.yielded k y st).entry m := by
    have hgathered : v.cle.gathering = some ((u.cle.table.filter (goes k)).map (·.sec)) := by
      rw [hcle, ← hgoes k]
      rfl
    have hne : u.cle.table.filter (goes k) ≠ [] := List.ne_nil_of_mem (List.mem_filter.mpr ⟨hy', hgoesY hidx⟩)
    obtain ⟨hqueue, hloss, htable⟩ := Dev.event_released (act := fun _ => v) hclaims rfl hlif hgathered hne
    rw [hevent]
    refine ⟨fun hr => ?_, hloss.trans (by rw [hcle]), fun m => Cle.entry_congr (htable.trans (by rw [hcle])) m⟩
    have htab : u.cle.table = d.cle.table := by rw [hu.cle]
    rw [← htab]
    exact hqueue (hroom hr)
  have hgives {k : Nat} {st : ClaimState} (hst : ∀ h t, st ≠ .held h t) {e : Dev}
      (hentry : ∀ m, e.cle.entry m = (u.gatheringNone.yielded k y st).entry m) : ∀ x ∈ d.cle.table, goes k x = true →
        ∃ z, e.cle.entry x.sec = some z ∧ z.isHeld = false ∧ z.points = .unrequested := fun x hx hgoesX => by
    rw [hentry]
    exact Dev.yielded_gives (d := u.gatheringNone) hclaims (by rw [← hu.cle] at hx; exact hx) (hyieldsOf hgoesX) hst y
  have hback {k : Nat} (hidx : y.idx = some k) {st : ClaimState} {e : Dev}
      (hentry : ∀ m, e.cle.entry m = (u.gatheringNone.yielded k y st).entry m) : e.cle.entry y.sec = some (back st) := by
    rw [hentry, Dev.yielded_entry (d := u.gatheringNone) hclaims hy' k y st, if_pos rfl]
    rw [if_pos (show u.gatheringNone.yields k y = true from hyieldsOf (hgoesY hidx))]
    rfl
  refine ⟨fun k hidx hlone hshown hwait hgive hfront hview => ?clash,
    fun basis w hc hcst hbasis hnone hsec h0 hwaits hbeyond hrank => ?wait⟩
  case clash =>
    have hone' : ∀ x ∈ u.cle.table, x.idx = some k → x = y := by rw [hu.cle]; exact hone k hidx
    have hfront' : u.cle.front = none := by rw [hu.cle]; exact hfront
    have hlone' : ∀ x ∈ u.cle.table, x ≠ y → x.isHeld = true → x.sec ∉ (d.beaconed r f).held := by
      rw [hu.cle]
      exact fun x hx hne hheld hin => hne (hlone x hx hheld hin)
    have hpeer : u.peer (d.beaconed r f).station = some (d.beaconed r f) := by rw [hstation]; exact hu.peer
    have hno : ¬u.clashConflict y.sec (d.beaconed r f) := by
      rw [Dev.clashConflict, hu.odo, hmine']
      rintro (h | ⟨h, -⟩)
      · exact hpos h
      · exact Bool.false_ne_true h
    have hyield : ¬u.clashStays y.sec (d.beaconed r f) (d.beaconed r f).station := by
      rw [Dev.clashStays, hmine', hfoot, hu.station, hstation]
      rintro ⟨-, h | ⟨hout, hlt⟩⟩
      · exact Bool.false_ne_true h
      · exact hgive.elim hout (Nat.lt_asymm hlt)
    constructor
    · intro hnear
      obtain ⟨-, -, hres⟩ := Dev.beacon_clash hclaims hy' hst hshown hlone' hfront' hpeer rfl
      obtain ⟨-, -, hactive⟩ := hres hno hyield
      exact ⟨_, hexec, hactive (by rw [hown]; exact hnear)⟩
    · intro hfar
      have hblocked : u.blocked y.sec = some (f.src, .held) := by
        have hbasis : u.blockBasis (d.beaconed r f) y.sec = some .held := by
          rw [Dev.blockBasis, show (d.beaconed r f).kind = .carriage from hkind,
            show (d.beaconed r f).held.contains y.sec = true from List.contains_iff_mem.mpr hshown]
          rfl
        have hmap : (u.blockBasis (d.beaconed r f) y.sec).map (fun z => ((d.beaconed r f).station, z)) = some (f.src, .held) := by
          rw [hbasis, hstation]
          rfl
        have hpeers' : u.peers = d.peers.map (fun x => if x.station = f.src then d.beaconed r f else x) := by rw [hown]
        refine findSome?_of_agree ⟨_, Dev.peer_mem hu.peer, hmap⟩ fun x hx => ?_
        rw [hpeers'] at hx
        obtain ⟨z, hz, rfl⟩ := List.mem_map.mp hx
        split
        · exact .inr hmap
        · next hne =>
          obtain ⟨-, hother⟩ := hview z hz
          refine .inl ?_
          rw [show u.blockBasis z y.sec = d.blockBasis z y.sec by rw [hown]; rfl, hother hne]
          rfl
      have hidle : u.idlePeer f.src := fun x hx => by
        rw [← Option.some.inj (hu.peer.symm.trans hx)]
        exact if_pos hwait
      obtain ⟨hclash, -⟩ := Dev.clash_yields (d := u.gatheringNone) (c := y) hpeer rfl hst hno hyield
      have hroute := Dev.clashYield_route (d := u.gatheringNone.bump .clashesFound) hclaims rfl hdead' hfront' hstop' hq' hy' hidx hmine' hone'
        hblocked hidle (by rw [hown]; exact hfar)
      generalize hv : ({ (u.gatheringNone.bump .clashesFound).bump .clashYields with cle := _ } : Dev) = v at hroute
      have hvcle : v.cle = u.gatheringNone.yielded k y (.blocked f.src .held none) := by rw [← hv]; rfl
      have hvfront : v.cle.front = some { y.given with state := .blocked f.src .held none } := by
        rw [hvcle]
        exact Dev.yielded_front (d := u.gatheringNone) hclaims hy' hidx hmine' hone' (fun x hx hopen => by
          rw [Cle.held_of_no_front hclaims hfront' hx] at hopen
          exact absurd hopen.symm Bool.false_ne_true) _ _ _
      have hexam : v.examineBlocked = v := by
        rw [Dev.examineBlocked_front hvfront rfl, Dev.examineFront_blocked hvfront rfl (by rw [← hv]; exact hstop')
          (by rw [← hv]; exact hq') (by rw [← hv]; exact hblocked), if_pos rfl]
      have hevent : u.onBeacon (d.beaconed r f) = Dev.event (fun _ => v) u := by
        rw [Dev.onBeacon_clash hclaims hy' hheld hshown hlone' hfront', hclash, hroute, hexam]
      obtain ⟨hrel, hloss, hentry⟩ := hreleased hidx (n := u.cle.lossCount) (by rw [← hv]; rfl) hvcle hevent
      exact ⟨_, hexec, hrel, by rw [hloss, hu.cle], hback hidx hentry, hgives (fun _ _ => ClaimState.noConfusion) hentry⟩
  case wait =>
    have hc' : c ∈ u.cle.table := by rw [hu.cle]; exact hc
    have hcst' : c.state = .blocked (d.beaconed r f).station basis (some w) := by rw [hstation]; exact hcst
    have hcfront : u.cle.front = some c := Cle.front_of_tried hclaims hc' (by simp [Claim.tried, Claim.isBlocked, hcst])
    have hcont : u.cle.table.find? Claim.isContending = none := Cle.find_contending_none hclaims fun e he => by
      rw [← Option.some.inj (hcfront.symm.trans he), Claim.isContending, hcst]
    have hexam : u.gatheringNone.examineMutual = u.gatheringNone.mutualYield y f.src := by
      rw [Dev.examineMutual_waits (d := u.gatheringNone) (r := d.beaconed r f) (y := y) (k := basis) (w := some w)
        (by rw [← hcst]; exact congrArg (Option.map Claim.state) hcfront) hbasis
        (fun q hq => absurd (hdead'.symm.trans hq) (Option.some_ne_none q).symm) hclaims hu.peer hstation
        (by
          rw [show u.gatheringNone.station = d.station from hu.station, hsec, ← hwaits]
          exact if_neg h0)
        hy' hheld
        (by
          rw [show u.gatheringNone.currentTicket = d.currentTicket from hu.currentTicket,
            show (d.beaconed r f).ticket = Ticket.ofByte b.ticketByte f.src from congrArg (Ticket.ofByte b.ticketByte) hstation]
          exact hrank)]
      rw [if_neg (show ¬u.gatheringNone.underOwn y.sec = true from fun h => Bool.false_ne_true (hmine'.symm.trans h)),
        if_pos (show u.gatheringNone.beyondStopping y = true by rw [hown]; exact hbeyond)]
    have hexamines : u.onBeacon (d.beaconed r f) = Dev.event (fun _ => u.gatheringNone.mutualYield y f.src) u := by
      rw [Dev.beacon_examines hclaims hc' hcst' (by rw [hu.cle]; exact hnone), hexam]
    generalize hv : u.gatheringNone.mutualYield y f.src = v at hexamines
    constructor
    · intro k hidx hbefore
      have hone' : ∀ x ∈ u.cle.table, x.idx = some k → x = y := by rw [hu.cle]; exact hone k hidx
      have hafter : ∀ x ∈ u.cle.table, x.isHeld = false → k < x.orderKey := fun x hx hopen => by
        obtain ⟨j, hj⟩ : ∃ j, c.idx = some j := by
          obtain ⟨-, -, -, -, hroute, -⟩ := id hclaims
          exact Option.isSome_iff_exists.mp (hroute c hc' (by rw [Claim.isHeld, hcst]))
        have hle := Cle.front_idx_le hclaims hcfront hx hopen
        rw [Claim.orderKey, hj] at hle
        exact Nat.lt_of_lt_of_le (hbefore j hj) hle
      have hroute := Dev.mutualYield_route (d := u.gatheringNone) hclaims rfl hdead' hcont hy' hidx hmine' hone' hafter f.src
      rw [show u.gatheringNone.claimBackoff = backoff from hbackoff] at hroute
      rw [hv] at hroute
      obtain ⟨hrel, hloss, hentry⟩ := hreleased hidx (st := .blocked f.src .intent backoff) (n := min 15 (u.cle.lossCount + 1))
        (by rw [hroute]; rfl) (by rw [hroute]; rfl) hexamines
      refine ⟨_, hexec, hrel, by rw [hloss]; exact congrArg (fun z : Cle => min 15 (z.lossCount + 1)) hu.cle, hback hidx hentry,
        fun x hx hgx _ => hgives (fun _ _ => ClaimState.noConfusion) hentry x hx hgx⟩
    · intro hidx
      have hyield := Dev.mutualYield_footprint (d := u.gatheringNone) hclaims rfl hdead' hy' hheld hidx f.src
      rw [hv] at hyield
      have honly : u.cle.table.filter (fun e => e.sec == y.sec) = [y] := by
        have hdec : ∀ e ∈ u.cle.table, (e.sec == y.sec) = decide (e = y) := fun e he => by
          rw [Bool.eq_iff_iff, beq_iff_eq, decide_eq_true_eq]
          exact ⟨Cle.sec_inj hclaims he hy', fun h => by rw [h]⟩
        rw [List.filter_congr hdec, List.filter_eq, List.count_eq_one_of_mem (hclaims.2.1.of_map _) hy']
        rfl
      obtain ⟨hqueue, hloss, htable⟩ := Dev.event_released (d := u) (e := v) (act := fun _ => v) (p := fun e => e.sec == y.sec)
        hclaims rfl (by rw [hyield]; rfl) (by rw [hyield]; rfl) (by rw [honly]; exact List.cons_ne_nil y [])
      rw [honly] at hqueue
      rw [← hexamines] at hqueue hloss htable
      exact ⟨_, hexec, fun h => hqueue (hroom h), hloss.trans (by rw [hyield]; exact (congrArg (fun z : Cle => min 15 (z.lossCount + 1)) hu.cle :)),
        htable.trans (by rw [hyield]; exact (congrArg (fun z : Cle => z.table.filter (fun e => e.sec != y.sec)) hu.cle :))⟩

end Sys2Proof.Machine

/-! SUPPORT. CLEAR-FAULTS: what the fault set keeps, and the latches it releases (R122, R123, R182, R183). -/

namespace Sys2Proof.Machine

/-- What a CLEAR-FAULTS of a moving carriage keeps (R182). -/
theorem FaultKind.kept_moving (k : FaultKind) (low : Bool) :
    (!k.clearable false low) = (k.freeRunning || k.cls == .safeStop || k == .configClamped || k == .supplyLow) := by
  cases k <;> rfl

/-- What a CLEAR-FAULTS at standstill keeps (R182). -/
theorem FaultKind.kept_standing (k : FaultKind) (low : Bool) :
    (!k.clearable true low) = (k.freeRunning || k == .configClamped || (k == .supplyLow && low)) := by
  cases k <;> cases low <;> rfl

/-- No kind of class SAFE-STOP stays at standstill. -/
theorem FaultKind.kept_not_safeStop (k : FaultKind) (low : Bool) (h : (!k.clearable true low) = true) : k.cls ≠ .safeStop := by
  revert h
  cases k <;> cases low <;> decide

section
variable {d : Dev}

theorem Dev.bump_if (d : Dev) (p : Prop) [Decidable p] (c : Counter) :
    ∃ cs : List (BitVec 16), (if p then d.bump c else d) = { d with counters := cs } := by
  split <;> exact ⟨_, rfl⟩

/-- The fault set after a clear (R182). -/
def Dev.keptFaults (d : Dev) (b : Bool) : List FaultEntry :=
  (d.faults.filter (fun e => !e.kind.clearable b d.bdu.inSupplyLow)).map (fun e =>
    if e.kind = .supplyLow && b then { e with clearBlocked := true } else e)

/-- Taking the clear changes the fault set and the counters alone (R188). -/
theorem Dev.clearFaultSet_changes (d : Dev) (b : Bool) : ∃ cs : List (BitVec 16), d.clearFaultSet b = { d with faults := d.keptFaults b, counters := cs } := by
  obtain ⟨cs, hcs⟩ := Dev.bump_if (d.bump (if b then .clearsAtStandstill else .clearsMoving)) ((d.keptFaults b).length = d.faults.length)
    .clearsNothing
  exact ⟨cs, (congrArg (fun x : Dev => { x with faults := d.keptFaults b }) hcs :)⟩

theorem Dev.cleared_moving (d : Dev) : (d.clearFaultSet false).faults = d.faults.filter (fun y =>
    y.kind.freeRunning || y.kind.cls == .safeStop || y.kind == .configClamped || y.kind == .supplyLow) := by
  obtain ⟨cs, heq⟩ := d.clearFaultSet_changes false
  rw [heq]
  simp only [Dev.keptFaults, Bool.and_false, Bool.false_eq_true, if_false, List.map_id']
  exact List.filter_congr fun e _ => e.kind.kept_moving _

theorem Dev.cleared_standing (d : Dev) : (d.clearFaultSet true).faults.map (·.kind) = (d.faults.map (·.kind)).filter (fun k =>
    k.freeRunning || k == .configClamped || (k == .supplyLow && d.bdu.inSupplyLow)) := by
  obtain ⟨cs, heq⟩ := d.clearFaultSet_changes true
  rw [heq]
  simp only [Dev.keptFaults, List.map_map]
  have hkind : (FaultEntry.kind ∘ fun e : FaultEntry => if e.kind = .supplyLow && true then { e with clearBlocked := true } else e)
      = FaultEntry.kind := by
    funext e
    simp only [Function.comp]
    split <;> rfl
  rw [hkind, List.filter_map]
  exact congrArg _ (List.filter_congr fun e _ => e.kind.kept_standing _)

theorem Dev.cleared_no_safeStop (d : Dev) : (d.clearFaultSet true).classActive .safeStop = false := by
  obtain ⟨cs, heq⟩ := d.clearFaultSet_changes true
  rw [heq, Dev.classActive, List.any_eq_false]
  intro e he
  obtain ⟨y, hy, rfl⟩ := List.mem_map.mp he
  have hkept := y.kind.kept_not_safeStop _ (List.mem_filter.mp hy).2
  split <;> simpa using hkept

theorem Bdu.withLatch_self (b : Bdu) (l : Latch) : b.withLatch l (b.latch l) = b := by cases l <;> rfl

/-- A latch stays set while its condition stands (R123). -/
theorem Dev.releaseLatch_changes (d : Dev) (l : Latch) : ∃ cs : List (BitVec 16),
    d.releaseLatch l = { d with bdu := d.bdu.withLatch l (d.bdu.latch l && !d.latchGone l), counters := cs } := by
  unfold Dev.releaseLatch
  split
  · next h =>
    rw [Bool.and_eq_true] at h
    rw [h.1, h.2]
    exact ⟨_, rfl⟩
  · next h =>
    have hstays : (d.bdu.latch l && !d.latchGone l) = d.bdu.latch l := by
      cases hl : d.bdu.latch l <;> cases hg : d.latchGone l <;> simp_all
    rw [hstays, Bdu.withLatch_self]
    exact ⟨_, rfl⟩

/-- The refusal is one FAULT-REPORT, of kind CLEAR-REFUSED (R183). -/
theorem Dev.reportRefused_send (d : Dev) : ∃ b : List Byte, b.head? = some 2
    ∧ d.reportRefused = (d.send .faultReport 0 b).bump .refusedQueued := ⟨_, rfl, rfl⟩

/-- The latches after a clear at standstill, before the outputs settle (R123). -/
def Dev.unlatched (d : Dev) : Dev := ((d.releaseLatch .safeStop).releaseLatch .clampsNotUp).releaseLatch .supplyLow

theorem Dev.unlatched_changes (h : d.classActive .safeStop = false) : ∃ cs : List (BitVec 16), d.unlatched = { d with
    bdu := { d.bdu with
      latchSafeStop := false
      latchClampsNotUp := d.bdu.latchClampsNotUp && !(d.bdu.duty == 0 || d.bdu.inClampsUp)
      latchSupplyLow := d.bdu.latchSupplyLow && d.bdu.inSupplyLow }
    counters := cs } := by
  obtain ⟨c1, h1⟩ := d.releaseLatch_changes .safeStop
  obtain ⟨c2, h2⟩ := (d.releaseLatch .safeStop).releaseLatch_changes .clampsNotUp
  obtain ⟨c3, h3⟩ := ((d.releaseLatch .safeStop).releaseLatch .clampsNotUp).releaseLatch_changes .supplyLow
  have hgone : (d.bdu.latch .safeStop && !d.latchGone .safeStop) = false := by rw [Dev.latchGone, h]; simp
  refine ⟨c3, h3.trans ?_⟩
  rw [h2, h1, hgone]
  simp only [Bdu.withLatch, Bdu.latch, Dev.latchGone, Bool.not_not]

end

/-- Settles O41: the fault set first, then the refusal, or the latches with the exit from SAFE-STOP. -/
theorem clearFaultsIsTaken : Obligations.ClearFaultsIsTaken := by
  intro s f rest d hpass hk e notUp low leaves
  refine ⟨e.clearFaults, exec_clearFaults hpass hk, ?_⟩
  by_cases hstand : e.odo.standstill = true
  · have hclear : e.clearFaults = (e.clearFaultSet true).unlatched.settle.leaveSafeStop := if_pos hstand
    have hkinds := e.cleared_standing
    have hnone := e.cleared_no_safeStop
    obtain ⟨c1, h1⟩ := e.clearFaultSet_changes true
    obtain ⟨c2, h2⟩ := Dev.unlatched_changes hnone
    generalize e.clearFaultSet true = x at *
    obtain ⟨z, hz⟩ : ∃ z, z = x.unlatched.settle := ⟨_, rfl⟩
    rw [← hz] at hclear
    have hstands : z.odo = e.odo ∧ z.cle = e.cle ∧ z.peers = e.peers ∧ z.dkc = e.dkc ∧ z.stc = e.stc ∧ z.faults = x.faults := by
      rw [hz, h2, h1]
      exact ⟨rfl, rfl, rfl, rfl, rfl, rfl⟩
    have hlatches : z.bdu.latchSafeStop = false ∧ z.bdu.latchClampsNotUp = notUp ∧ z.bdu.latchSupplyLow = low := by
      rw [hz, h2, h1]
      exact ⟨rfl, rfl, rfl⟩
    obtain ⟨hodo, hcle, hpeers, hdkc, hstc, hfaults⟩ := hstands
    obtain ⟨hsafe, hup, hlow⟩ := hlatches
    have hclass : z.classActive .safeStop = false := (congrArg (fun l => List.any l _) hfaults).trans hnone
    have hleave : (z.stc.state == .safeStop && !z.bdu.latched && !z.classActive .safeStop && z.stc.order.isNone) = true ↔ leaves := by
      rw [Bdu.latched, hclass, hstc, hsafe, hup, hlow]
      simp only [leaves, Bool.false_or, Bool.not_or, Bool.not_false, Bool.and_true, Bool.and_eq_true, beq_iff_eq, Bool.not_eq_true',
        Option.isNone_iff_eq_none, and_assoc]
    rw [hclear]
    by_cases hgo : leaves
    · let y : Dev := { z with stc := { z.stc with haltHold := z.stc.haltHold || z.classActive .halt, stopKind := none } }
      have hrest : y.restState = if e.odo.pos.validity = .unknown then .noPosition
          else if e.dkc.sub = .clamped ∧ e.stc.parkedPad.isSome = true then .parked else .standing := by
        have hknown : (!y.odo.known) = true ↔ e.odo.pos.validity = .unknown := by
          rw [Odo.known, show y.odo = e.odo from hodo]
          simp
        have hparked : (y.dkc.sub == .clamped && y.stc.parkedPad.isSome) = true
            ↔ e.dkc.sub = .clamped ∧ e.stc.parkedPad.isSome = true := by
          rw [show y.dkc = e.dkc from hdkc, show y.stc.parkedPad = e.stc.parkedPad from (congrArg Stc.parkedPad hstc :)]
          simp
        simp only [Dev.restState, hknown, hparked]
      have hmem : y.restState ∈ [StationState.listen, .noPosition, .standing, .parked] := by
        unfold Dev.restState
        split
        · decide
        · split <;> decide
      have hleft : z.leaveSafeStop = y.enterState y.restState := if_pos (hleave.mpr hgo)
      rw [hleft]
      have hstate := (y.enterState_state y.restState).trans hrest
      rw [Dev.enterState_of_rest hmem] at hstate ⊢
      exact ⟨hodo, hcle, hpeers, hdkc, fun h => absurd (h.symm.trans hstand) Bool.false_ne_true, fun _ =>
        ⟨by rw [← hkinds, ← hfaults]; rfl, hsafe, hup, hlow, fun _ => hstate, fun h => absurd hgo h⟩⟩
    · rw [Dev.leaveSafeStop, if_neg (mt hleave.mp hgo)]
      exact ⟨hodo, hcle, hpeers, hdkc, fun h => absurd (h.symm.trans hstand) Bool.false_ne_true, fun _ =>
        ⟨by rw [hfaults]; exact hkinds, hsafe, hup, hlow, fun h => absurd h hgo, fun _ => hstc⟩⟩
  · have hclear : e.clearFaults = if (e.clearFaultSet false).bdu.latched then
        ((e.clearFaultSet false).reportRefused).bump .clearsRefused else e.clearFaultSet false := if_neg hstand
    have hkept := e.cleared_moving
    obtain ⟨c1, h1⟩ := e.clearFaultSet_changes false
    generalize e.clearFaultSet false = x at *
    have hstands : x.odo = e.odo ∧ x.cle = e.cle ∧ x.peers = e.peers ∧ x.dkc = e.dkc ∧ x.stc = e.stc ∧ x.bdu = e.bdu ∧ x.sup = e.sup
        ∧ x.lif = e.lif := by
      rw [h1]
      exact ⟨rfl, rfl, rfl, rfl, rfl, rfl, rfl, rfl⟩
    obtain ⟨hodo, hcle, hpeers, hdkc, hstc, hbdu, hsup, hlif⟩ := hstands
    by_cases hl : x.bdu.latched = true
    · rw [if_pos hl] at hclear
      obtain ⟨b, hb, hrefused⟩ := x.reportRefused_send
      obtain ⟨cs, hsend⟩ := Dev.send_report (d := x) (k := .faultReport) rfl 0 b
      rw [hclear, hrefused, hsend]
      refine ⟨hodo, hcle, hpeers, hdkc, fun _ => ⟨hkept, hstc, hbdu, hsup, fun h => ?_, fun _ hroom => ?_⟩,
        fun h => absurd h hstand⟩
      · rw [hbdu, h] at hl
        exact absurd hl Bool.false_ne_true
      · refine ⟨⟨.faultReport, 0, b, 0, none, false⟩, ?_, rfl, rfl, hb⟩
        rw [← hlif] at hroom
        show _ ∈ (if x.lif.hasRoom then x.lif.place _ else x.lif).queue
        rw [if_pos hroom]
        exact Lif.mem_place ..
    · rw [if_neg hl] at hclear
      rw [hclear]
      refine ⟨hodo, hcle, hpeers, hdkc, fun _ => ⟨hkept, hstc, hbdu, hsup, fun _ => hlif, fun h => ?_⟩, fun h => absurd h hstand⟩
      rw [hbdu, h] at hl
      exact absurd rfl hl

end Sys2Proof.Machine

/-! SUPPORT. The Supervision Unit's items after an evaluation are those that it formed, but for the demand and the order's speed
(R89 to R108). -/

namespace Sys2Proof.Machine

/-- What of a part only an evaluation changes: SUP's items but the demand and the order's speed, with the history, the map and the peers. -/
def Dev.supervised (d : Dev) : Sup × List Nat × Tmp × List PeerRec :=
  ({ d.sup with demand := 0, vOrder := none }, d.odo.history, d.tmp, d.peers)

theorem Dev.supervised_odo {d : Dev} {o : Odo} (h : o.sensed = d.odo.sensed) : ({ d with odo := o } : Dev).supervised = d.supervised := by
  have hh : o.history = d.odo.history := (congrArg (fun x => x.2.2.2.2.1) h :)
  simp only [Dev.supervised, hh]

theorem Dev.supervised_stopTrain (d : Dev) : d.stopTrain.supervised = d.supervised := by
  unfold Dev.stopTrain
  simp only
  split <;> rfl

theorem Dev.supervised_setLatch (d : Dev) (l : Latch) : (d.setLatch l).supervised = d.supervised := by
  unfold Dev.setLatch
  split
  · rfl
  · exact (Dev.supervised_stopTrain _).trans (by cases l <;> rfl)

/-- No operation that the blocks share changes what an evaluation formed, short of a loss of the position. -/
theorem inner_supervised (x : Sup × List Nat × Tmp × List PeerRec) : Inner fun d => d.supervised = x where
  counters _ h := h
  freeCount _ h := h
  enqueue k dst b t h := by
    obtain ⟨q, y, cs, heq⟩ := Dev.enqueue_line _ k dst b t
    rw [heq]
    exact h
  withdraw tag h := by
    obtain ⟨q, y, heq⟩ := Dev.withdraw_line _ tag
    rw [heq]
    exact h
  faults _ _ h := h
  cle _ _ _ h := h
  odo _ ho _ h := (Dev.supervised_odo ho).trans h
  place _ h := h
  orderSpeed h := h
  dkc _ _ h := h
  stc _ _ h := h
  settle h := h
  zeroDemand h := h
  stopTrain h := (Dev.supervised_stopTrain _).trans h
  setLatch l h := (Dev.supervised_setLatch _ l).trans h
  clamps _ _ _ h := h
  turn _ ho h := (Dev.supervised_odo ho).trans h
  enterState s h := Dev.enterState_keeps (P := fun d => d.supervised = x) (fun _ h => h) (fun _ h => h)
    (fun _ h => (Dev.supervised_setLatch _ _).trans h) h

/-! ### The hand-over (R89, R111, R124, R129, R150) -/

section
variable {x : Sup × List Nat × Tmp × List PeerRec} {d : Dev}

theorem Dev.supervised_handOver (n : Nat) (h : d.supervised = x) : (d.handOver n).supervised = x := by
  unfold Dev.handOver
  exact ite_keeps (P := fun d => d.supervised = x)
    (fun _ => (inner_supervised x).judgeClampsUp (d := { d with bdu := { d.bdu with demandHanded := n } }) _ h) (fun _ => h)

theorem Dev.supervised_trainNotice (h : d.supervised = x) : d.trainNotice.supervised = x := by
  unfold Dev.trainNotice
  split
  · exact h
  · exact h

theorem Dev.supervised_stationHandOver (y : Option Int) (b : Bool) (h : d.supervised = x) : (d.stationHandOver y b).supervised = x := by
  have hi := inner_supervised x
  unfold Dev.stationHandOver
  simp only
  split
  · split
    · exact hi.endOfApproach (hi.dockApproach (hi.enterState _ h))
    · exact h
  · split
    · exact hi.dockApproach h
    · exact h
  all_goals exact h

theorem Dev.countEvaluation_changes (d : Dev) (s : Sup) : ∃ cs : List (BitVec 16), d.countEvaluation s = { d with counters := cs } := by
  have hbump {e : Dev} (c : Counter) (he : ∃ cs : List (BitVec 16), e = { d with counters := cs }) :
      ∃ cs : List (BitVec 16), e.bump c = { d with counters := cs } := by
    obtain ⟨cs, rfl⟩ := he
    exact ⟨_, rfl⟩
  have hmaybe {e : Dev} (p : Prop) [Decidable p] (c : Counter) (he : ∃ cs : List (BitVec 16), e = { d with counters := cs }) :
      ∃ cs : List (BitVec 16), (if p then e.bump c else e) = { d with counters := cs } := by
    split
    · exact hbump c he
    · exact he
  exact hmaybe _ _ (hmaybe _ _ (hmaybe _ _ (hmaybe _ _ (hbump .evaluationsTaken ⟨d.counters, rfl⟩))))

/-- The part after an evaluation's faults (R94, R107). -/
def Dev.faultsRaised (d : Dev) : Dev :=
  let e := ({ d with sup := d.evaluated } : Dev).countEvaluation d.sup
  let e := if decide (d.evaluated.dAuth < 0) && !d.odo.standstill then e.raise .authorityOverrun else e
  if d.evaluated.band == .overspeed then e.raise .overspeed else e

/-- DKC takes D_stop (R129). -/
def Dev.withDStop (d : Dev) (y : Option Int) : Dev := { d with dkc := { d.dkc with dStop := y } }

/-- What is handed on after the faults: to BDU, then to DKC (R89, R111, R124). -/
def Dev.handedOn (d : Dev) (s : Sup) : Dev :=
  (((({ d with bdu := { d.bdu with srcServiceBand := s.serviceBand } } : Dev).settle).handOver d.sup.demand).trainNotice).withDStop s.dStop

theorem Dev.supervised_handedOn (s : Sup) (h : d.supervised = x) : (d.handedOn s).supervised = x :=
  Dev.supervised_trainNotice (Dev.supervised_handOver (d := ({ d with bdu := { d.bdu with srcServiceBand := s.serviceBand } } : Dev).settle)
    d.sup.demand h)

theorem Dev.faultsRaised_keeps {P : Dev → Prop} (hraise : ∀ (k : FaultKind) {e : Dev}, P e → P (e.raise k))
    (h : ∀ cs, P { d with sup := d.evaluated, counters := cs }) : P d.faultsRaised := by
  obtain ⟨cs, hcs⟩ := ({ d with sup := d.evaluated } : Dev).countEvaluation_changes d.sup
  have hcounted := h cs
  unfold Dev.faultsRaised
  simp only [hcs]
  generalize ({ d with sup := d.evaluated, counters := cs } : Dev) = a at hcounted ⊢
  have hover : P (if decide (d.evaluated.dAuth < 0) && !d.odo.standstill then a.raise .authorityOverrun else a) :=
    ite_keeps (fun _ => hraise _ hcounted) (fun _ => hcounted)
  exact ite_keeps (fun _ => hraise _ hover) (fun _ => hover)

theorem Dev.supervise_known (h : d.odo.known = true) : d.supervise
    = (d.faultsRaised.handedOn d.evaluated).stationHandOver d.evaluated.dStop d.evaluated.exhausted := by
  rw [Dev.supervise, if_neg (by rw [h]; decide)]
  rfl

/-- After an evaluation SUP shows what it formed. -/
theorem Dev.supervise_shows (h : d.odo.known = true) :
    d.supervise.supervised = ({ d.evaluated with demand := 0, vOrder := none }, d.odo.history, d.tmp, d.peers) := by
  generalize hx : ({ d.evaluated with demand := 0, vOrder := none }, d.odo.history, d.tmp, d.peers) = x
  have hi := inner_supervised x
  have hraised : d.faultsRaised.supervised = x := Dev.faultsRaised_keeps (P := fun d => d.supervised = x) (fun k _ h => hi.raise k h) (fun _ => hx)
  rw [Dev.supervise_known h]
  exact Dev.supervised_stationHandOver _ _ (Dev.supervised_handedOn d.evaluated hraised)

theorem Dev.supervise_sup (h : d.odo.known = true) : ∃ (n : Nat) (w : Option Nat),
    d.supervise.sup = { d.evaluated with demand := n, vOrder := w } ∧ d.supervise.odo.history = d.odo.history
      ∧ d.supervise.tmp = d.tmp ∧ d.supervise.peers = d.peers := by
  obtain ⟨hsup, hrest⟩ := Prod.mk.inj (Dev.supervise_shows h)
  obtain ⟨hhist, hrest⟩ := Prod.mk.inj hrest
  obtain ⟨htmp, hpeers⟩ := Prod.mk.inj hrest
  exact ⟨d.supervise.sup.demand, d.supervise.sup.vOrder,
    congrArg (fun y : Sup => { y with demand := d.supervise.sup.demand, vOrder := d.supervise.sup.vOrder }) hsup, hhist, htmp, hpeers⟩

end

/-! ### The formulas (R97 to R106) -/

theorem foldl_lowest_le (l : List (Nat × Binding)) (t : Nat × Binding) :
    (l.foldl (fun m x => if x.1 < m.1 then x else m) t).1 ≤ t.1
      ∧ ∀ x ∈ l, (l.foldl (fun m x => if x.1 < m.1 then x else m) t).1 ≤ x.1 := by
  induction l generalizing t with
  | nil => exact ⟨Nat.le_refl _, fun _ h => absurd h List.not_mem_nil⟩
  | cons a l ih =>
    rw [List.foldl_cons]
    obtain ⟨hle, hall⟩ := ih (if a.1 < t.1 then a else t)
    have hmin : (if a.1 < t.1 then a else t).1 ≤ a.1 ∧ (if a.1 < t.1 then a else t).1 ≤ t.1 := by split <;> omega
    refine ⟨hle.trans hmin.2, fun x hx => ?_⟩
    obtain rfl | hx := List.mem_cons.mp hx
    · exact hle.trans hmin.1
    · exact hall x hx

/-- The lowest term is no higher than any (R101). -/
theorem lowestTerm_le {l : List (Nat × Binding)} {x : Nat × Binding} (h : x ∈ l) : (lowestTerm l).1 ≤ x.1 := by
  cases l with
  | nil => exact absurd h List.not_mem_nil
  | cons t l =>
    obtain ⟨hle, hall⟩ := foldl_lowest_le l t
    obtain rfl | hx := List.mem_cons.mp h
    · exact hle
    · exact hall x hx

theorem lowestTerm_mem {l : List (Nat × Binding)} (h : l ≠ []) : lowestTerm l ∈ l := by
  cases l with
  | nil => exact absurd rfl h
  | cons t l =>
    show l.foldl (fun m x => if x.1 < m.1 then x else m) t ∈ t :: l
    clear h
    induction l generalizing t with
    | nil => exact List.mem_cons_self
    | cons a l ih =>
      rw [List.foldl_cons]
      have hfold := ih (if a.1 < t.1 then a else t)
      split at hfold
      · rw [if_pos ‹_›]
        exact List.mem_cons_of_mem t hfold
      · rw [if_neg ‹_›]
        obtain hfold | hfold := List.mem_cons.mp hfold
        · rw [hfold]
          exact List.mem_cons_self
        · exact List.mem_cons_of_mem t (List.mem_cons_of_mem a hfold)

theorem effectiveDecel_ge (asv : Nat) (g : Int) : 50 ≤ effectiveDecel asv g := Nat.le_max_left ..

theorem bandOf_iff (v p m : Nat) : (v ≤ p ↔ bandOf v p m = .nominal) ∧ (p < v ∧ v ≤ p + m ↔ bandOf v p m = .warn)
    ∧ (p + m < v ∧ v ≤ p + 2 * m ↔ bandOf v p m = .service) ∧ (p + 2 * m < v ↔ bandOf v p m = .overspeed) := by
  unfold bandOf
  by_cases h1 : v ≤ p
  · rw [if_pos h1]
    refine ⟨by simp [h1], ?_, ?_, ?_⟩ <;> simp <;> omega
  · rw [if_neg h1]
    by_cases h2 : v ≤ p + m
    · rw [if_pos h2]
      refine ⟨by simp [h1], ?_, ?_, ?_⟩ <;> simp <;> omega
    · rw [if_neg h2]
      by_cases h3 : v ≤ p + 2 * m
      · rw [if_pos h3]
        refine ⟨by simp [h1], ?_, ?_, ?_⟩ <;> simp <;> omega
      · rw [if_neg h3]
        refine ⟨by simp [h1], ?_, ?_, ?_⟩ <;> simp <;> omega

theorem Odo.vMeas_eq (o : Odo) : o.vMeas = o.history.sum / 100 := by rw [Odo.vMeas, List.sum_eq_foldl]

section
variable {d : Dev}

/-- The terms of the permitted speed (R101). -/
def Dev.speedTerms (d : Dev) : List (Nat × Binding) :=
  let x := d.evaluated
  let limit := d.sectionLimit d.footprint
  let front := match d.stc.order with
    | some o => d.frontCoord o.route
    | none => 0
  [(d.tmp.plan.lineMax, Binding.line), (limit, .sectionLimit)] ++ d.limitCurves front limit x.aEff x.rd d.distances.chain
    ++ [(x.vCurve, .curve)] ++ d.approachCurve x.dStop x.aEff x.rd
    ++ (if d.creepCapped x.dStop then [(d.tmp.carriage.creep, Binding.creep)] else [])

theorem Dev.evaluated_term (d : Dev) : (d.evaluated.vPerm, d.evaluated.binding) = lowestTerm d.speedTerms := rfl

theorem Dev.vCurve_eq (d : Dev) :
    d.evaluated.vCurve = isqrt (2 * d.evaluated.aEff * (d.evaluated.dist - d.evaluated.rd).toNat) := by
  show brakingCurve 0 d.evaluated.aEff (d.evaluated.dist - d.evaluated.rd) = _
  rw [brakingCurve, Nat.zero_mul, Nat.zero_add]

theorem Dev.vPerm_le {t : Nat × Binding} (h : t ∈ d.speedTerms) : d.evaluated.vPerm ≤ t.1 := lowestTerm_le h

end

theorem exec_supervision (s : State) (h : s.dev.due s.dev.sup.evalTimer = true) :
    exec .supervisionEvaluation s = .next { s with dev := s.dev.supervise } :=
  congrArg s.becomes (Dev.whileDue_due _ _ h)

/-- Settles O45: SUP's items after the step are those of `Dev.evaluated`, whose formulas are read off. -/
theorem evaluationFormsTheStatedValues : Obligations.EvaluationFormsTheStatedValues := by
  intro s d hdue
  have hexec := exec_supervision s hdue
  refine ⟨fun hunknown => ?_, fun hknown => ?_⟩
  · rw [hexec, Dev.supervise, if_pos (by rw [Odo.known, hunknown]; rfl)]
    rfl
  · intro v c
    obtain ⟨n, w, hsup, hrest⟩ := Dev.supervise_sup (d.odo.known_iff.mpr hknown)
    have hv : d.odo.vMeas = v := d.odo.vMeas_eq
    refine ⟨_, hexec, ?_, hrest⟩
    rw [hsup]
    obtain ⟨hnominal, hwarn, hservice, hover⟩ := bandOf_iff d.odo.vMeas d.evaluated.vPerm c.overspeed
    have hband : bandOf d.odo.vMeas d.evaluated.vPerm c.overspeed = d.evaluated.band := rfl
    rw [hband, hv] at hnominal hwarn hservice hover
    have h50 : 50 ≤ d.evaluated.aEff := effectiveDecel_ge _ _
    refine ⟨rfl, rfl, h50, ?rd, ?curve, ?curve', ?sd, Dev.vPerm_le (t := (d.tmp.plan.lineMax, .line)) List.mem_cons_self, hnominal, hwarn,
      hservice, hover, bne_iff_ne, ?source, fun hnone => ?none⟩
    case rd =>
      show ceilDiv (d.odo.vMeas * c.reaction) 1000 = _
      rw [hv]
      rfl
    case curve =>
      show d.evaluated.vCurve * d.evaluated.vCurve ≤ 2 * d.evaluated.aEff * (d.evaluated.dist - d.evaluated.rd).toNat
      rw [Dev.vCurve_eq]
      exact isqrt_mul_self_le _
    case curve' =>
      show 2 * d.evaluated.aEff * (d.evaluated.dist - d.evaluated.rd).toNat < (d.evaluated.vCurve + 1) * (d.evaluated.vCurve + 1)
      rw [Dev.vCurve_eq]
      exact lt_succ_isqrt_mul_self _
    case sd =>
      show ceilDiv (d.odo.vMeas * d.odo.vMeas) (2 * d.evaluated.aEff) + d.evaluated.rd = _
      rw [hv, ceilDiv, Nat.add_sub_assoc (by omega)]
    case source =>
      show serviceSource d.evaluated.band d.sup.serviceBand = true ↔ _
      cases d.evaluated.band <;> simp [serviceSource]
    case none =>
      have hnone' : d.distances = { chain := [], limit := some d.extentLimit, dAuth := 0, dStop := none, dist := 0 } := by
        rw [Dev.distances, hnone]
      exact ⟨congrArg Distances.dAuth hnone', congrArg Distances.dStop hnone', congrArg Distances.dist hnone'⟩

end Sys2Proof.Machine

/-! SUPPORT. SAFE-STOP entered from a state of an order, and the hand-over of an evaluation with nothing raised (R89, R107, R111, R124,
R150, R158). -/

namespace Sys2Proof.Machine

/-- SAFE-STOP with its latch set, the demand 0 and the release train STOPPED (R114, R144, R158). -/
structure Dev.Stopped (d : Dev) : Prop where
  state : d.stc.state = .safeStop
  latch : d.bdu.latchSafeStop = true
  demand : d.sup.demand = 0
  train : d.bdu.trainRunning = false

theorem claimWork_stopped : ClaimWork Dev.Stopped where
  counters _ h := { h with }
  enqueue k dst b t h := by
    obtain ⟨q, y, cs, heq⟩ := Dev.enqueue_line _ k dst b t
    rw [heq]
    exact { h with }
  withdraw tag h := by
    obtain ⟨q, y, heq⟩ := Dev.withdraw_line _ tag
    rw [heq]
    exact { h with }
  cle _ h := { h with }
  deadlock _ _ h := { h with }

section
variable {d : Dev} {k : FaultKind}

theorem Dev.commandsDropped_keeps (d : Dev) :
    d.commandsDropped.latchSafeStop = d.bdu.latchSafeStop ∧ d.commandsDropped.trainRunning = d.bdu.trainRunning := by
  unfold Dev.commandsDropped
  split <;> exact ⟨rfl, rfl⟩

theorem Dev.Stopped.endOrder (h : d.Stopped) (o : OrderOutcome) (q : Option FaultKind) : (d.endOrder o q).Stopped := by
  obtain ⟨hs, hl, hd, ht⟩ := h
  cases hord : d.stc.order with
  | none => rw [Dev.endOrder_none hord]; exact ⟨hs, hl, hd, ht⟩
  | some ord =>
    obtain ⟨c, l, t, fs, cs, w, heq, -⟩ := Dev.endOrder_changes hord o q
    rw [heq]
    obtain ⟨hlatch, htrain⟩ := d.commandsDropped_keeps
    exact ⟨hs, hlatch.trans hl, hd, htrain.trans ht⟩

theorem Dev.Stopped.enterFault (h : d.Stopped) : (d.enterFault k).Stopped := by
  obtain ⟨fs, b, cs, heq, -⟩ := d.enterFault_changes k
  rw [heq]
  exact { h with }

/-- A further SAFE-STOP kind in SAFE-STOP joins the fault set alone (R158). -/
theorem Dev.Stopped.raise (h : d.Stopped) (hk : k.cls = .safeStop) : (d.raise k).Stopped := by
  have hentered := h.enterFault (k := k)
  have hraise : d.raise k = d.enterFault k := by
    rw [Dev.raise, Dev.takeRaise, hk]
    simp only [hentered.state]
  rw [hraise]
  exact hentered

theorem Dev.enterSafeStop_stopped (hl : d.bdu.latchSafeStop = false) : (d.enterSafeStop k).Stopped := by
  generalize hv : ({ d with stc := { d.stc with listenTimer := none, remembered := none, stopKind := some k } } : Dev) = v
  have hvl : v.bdu.latchSafeStop = false := by rw [← hv]; exact hl
  have hentered : (v.enterState .safeStop).Stopped := by
    have hquiet : ((v.entering .safeStop).zeroDemand.settle).bdu.latch .safeStop = false := hvl
    obtain ⟨cs, heq⟩ := Dev.setLatch_new hquiet
    rw [Dev.enterState_safeStop, heq]
    exact ⟨rfl, rfl, rfl, rfl⟩
  have haborted : ((v.enterState .safeStop).bump .entriesSafeStop).claimsAbort.Stopped :=
    claimWork_stopped.claimsAbort (claimWork_stopped.bump _ hentered)
  unfold Dev.enterSafeStop
  rw [hv]
  exact ite_keeps (P := Dev.Stopped) (fun _ => haborted) fun _ => ite_keeps (P := Dev.Stopped) (fun _ => haborted.endOrder _ _) fun _ => haborted.endOrder _ _

/-- A SAFE-STOP kind raised in a state of an order, with no latch set (R158). -/
theorem Dev.raise_stops (hk : k.cls = .safeStop) (hs : d.stc.state.demanding = true) (hl : d.bdu.latchSafeStop = false) :
    (d.raise k).Stopped := by
  have hs' : (d.enterFault k).stc.state.demanding = true := by rw [Dev.enterFault_stc]; exact hs
  have hl' : (d.enterFault k).bdu.latchSafeStop = false := by rw [Dev.enterFault_bdu]; exact hl
  rw [Dev.raise, Dev.takeRaise, hk]
  simp only
  split
  iterate 8 exact Dev.enterSafeStop_stopped hl'
  all_goals
    next hst =>
      rw [hst] at hs'
      exact absurd hs' (by decide)

/-! ### The faults of an evaluation (R94, R107) -/

/-- With neither OVERSPEED nor an overrun found SUP's items and the counters alone change. -/
theorem Dev.faultsRaised_counts (hband : d.evaluated.band ≠ .overspeed) (hauth : 0 ≤ d.evaluated.dAuth ∨ d.odo.standstill = true) :
    d.faultsRaised = ({ d with sup := d.evaluated } : Dev).countEvaluation d.sup := by
  have hrun : ¬(decide (d.evaluated.dAuth < 0) && !d.odo.standstill) = true := by
    simp only [Bool.and_eq_true, decide_eq_true_eq, Bool.not_eq_true']
    rintro ⟨hneg, hmoves⟩
    obtain h | h := hauth
    · omega
    · exact Bool.false_ne_true (hmoves.symm.trans h)
  rw [Dev.faultsRaised, if_neg (by simpa using hband), if_neg hrun]

theorem Dev.faultsRaised_calm (hband : d.evaluated.band ≠ .overspeed) (hauth : 0 ≤ d.evaluated.dAuth ∨ d.odo.standstill = true) :
    ∃ cs : List (BitVec 16), d.faultsRaised = { d with sup := d.evaluated, counters := cs } := by
  obtain ⟨cs, hcs⟩ := ({ d with sup := d.evaluated } : Dev).countEvaluation_changes d.sup
  exact ⟨cs, (Dev.faultsRaised_counts hband hauth).trans hcs⟩

/-- OVERSPEED or an overrun stops the station (R107, R158). -/
theorem Dev.faultsRaised_stopped (hs : d.stc.state.demanding = true) (hl : d.bdu.latchSafeStop = false)
    (h : d.evaluated.band = .overspeed ∨ (d.evaluated.dAuth < 0 ∧ d.odo.standstill = false)) : d.faultsRaised.Stopped
      ∧ (d.evaluated.band = .overspeed → d.faultsRaised.faultActive .overspeed = true)
      ∧ (d.evaluated.dAuth < 0 ∧ d.odo.standstill = false → d.faultsRaised.faultActive .authorityOverrun = true) := by
  obtain ⟨cs, hcs⟩ := ({ d with sup := d.evaluated } : Dev).countEvaluation_changes d.sup
  have hruns : (decide (d.evaluated.dAuth < 0) && !d.odo.standstill) = true ↔ d.evaluated.dAuth < 0 ∧ d.odo.standstill = false := by simp
  have hself (x : Dev) (k : FaultKind) (hk : k ≠ .deadlock) : (x.raise k).faultActive k = true := by
    rw [Dev.raised_active _ _ hk]
    simp
  rw [Dev.faultsRaised, hcs]
  generalize hv : ({ d with sup := d.evaluated, counters := cs } : Dev) = v
  have hvs : v.stc.state.demanding = true := by rw [← hv]; exact hs
  have hvl : v.bdu.latchSafeStop = false := by rw [← hv]; exact hl
  by_cases hrun : d.evaluated.dAuth < 0 ∧ d.odo.standstill = false
  · have hstop := Dev.raise_stops (k := .authorityOverrun) rfl hvs hvl
    have hactive := hself v .authorityOverrun (by decide)
    rw [if_pos (hruns.mpr hrun)]
    by_cases hover : d.evaluated.band = .overspeed
    · rw [if_pos (by simpa using hover)]
      refine ⟨hstop.raise rfl, fun _ => hself _ _ (by decide), fun _ => ?_⟩
      rw [Dev.raised_active _ _ (by decide), hactive, Bool.or_true]
    · rw [if_neg (by simpa using hover)]
      exact ⟨hstop, fun h => absurd h hover, fun _ => hactive⟩
  · have hover : d.evaluated.band = .overspeed := h.resolve_right hrun
    rw [if_neg (mt hruns.mp hrun), if_pos (by simpa using hover)]
    exact ⟨Dev.raise_stops rfl hvs hvl, fun _ => hself _ _ (by decide), fun h => absurd h hrun⟩

/-! ### The hand-over (R89, R111, R124) -/

/-- The hand-over to a stopped part: BDU takes a demand of 0 (R111). -/
theorem Dev.Stopped.handedOn_stopped (h : d.Stopped) (s : Sup) : (d.handedOn s).Stopped ∧ (d.handedOn s).bdu.demandHanded = 0
    ∧ (d.handedOn s).bdu.duty = 0 ∧ (d.handedOn s).faults = d.faults := by
  obtain ⟨hs, hl, hd, ht⟩ := h
  have hlatched : d.bdu.latched = true := by rw [Bdu.latched, hl]; rfl
  let x : Dev := ({ d with bdu := { d.bdu with srcServiceBand := s.serviceBand } } : Dev).settle
  have hduty : (if x.outputsHeld || x.bdu.forced then 0 else d.sup.demand * 1000 / x.tmp.plan.lineMax) = 0 := by
    rw [hd, Nat.zero_mul, Nat.zero_div, ite_self]
  have hover : x.handOver d.sup.demand = { x with bdu := { x.bdu with demandHanded := 0, duty := 0 } } := by
    rw [Dev.handOver]
    simp only [hduty]
    rw [hd]
    exact if_neg Bool.false_ne_true
  have hnotice : ({ x with bdu := { x.bdu with demandHanded := 0, duty := 0 } } : Dev).trainNotice
      = { x with bdu := { x.bdu with demandHanded := 0, duty := 0 } } := if_pos (by
    show (d.bdu.latched || _) = true
    rw [hlatched, Bool.true_or])
  have hhanded : d.handedOn s = { x with bdu := { x.bdu with demandHanded := 0, duty := 0 }, dkc := { x.dkc with dStop := s.dStop } } := by
    rw [show d.handedOn s = (x.handOver d.sup.demand).trainNotice.withDStop s.dStop from rfl, hover, hnotice, Dev.withDStop]
  rw [hhanded]
  exact ⟨⟨hs, hl, hd, ht⟩, rfl, rfl, rfl⟩

/-- The outputs after the hand-over of a demand with the clamps up and no latch set (R111, R119, R124). -/
theorem Dev.handedOn_live {s : Sup} (hup : d.bdu.inClampsUp = true) (hl : d.bdu.latched = false) (hdown : d.bdu.inClampsDown = false)
    (hheld : d.outputsHeld = false) : ∃ b : Bdu, d.handedOn s = { d with bdu := b, dkc := { d.dkc with dStop := s.dStop } }
      ∧ b.demandHanded = d.sup.demand ∧ b.duty = (if d.bdu.clampDown then 0 else d.sup.demand * 1000 / d.tmp.plan.lineMax)
      ∧ b.trainLevel = !d.bdu.trainLevel ∧ b.trainRunning = true ∧ b.trainTimer = some (d.now + 30000)
      ∧ b.srcServiceBand = s.serviceBand := by
  let x : Dev := ({ d with bdu := { d.bdu with srcServiceBand := s.serviceBand } } : Dev).settle
  have hxheld : x.outputsHeld = false := hheld
  have hforced : x.bdu.forced = d.bdu.clampDown := by
    show (d.bdu.latched || d.bdu.inClampsDown || d.bdu.clampDown) = _
    rw [hl, hdown, Bool.false_or, Bool.false_or]
  have hxup : x.bdu.inClampsUp = true := hup
  generalize hduty : (if x.outputsHeld || x.bdu.forced then 0 else d.sup.demand * 1000 / x.tmp.plan.lineMax) = n
  have hover : x.handOver d.sup.demand = { x with bdu := { x.bdu with demandHanded := d.sup.demand, duty := n } } := by
    rw [Dev.handOver]
    simp only [hduty]
    exact if_neg (by rw [hxup, Bool.not_true, Bool.and_false]; exact Bool.false_ne_true)
  generalize hb : ({ x.bdu with demandHanded := d.sup.demand, duty := n } : Bdu) = b at hover
  have hquiet : (b.latched || ({ x with bdu := b } : Dev).outputsHeld) = false := by
    rw [← hb]
    show (d.bdu.latched || d.outputsHeld) = false
    rw [hl, hheld]
    rfl
  have hnotice : ({ x with bdu := b } : Dev).trainNotice
      = { x with bdu := { b with trainLevel := !b.trainLevel, trainRunning := true, trainTimer := d.timerMs Config.trainWatchMs } } :=
    if_neg fun h => Bool.false_ne_true (hquiet.symm.trans h)
  have hhanded : d.handedOn s = { d with
      bdu := { b with trainLevel := !b.trainLevel, trainRunning := true, trainTimer := d.timerMs Config.trainWatchMs }
      dkc := { d.dkc with dStop := s.dStop } } := by
    rw [show d.handedOn s = (x.handOver d.sup.demand).trainNotice.withDStop s.dStop from rfl, hover, hnotice, Dev.withDStop]
    rfl
  refine ⟨_, hhanded, ?_, ?_, ?_, rfl, rfl, ?_⟩
  · rw [← hb]
  · rw [← hb]
    show n = _
    rw [← hduty, hxheld, hforced, Bool.false_or]
    rfl
  · rw [← hb]
    rfl
  · rw [← hb]
    rfl

/-- The part with an evaluation's items, before the station takes its D_stop. -/
def Dev.handed (d : Dev) (x : Sup) (cs : List (BitVec 16)) (b : Bdu) : Dev :=
  { d with sup := x, counters := cs, bdu := b, dkc := { d.dkc with dStop := x.dStop } }

/-! ### The station's part (R150) -/

/-- D_stop within the approach distance (R150). -/
def Dev.nearStop (d : Dev) (y : Option Int) : Prop := ∃ n, y = some n ∧ n ≤ (d.tmp.carriage.approach : Int)

theorem Dev.nearStop_iff (d : Dev) (y : Option Int) : y.any (fun x => decide (x ≤ (d.tmp.carriage.approach : Int))) = true ↔ d.nearStop y := by
  cases y <;> simp [Dev.nearStop]

theorem Dev.stationHandOver_far (hs : d.stc.state = .running) {y : Option Int} (h : ¬d.nearStop y) (b : Bool) :
    d.stationHandOver y b = { d with stc := { d.stc with waiting := b } } := by
  rw [Dev.stationHandOver, hs]
  exact if_neg (mt (d.nearStop_iff y).mp h)

theorem Dev.stationHandOver_near (hs : d.stc.state = .running) {y : Option Int} (h : d.nearStop y) (b : Bool) : d.stationHandOver y b
    = ((({ d with stc := { d.stc with waiting := b } } : Dev).enterState .approach).dockApproach).endOfApproach := by
  rw [Dev.stationHandOver, hs]
  exact if_pos ((d.nearStop_iff y).mpr h)

theorem Dev.stationHandOver_halted (hs : d.stc.state = .halted) {y : Option Int} (h : d.nearStop y) (hr : d.stc.remembered = some .running)
    (b : Bool) : d.stationHandOver y b = ({ d with stc := { d.stc with remembered := some .approach } } : Dev).dockApproach := by
  rw [Dev.stationHandOver, hs]
  exact if_pos (by rw [(d.nearStop_iff y).mpr h, hr]; rfl)

theorem Dev.stationHandOver_other (hs : d.stc.state ≠ .running) {y : Option Int}
    (h : ¬(d.stc.state = .halted ∧ d.stc.remembered = some .running ∧ d.nearStop y)) (b : Bool) : d.stationHandOver y b = d := by
  unfold Dev.stationHandOver
  simp only
  split
  · next hst => exact absurd hst hs
  · next hst =>
    refine if_neg fun hc => h ?_
    rw [Bool.and_eq_true, beq_iff_eq, d.nearStop_iff] at hc
    exact ⟨hst, hc.2, hc.1⟩
  all_goals rfl

end

/-- What no condition holds at 0 (R104). -/
theorem Dev.demandZeroed_iff (d : Dev) : d.demandZeroed = false ↔ d.bdu.latched = false ∧ d.bdu.inClampsDown = false
    ∧ d.stc.state.demanding = true ∧ d.dkc.sub ≠ .clamping ∧ d.dkc.sub ≠ .clamped := by
  simp [Dev.demandZeroed, and_assoc]

/-- Settles O48: the ramp read off, then the hand-over with nothing raised, or after SAFE-STOP. -/
theorem demandFollowsTheTargetByOneStep : Obligations.DemandFollowsTheTargetByOneStep := by
  intro s d x c hdue hknown hlive up down
  have hknown' : d.odo.known = true := d.odo.known_iff.mpr hknown
  have hexec := exec_supervision s hdue
  obtain ⟨hlatched, hdown, hdemanding, -, -⟩ := d.demandZeroed_iff.mp hlive
  have hdemand : x.demand = rampDemand c.accel c.serviceDecel d.sup.demand x.target x.vPerm := by
    show (if d.demandZeroed then 0 else rampDemand c.accel c.serviceDecel d.sup.demand x.target x.vPerm) = _
    rw [hlive]
    rfl
  refine ⟨fun h => ?up, fun h => ?down, fun h => ?same, fun h => ?halted, fun hband hauth hfar hup hheld => ?calm,
    fun hover _ => ?stopped⟩
  case up =>
    rw [hdemand, rampDemand]
    simp only [if_pos h]
    rfl
  case down =>
    rw [hdemand, rampDemand]
    simp only [if_neg (Nat.lt_asymm h)]
    rfl
  case same =>
    rw [hdemand, rampDemand]
    simp only [h, Nat.lt_irrefl, if_false]
    rw [Nat.max_eq_left (Nat.sub_le _ _)]
  case halted =>
    show d.targetSpeed x.vPerm = 0
    rw [Dev.targetSpeed, h]
    rfl
  case calm =>
    obtain ⟨cs, hcs⟩ := Dev.faultsRaised_calm hband hauth
    obtain ⟨b, hhanded, hbd, hduty, hlevel, hrun, htimer, hband'⟩ := Dev.handedOn_live (d := { d with sup := d.evaluated, counters := cs })
      (s := x) hup hlatched hdown hheld
    have hsup : d.supervise = (d.handed x cs b).stationHandOver x.dStop x.exhausted := by
      rw [Dev.supervise_known hknown', hcs, hhanded]
      rfl
    have hlevel' : b.trainLevel = !d.bdu.trainLevel := hlevel
    by_cases hrunning : d.stc.state = .running
    · have hnear : ¬d.nearStop x.dStop := by
        rintro ⟨n, hn, hle⟩
        exact absurd hle (Int.not_le.mpr (hfar hrunning n hn))
      rw [Dev.stationHandOver_far (d := d.handed x cs b) hrunning hnear] at hsup
      refine ⟨_, hexec, ?_⟩
      rw [hsup]
      exact ⟨rfl, hbd, hduty, hlevel', hrun, htimer, hband', rfl, rfl, rfl, fun _ => rfl,
        fun h => absurd (hrunning.symm.trans h.1) (by decide), fun h => absurd hrunning h⟩
    · by_cases hnear : d.stc.state = .halted ∧ d.stc.remembered = some .running ∧ d.nearStop x.dStop
      · obtain ⟨hhalted, hremembered, hstop⟩ := id hnear
        rw [Dev.stationHandOver_halted (d := d.handed x cs b) hhalted hstop hremembered] at hsup
        refine ⟨_, hexec, ?_⟩
        rw [hsup]
        exact ⟨rfl, hbd, hduty, hlevel', hrun, htimer, hband', rfl, rfl, rfl, fun h => absurd h hrunning,
          fun _ => rfl, fun _ h => absurd hnear h⟩
      · rw [Dev.stationHandOver_other (d := d.handed x cs b) hrunning hnear] at hsup
        refine ⟨_, hexec, ?_⟩
        rw [hsup]
        exact ⟨rfl, hbd, hduty, hlevel', hrun, htimer, hband', rfl, rfl, rfl, fun h => absurd h hrunning,
          fun h => absurd h hnear, fun _ _ => rfl⟩
  case stopped =>
    have hsafe : d.bdu.latchSafeStop = false := by
      rw [Bdu.latched, Bool.or_eq_false_iff, Bool.or_eq_false_iff] at hlatched
      exact hlatched.1.1
    obtain ⟨hstopped, hspeed, hruns⟩ := Dev.faultsRaised_stopped hdemanding hsafe hover
    obtain ⟨hstopped', hzero, hduty, hfaults⟩ := hstopped.handedOn_stopped x
    have hsup : d.supervise = d.faultsRaised.handedOn x := by
      rw [Dev.supervise_known hknown']
      exact Dev.stationHandOver_other (by rw [hstopped'.state]; decide) (by rw [hstopped'.state]; rintro ⟨h, -⟩; cases h) _
    refine ⟨_, hexec, ?_⟩
    rw [hsup]
    have hactive (k : FaultKind) : (d.faultsRaised.handedOn x).faultActive k = d.faultsRaised.faultActive k := by
      rw [Dev.faultActive, hfaults]
      rfl
    rw [hactive, hactive]
    exact ⟨hspeed, hruns, hstopped'.state, hstopped'.latch, hstopped'.demand, hzero, hduty, hstopped'.train⟩

end Sys2Proof.Machine

/-! SUPPORT. The entry into APPROACH at an evaluation (R129, R133, R150). -/

namespace Sys2Proof.Machine

section
variable {d : Dev} {s : Sup}

/-- An evaluation counts no approach (R109). -/
theorem Dev.countEvaluation_approaches (d : Dev) (s : Sup) : (d.countEvaluation s).counters.length = d.counters.length
    ∧ (d.countEvaluation s).counter .approaches = d.counter .approaches := by
  have hbump {e : Dev} {c : Counter} (hc : c.index ≠ Counter.approaches.index)
      (he : e.counters.length = d.counters.length ∧ e.counter .approaches = d.counter .approaches) :
      (e.bump c).counters.length = d.counters.length ∧ (e.bump c).counter .approaches = d.counter .approaches :=
    ⟨(List.length_modify ..).trans he.1, (e.counter_bump_ne hc).trans he.2⟩
  have hmaybe {e : Dev} (p : Prop) [Decidable p] {c : Counter} (hc : c.index ≠ Counter.approaches.index)
      (he : e.counters.length = d.counters.length ∧ e.counter .approaches = d.counter .approaches) :
      (if p then e.bump c else e).counters.length = d.counters.length
        ∧ (if p then e.bump c else e).counter .approaches = d.counter .approaches := by
    split
    · exact hbump hc he
    · exact he
  exact hmaybe _ (by decide) (hmaybe _ (by decide) (hmaybe _ (by decide) (hmaybe _ (by decide)
    (hbump (c := .evaluationsTaken) (by decide) ⟨rfl, rfl⟩))))

/-- With the clamps up the hand-over changes BDU's record and DKC's D_stop alone (R111, R124). -/
theorem Dev.handedOn_up (hup : d.bdu.inClampsUp = true) (s : Sup) :
    ∃ b : Bdu, d.handedOn s = { d with bdu := b, dkc := { d.dkc with dStop := s.dStop } } := by
  let x : Dev := ({ d with bdu := { d.bdu with srcServiceBand := s.serviceBand } } : Dev).settle
  have hxup : x.bdu.inClampsUp = true := hup
  obtain ⟨b, hover⟩ : ∃ b : Bdu, x.handOver d.sup.demand = { d with bdu := b } := by
    refine ⟨_, if_neg ?_⟩
    show ¬(_ && !x.bdu.inClampsUp) = true
    rw [hxup, Bool.not_true, Bool.and_false]
    exact Bool.false_ne_true
  obtain ⟨b', hnotice⟩ : ∃ b' : Bdu, ({ d with bdu := b } : Dev).trainNotice = { d with bdu := b' } := by
    unfold Dev.trainNotice
    split
    · exact ⟨b, rfl⟩
    · exact ⟨_, rfl⟩
  exact ⟨b', by rw [show d.handedOn s = (x.handOver d.sup.demand).trainNotice.withDStop s.dStop from rfl, hover, hnotice, Dev.withDStop]⟩

/-- An evaluation that raises nothing, with the clamps up. -/
theorem Dev.supervise_calm (hknown : d.odo.known = true) (hband : d.evaluated.band ≠ .overspeed)
    (hauth : 0 ≤ d.evaluated.dAuth ∨ d.odo.standstill = true) (hup : d.bdu.inClampsUp = true) : ∃ (cs : List (BitVec 16)) (b : Bdu),
      d.supervise = (d.handed d.evaluated cs b).stationHandOver d.evaluated.dStop d.evaluated.exhausted
        ∧ cs.length = d.counters.length ∧ cs.getD Counter.approaches.index 0 = d.counter .approaches := by
  obtain ⟨cs, hcs⟩ := ({ d with sup := d.evaluated } : Dev).countEvaluation_changes d.sup
  obtain ⟨hlen, hcount⟩ := ({ d with sup := d.evaluated } : Dev).countEvaluation_approaches d.sup
  rw [hcs] at hlen hcount
  have hraised := (Dev.faultsRaised_counts hband hauth).trans hcs
  obtain ⟨b, hhanded⟩ := Dev.handedOn_up (d := { d with sup := d.evaluated, counters := cs }) hup d.evaluated
  refine ⟨cs, b, ?_, hlen, hcount⟩
  rw [Dev.supervise_known hknown, hraised, hhanded]
  rfl

/-- The entry into APPROACH, DKC with it (R129, R144). -/
theorem Dev.approach_entered (d : Dev) : (d.enterState .approach).dockApproach
    = (({ (d.entering .approach).settle with dkc := { d.dkc with sub := if d.dkc.anchored then .stopping else .creep } } : Dev).bump
      .approaches) := by
  rw [Dev.enterState_of_demanding rfl, Dev.dockApproach, Dev.setDock]
  have hdkc : (d.entering .approach).settle.dkc = d.dkc := d.entering_dkc (by decide) (by decide)
  rw [hdkc]

end

/-- Settles O49: the hand-over that raises nothing, then the station's and DKC's entry. -/
theorem entryIntoApproach : Obligations.EntryIntoApproach := by
  intro s d x hdue hknown hup hband hauth n hstop hle dock
  have hexec := exec_supervision s hdue
  obtain ⟨cs, b, hsup, hlen, hcount⟩ := Dev.supervise_calm (d.odo.known_iff.mpr hknown) hband hauth hup
  have hnear : (d.handed x cs b).nearStop x.dStop := ⟨n, hstop, hle⟩
  have hdock : ({ (d.handed x cs b).dkc with sub := if (d.handed x cs b).dkc.anchored then .stopping else .creep } : Dkc) = dock := by
    show ({ d.dkc with dStop := x.dStop, sub := if d.dkc.anchored then .stopping else .creep } : Dkc) = dock
    rw [hstop]
  constructor
  · intro hrunning
    rw [Dev.stationHandOver_near (d := d.handed x cs b) hrunning hnear, Dev.approach_entered] at hsup
    generalize hy : Dev.bump _ .approaches = y at hsup
    have hydkc : y.dkc = dock := by
      rw [← hy, ← hdock]
      rfl
    have hend : y.endOfApproach = y.dockStandstill := by
      have hsub : y.dkc.sub = .stopping ∨ y.dkc.sub = .creep := by
        rw [hydkc]
        simp only [dock]
        split
        · exact .inl rfl
        · exact .inr rfl
      unfold Dev.dockStandstill
      obtain h | h := hsub <;> rw [h]
    refine ⟨y, hexec.trans ?_, ?_, hydkc, ?_, ?_, ?_, ?_, ?_, fun hcounters => ?_, fun hmoves => ?_⟩
    · rw [show s.dev.supervise = y.endOfApproach from hsup, hend]
    · rw [← hy]
      rfl
    iterate 5
      rw [← hy]
      rfl
    · rw [← hy, Dev.counter_bump]
      · exact congrArg satInc hcount
      · show Counter.approaches.index < cs.length
        rw [hlen, hcounters]
        decide
    · rw [← hend, Dev.endOfApproach, if_neg]
      rw [← hy]
      show ¬(_ && d.odo.standstill) = true
      rw [hmoves, Bool.and_false]
      exact Bool.false_ne_true
  · intro hhalted hremembered
    rw [Dev.stationHandOver_halted (d := d.handed x cs b) hhalted hnear hremembered] at hsup
    refine ⟨_, hexec, ?_⟩
    rw [hsup]
    exact ⟨rfl, hdock, rfl, rfl, rfl⟩

end Sys2Proof.Machine

/-! SUPPORT. The chain and the authority limit of an evaluation (R91 to R96). -/

namespace Sys2Proof.Machine

section
variable {d : Dev} {r : Route} {front : Int} {k m : Nat}

theorem Dev.usableIdx_iff (d : Dev) (k : Nat) : d.usableIdx k = true ↔ ∃ c ∈ d.cle.table, c.idx = some k ∧ c.isHeld = true
    ∧ ((findSection d.tmp.sections c.sec).any (fun q => q.kind == .points) = true → c.points = .locked) := by
  simp only [Dev.usableIdx, Dev.usable, Dev.isPoints, List.any_eq_true, Bool.and_eq_true, beq_iff_eq, Bool.or_eq_true,
    Bool.not_eq_true']
  refine exists_congr fun c => and_congr_right fun _ => and_congr_right fun _ => and_congr_right fun _ => ?_
  cases Option.any (fun q : SectionRec => q.kind == .points) (findSection d.tmp.sections c.sec) <;> simp

/-- The chain's entries are the usable ones from its first on, up to the first that is not (R92). -/
theorem Dev.chainFrom_getElem (l : List RouteEntry) (j m : Nat) (hm : m ≤ l.length) (hall : ∀ i, i < m → d.usableIdx (j + i) = true)
    (hend : m < l.length → ¬d.usableIdx (j + m) = true) :
    (d.chainFrom j l).length = m ∧ ∀ i, i < m → (d.chainFrom j l)[i]? = l[i]?.map (fun e => (j + i, e)) := by
  induction l generalizing j m with
  | nil =>
    obtain rfl : m = 0 := Nat.le_zero.mp hm
    exact ⟨rfl, fun i hi => absurd hi (Nat.not_lt_zero i)⟩
  | cons e rest ih =>
    cases m with
    | zero =>
      have hstop : d.chainFrom j (e :: rest) = [] := if_neg (hend (Nat.succ_pos _))
      rw [hstop]
      exact ⟨rfl, fun i hi => absurd hi (Nat.not_lt_zero i)⟩
    | succ m =>
      have hgo : d.chainFrom j (e :: rest) = (j, e) :: d.chainFrom (j + 1) rest := if_pos (hall 0 (Nat.succ_pos m))
      obtain ⟨hlen, hget⟩ := ih (j + 1) m (Nat.le_of_succ_le_succ hm)
        (fun i hi => by rw [Nat.add_right_comm]; exact hall (i + 1) (Nat.succ_lt_succ hi))
        (fun hlt => by rw [Nat.add_right_comm]; exact hend (Nat.succ_lt_succ hlt))
      rw [hgo]
      refine ⟨congrArg Nat.succ hlen, fun i hi => ?_⟩
      cases i with
      | zero => rfl
      | succ i =>
        rw [List.getElem?_cons_succ, List.getElem?_cons_succ, hget i (Nat.lt_of_succ_lt_succ hi), Nat.add_right_comm]
        rfl

/-- The first entry that holds the front extent begins the chain (R92). -/
theorem holderIdx_some {g : RouteEntry} (hfront : front < r.total) (hk : r.entries[k]? = some g) (h0 : (g.c0 : Int) < front)
    (h1 : front ≤ g.c1) (hfirst : ∀ (i : Nat) (g' : RouteEntry), i < k → r.entries[i]? = some g' → ¬((g'.c0 : Int) < front ∧ front ≤ g'.c1)) :
    holderIdx r front = some (k + 1) := by
  rw [holderIdx, if_neg (Int.not_le.mpr hfront)]
  have hfind : r.entries.findIdx? (fun e => decide ((e.c0 : Int) < front) && decide (front ≤ (e.c1 : Int))) = some k := by
    obtain ⟨hlt, hget⟩ := List.getElem?_eq_some_iff.mp hk
    rw [List.findIdx?_eq_some_iff_getElem]
    refine ⟨hlt, by rw [hget]; simp [h0, h1], fun i hi => ?_⟩
    have := hfirst i _ hi (List.getElem?_eq_getElem (Nat.lt_trans hi hlt))
    simpa using this
  rw [hfind]
  rfl

theorem holderIdx_none (h : ∀ g ∈ r.entries, ¬((g.c0 : Int) < front ∧ front ≤ g.c1)) : holderIdx r front = none := by
  unfold holderIdx
  split
  · rfl
  · rw [Option.map_eq_none_iff, List.findIdx?_eq_none_iff]
    exact fun g hg => by simpa using h g hg

/-- A coordinate lies in the first entry whose upper end is not below it (R88). -/
theorem Dev.limitPoint_at (d : Dev) (x : Int) {j : Nat} {e : RouteEntry} (hj : r.entries[j]? = some e) (h1 : x ≤ e.c1)
    (hfirst : ∀ (i : Nat) (g : RouteEntry), i < j → r.entries[i]? = some g → (g.c1 : Int) < x) : d.limitPoint r x = some
      { idx := some (j + 1), sec := e.sec, offset := (match e.dir with
        | .towardB => x - e.c0
        | .towardA => (e.c0 : Int) + legLength d.tmp.sections e.sec e.leg - x) / 1000 } := by
  have hfind : r.entries.findIdx? (fun e => decide (x ≤ (e.c1 : Int))) = some j := by
    obtain ⟨hlt, hget⟩ := List.getElem?_eq_some_iff.mp hj
    rw [List.findIdx?_eq_some_iff_getElem]
    refine ⟨hlt, by rw [hget]; simp [h1], fun i hi => ?_⟩
    have := hfirst i _ hi (List.getElem?_eq_getElem (Nat.lt_trans hi hlt))
    simpa using this
  unfold Dev.limitPoint
  simp only [hfind, Option.map_some, Option.getD_some, Nat.add_sub_cancel, hj] <;> rfl

end

/-- An evaluation's distances with an order current, in CORRECT and outside it (R92 to R96). -/
theorem Dev.distances_correct {d : Dev} {o : Order} (ho : d.stc.order = some o) (h : d.dkc.sub = .correct) :
    d.distances = { chain := [], limit := none, dAuth := 0
                    dStop := some (d.distanceMm (d.refCoord o.route) o.route.padCoord)
                    dist := min (d.distanceMm (d.refCoord o.route) o.route.padCoord) Config.distanceCap } := by
  rw [Dev.distances, ho]
  simp only [h, beq_self_eq_true, if_true]

theorem Dev.distances_chain {d : Dev} {o : Order} (ho : d.stc.order = some o) (h : d.dkc.sub ≠ .correct)
    {chain : List (Nat × RouteEntry)} (hc : d.chain o.route (d.frontCoord o.route) = chain) :
    d.distances.chain = chain ∧ d.distances.limit = d.limitOf o.route (d.frontCoord o.route) chain
      ∧ d.distances.dAuth = (if chain.isEmpty then 0 else
          d.distanceMm (d.frontCoord o.route) (d.limitCoord o.route (d.frontCoord o.route) chain))
      ∧ d.distances.dStop = (if padReached o.route (d.frontCoord o.route) chain then
          some (d.distanceMm (d.refCoord o.route) o.route.padCoord) else none) := by
  have hb : ¬(d.dkc.sub == .correct) = true := by simpa using h
  subst hc
  unfold Dev.distances
  simp only [ho]
  rw [if_neg hb]
  exact ⟨rfl, rfl, rfl, rfl⟩

theorem Dev.distances_dist {d : Dev} {o : Order} (ho : d.stc.order = some o) (h : d.dkc.sub ≠ .correct) :
    d.distances.dist = min (d.distances.dStop.elim d.distances.dAuth (min d.distances.dAuth)) Config.distanceCap := by
  have hb : ¬(d.dkc.sub == .correct) = true := by simpa using h
  unfold Dev.distances
  simp only [ho]
  rw [if_neg hb]
  cases padReached o.route (d.frontCoord o.route) (d.chain o.route (d.frontCoord o.route)) <;> rfl

/-- The pad's entry is in a chain of `m` entries from the holder on, or is the holder or one behind it (R95). -/
theorem padReached_iff {r : Route} {front : Int} {k m : Nat} {chain : List (Nat × RouteEntry)} (hold : holderIdx r front = some (k + 1))
    (hlen : chain.length = m) (hget : ∀ i, i < m → ∃ e, chain[i]? = some (k + 1 + i, e)) :
    padReached r front chain = true ↔ r.padIdx ≤ k + max m 1 := by
  have hany : chain.any (fun c => c.1 == r.padIdx) = true ↔ k + 1 ≤ r.padIdx ∧ r.padIdx < k + 1 + m := by
    rw [List.any_eq_true]
    constructor
    · rintro ⟨c, hc, hidx⟩
      obtain ⟨i, hi⟩ := List.mem_iff_getElem?.mp hc
      have hlt : i < m := hlen ▸ (List.getElem?_eq_some_iff.mp hi).1
      obtain ⟨e, he⟩ := hget i hlt
      obtain rfl := Option.some.inj (hi.symm.trans he)
      have : k + 1 + i = r.padIdx := by simpa using hidx
      omega
    · rintro ⟨hle, hlt⟩
      obtain ⟨e, he⟩ := hget (r.padIdx - (k + 1)) (by omega)
      exact ⟨_, List.mem_of_getElem? he, by simp only [beq_iff_eq]; omega⟩
  rw [padReached, hold, Bool.or_eq_true, hany, decide_eq_true_eq]
  omega

/-- Settles O46: the distances by where the front extent lies. -/
theorem authorityFollowsTheChain : Obligations.AuthorityFollowsTheChain := by
  intro s o d r n hdue hknown ho front apart stop usable limitAt extent
  obtain ⟨n', w, hsup, -⟩ := Dev.supervise_sup (d.odo.known_iff.mpr hknown)
  refine ⟨_, exec_supervision s hdue, ?_⟩
  show let x := d.supervise.sup; _
  rw [hsup]
  have hlimit (x : Int) : limitAt x (d.limitPoint r x) := fun j e hj _ h1 hfirst => d.limitPoint_at x hj h1 hfirst
  refine ⟨fun y hy => ?some, fun hy => ?none, fun hcorrect => ?correct, fun hsub hend => ?atEnd, fun hsub hlt hno => ?outside,
    fun k m g hsub hlt hk h0 h1 hfirst hkm hall hstop => ?chain⟩
  case some =>
    show d.distances.dist = _
    have hy' : d.distances.dStop = some y := hy
    by_cases hcorrect : d.dkc.sub = .correct
    · rw [if_pos hcorrect]
      have hd := Dev.distances_correct ho hcorrect
      rw [hd] at hy' ⊢
      rw [← Option.some.inj hy']
    · rw [if_neg hcorrect, Dev.distances_dist ho hcorrect, hy']
      rfl
  case none =>
    have hy' : d.distances.dStop = none := hy
    by_cases hcorrect : d.dkc.sub = .correct
    · rw [Dev.distances_correct ho hcorrect] at hy'
      exact absurd hy' (Option.some_ne_none _)
    · show d.distances.dist = _
      rw [Dev.distances_dist ho hcorrect, hy']
      rfl
  case correct =>
    have hd := Dev.distances_correct ho hcorrect
    exact ⟨congrArg (fun z : Distances => z.chain.length) hd, congrArg Distances.dAuth hd, congrArg Distances.dStop hd,
      congrArg Distances.limit hd⟩
  case atEnd =>
    have hhold : holderIdx r front = none := if_pos hend
    have hchain : d.chain r front = [] := by rw [Dev.chain, hhold]
    obtain ⟨hc, hl, ha, hs⟩ := Dev.distances_chain ho hsub hchain
    have hreached : padReached r front [] = true := by
      rw [padReached, hhold]
      exact decide_eq_true hend
    have hlim : d.limitOf r front [] = d.limitPoint r r.total := by
      rw [Dev.limitOf, if_neg (by simp [Int.not_lt.mpr hend]), Dev.limitCoord, if_pos hend]
    exact ⟨congrArg List.length hc, ha, hs.trans (if_pos hreached), by rw [show d.evaluated.authLimit = _ from hl, hlim]; exact hlimit _⟩
  case outside =>
    have hhold : holderIdx r front = none := holderIdx_none hno
    have hchain : d.chain r front = [] := by rw [Dev.chain, hhold]
    obtain ⟨hc, hl, ha, hs⟩ := Dev.distances_chain ho hsub hchain
    have hreached : ¬padReached r front [] = true := by
      rw [padReached, hhold]
      simpa using hlt
    have hlim : d.limitOf r front [] = some d.extentLimit := if_pos (by simpa using hlt)
    exact ⟨congrArg List.length hc, ha, hs.trans (if_neg hreached), hl.trans hlim⟩
  case chain =>
    have hhold : holderIdx r front = some (k + 1) := holderIdx_some hlt hk h0 h1 hfirst
    have hdrop : (r.entries.drop k).length = n - k := List.length_drop
    obtain ⟨hlen, hget⟩ := Dev.chainFrom_getElem (d := d) (r.entries.drop k) (k + 1) m (by omega)
      (fun i hi => (d.usableIdx_iff _).mpr (by rw [Nat.add_right_comm]; exact hall i hi))
      (fun hm h => hstop (by omega) (by rw [Nat.add_right_comm] at h; exact (d.usableIdx_iff _).mp h))
    generalize hch : d.chainFrom (k + 1) (r.entries.drop k) = chain at hlen hget
    have hchain : d.chain r front = chain := by
      rw [Dev.chain, hhold]
      exact hch
    have hget' (i : Nat) (hi : i < m) : ∃ e, r.entries[k + i]? = some e ∧ chain[i]? = some (k + 1 + i, e) := by
      have hin : k + i < r.entries.length := by omega
      refine ⟨r.entries[k + i], List.getElem?_eq_getElem hin, ?_⟩
      rw [hget i hi, List.getElem?_drop, List.getElem?_eq_getElem hin]
      rfl
    obtain ⟨hc, hl, ha, hs⟩ := Dev.distances_chain ho hsub hchain
    have hreached := padReached_iff hhold hlen fun i hi => (hget' i hi).imp fun _ h => h.2
    have hempty (hm : 0 < m) : chain.isEmpty = false := by
      cases chain with
      | nil => exact absurd hlen.symm (Nat.ne_of_gt hm)
      | cons c l => rfl
    have hlimOf (hm : 0 < m) : d.limitOf r front chain = d.limitPoint r (d.limitCoord r front chain) :=
      if_neg (by rw [hempty hm, Bool.and_false]; exact Bool.false_ne_true)
    have hlast (hm : 0 < m) : ∃ e, r.entries[k + m - 1]? = some e ∧ chain.getLast? = some (k + m, e) := by
      obtain ⟨e, he, hci⟩ := hget' (m - 1) (by omega)
      refine ⟨e, by rw [← he]; congr 1; omega, ?_⟩
      rw [List.getLast?_eq_getElem?, hlen, hci]
      congr 2
      omega
    refine ⟨(congrArg List.length hc).trans hlen, fun hm => ?_, fun hm hkm' => ?_, fun last hm hkm' hlast' => ?_, fun hpad => ?_, fun hpad => ?_⟩
    · obtain rfl : chain = [] := List.eq_nil_of_length_eq_zero (hlen.trans hm)
      exact ⟨ha, hl.trans (if_pos (by simpa using hlt))⟩
    · obtain ⟨e, -, hl'⟩ := hlast hm
      have hcoord : d.limitCoord r front chain = r.total := by
        rw [Dev.limitCoord, if_neg (Int.not_le.mpr hlt), hl']
        exact if_pos hkm'
      rw [hcoord, hempty hm] at ha
      rw [hlimOf hm, hcoord] at hl
      exact ⟨ha, by rw [show d.evaluated.authLimit = _ from hl]; exact hlimit _⟩
    · obtain ⟨e, he, hl'⟩ := hlast hm
      obtain rfl := Option.some.inj (he.symm.trans hlast')
      intro short
      have hcoord : d.limitCoord r front chain = short := by
        rw [Dev.limitCoord, if_neg (Int.not_le.mpr hlt), hl']
        refine (if_neg (Nat.ne_of_lt hkm')).trans ?_
        simp only [short, Nat.cast_mul]
        rfl
      rw [hcoord, hempty hm] at ha
      rw [hlimOf hm, hcoord] at hl
      exact ⟨ha, by rw [show d.evaluated.authLimit = _ from hl]; exact hlimit _⟩
    · exact hs.trans (if_pos (hreached.mpr hpad))
    · exact hs.trans (if_neg (mt hreached.mp (Nat.not_le.mpr hpad)))

end Sys2Proof.Machine

/-! SUPPORT. The deceleration, the terms of the permitted speed and the target of an evaluation (R97 to R102). -/

namespace Sys2Proof.Machine

/-! ### Lowest values -/

theorem foldl_min_least {α : Type} [LinearOrder α] (l : List α) (x : α) :
    l.foldl min x ∈ x :: l ∧ ∀ y ∈ x :: l, l.foldl min x ≤ y := by
  induction l generalizing x with
  | nil => exact ⟨List.mem_cons_self, fun y hy => (List.mem_singleton.mp hy).ge⟩
  | cons a l ih =>
    rw [List.foldl_cons]
    obtain ⟨hmem, hle⟩ := ih (min x a)
    have hmin := hle _ List.mem_cons_self
    refine ⟨?_, fun y hy => ?_⟩
    · obtain heq | hin := List.mem_cons.mp hmem
      · rw [heq]
        obtain hx | ha := min_choice x a
        · rw [hx]
          exact List.mem_cons_self
        · rw [ha]
          exact List.mem_cons_of_mem x List.mem_cons_self
      · exact List.mem_cons_of_mem x (List.mem_cons_of_mem a hin)
    · obtain rfl | hy := List.mem_cons.mp hy
      · exact hmin.trans (min_le_left ..)
      · obtain rfl | hy := List.mem_cons.mp hy
        · exact hmin.trans (min_le_right ..)
        · exact hle y (List.mem_cons_of_mem _ hy)

theorem lowestGrade_least {l : List Int} (h : l ≠ []) : lowestGrade l ∈ l ∧ ∀ g ∈ l, lowestGrade l ≤ g := by
  obtain ⟨g, rest, rfl⟩ := List.exists_cons_of_ne_nil h
  exact foldl_min_least rest g

theorem leastOf_least {l : List Nat} (h : l ≠ []) (n : Nat) : (leastOf l).getD n ∈ l ∧ ∀ m ∈ l, (leastOf l).getD n ≤ m := by
  obtain ⟨x, rest, rfl⟩ := List.exists_cons_of_ne_nil h
  rw [leastOf_cons, Option.getD_some]
  exact foldl_min_least rest x

/-- The first of the lowest terms is taken (R101). -/
theorem lowestTerm_head {t : Nat × Binding} {l : List (Nat × Binding)} (h : ∀ x ∈ l, t.1 ≤ x.1) : lowestTerm (t :: l) = t := by
  show l.foldl (fun m x => if x.1 < m.1 then x else m) t = t
  induction l with
  | nil => rfl
  | cons a l ih =>
    rw [List.foldl_cons, if_neg (Nat.not_lt.mpr (h a List.mem_cons_self))]
    exact ih fun x hx => h x (List.mem_cons_of_mem a hx)

/-- A term higher than the one after it is not the lowest (R101). -/
theorem lowestTerm_skip {t u : Nat × Binding} (l : List (Nat × Binding)) (h : u.1 < t.1) :
    lowestTerm (t :: u :: l) = lowestTerm (u :: l) := by
  show (u :: l).foldl (fun m x => if x.1 < m.1 then x else m) t = _
  rw [List.foldl_cons, if_pos h]
  rfl

/-! ### The effective deceleration (R97) -/

/-- A lower grade has a lower effective deceleration (R97). -/
theorem effectiveDecel_mono (asv : Nat) {g h : Int} (hle : g ≤ h) : effectiveDecel asv g ≤ effectiveDecel asv h := by
  unfold effectiveDecel ceilDiv
  have hup : 9807 * g.toNat / 1000 ≤ 9807 * h.toNat / 1000 :=
    Nat.div_le_div_right (Nat.mul_le_mul_left _ (Int.toNat_le_toNat hle))
  show max 50 (if g < 0 then asv - (9807 * g.natAbs + 1000 - 1) / 1000 else asv + 9807 * g.toNat / 1000)
    ≤ max 50 (if h < 0 then asv - (9807 * h.natAbs + 1000 - 1) / 1000 else asv + 9807 * h.toNat / 1000)
  split <;> split <;> omega

/-- The effective deceleration of the lowest grade is the lowest of the effective decelerations. -/
theorem effectiveDecel_lowest (asv : Nat) {l : List Int} (h : l ≠ []) :
    (∀ a ∈ l.map (effectiveDecel asv), effectiveDecel asv (lowestGrade l) ≤ a)
      ∧ effectiveDecel asv (lowestGrade l) ∈ l.map (effectiveDecel asv) := by
  obtain ⟨hmem, hle⟩ := lowestGrade_least h
  refine ⟨fun a ha => ?_, List.mem_map_of_mem hmem⟩
  obtain ⟨g, hg, rfl⟩ := List.mem_map.mp ha
  exact effectiveDecel_mono asv (hle g hg)

/-! ### The footprint and the chain -/

/-- Stretches gathered under their sections leave none without a stretch. -/
theorem gather_stretches {l : List Stretch} (h : l ≠ []) : (gather l).flatMap (·.parts) ≠ [] := by
  obtain ⟨x, xs, rfl⟩ := List.exists_cons_of_ne_nil h
  have hdedup : dedupBy (fun s : Stretch => s.sec) [] (x :: xs) = x :: dedupBy (fun s : Stretch => s.sec) [x.sec] xs := rfl
  rw [gather, hdedup, List.map_cons, List.flatMap_cons,
    List.filter_cons_of_pos (p := fun s : Stretch => s.sec == x.sec) (beq_self_eq_true x.sec), List.eraseDups_cons]
  exact List.cons_ne_nil _ _

/-- The footprint covers a stretch: that around its reference point (R13). -/
theorem footprintOf_stretches (secs : List SectionRec) (route : List RouteEntry) (ref : Point) (half : Nat) :
    (footprintOf secs route ref half).stretches ≠ [] :=
  gather_stretches fun h => List.cons_ne_nil _ _ (List.append_eq_nil_iff.mp (List.append_eq_nil_iff.mp h).1).2

theorem Footprint.sections_of_stretches {f : Footprint} (h : f.stretches ≠ []) : f.sections ≠ [] := by
  intro hnil
  refine h ?_
  rw [Footprint.stretches, List.map_eq_nil_iff.mp hnil]
  rfl

section
variable {d : Dev}

/-- The chain is a run of the entries that it is formed over (R92). -/
theorem Dev.chainFrom_entries (d : Dev) (l : List RouteEntry) (j : Nat) :
    (d.chainFrom j l).map (·.2) = l.take (d.chainFrom j l).length := by
  induction l generalizing j with
  | nil => rfl
  | cons e rest ih =>
    by_cases h : d.usableIdx j = true
    · have hgo : d.chainFrom j (e :: rest) = (j, e) :: d.chainFrom (j + 1) rest := if_pos h
      rw [hgo, List.map_cons, List.length_cons, List.take_succ_cons, ih]
    · have hstop : d.chainFrom j (e :: rest) = [] := if_neg h
      rw [hstop]
      rfl

/-- The coordinate of the front extent; 0 with no order. -/
def Dev.orderFront (d : Dev) : Int :=
  match d.stc.order with
  | some o => d.frontCoord o.route
  | none => 0

/-- The entries of an evaluation's chain stand in the route from the first that holds the front extent on (R92). -/
theorem Dev.distances_entries (hsub : d.dkc.sub ≠ .correct) : d.distances.chain.map (·.2)
    = (d.routeEntries.drop ((d.routeEntries.findIdx? (fun g => decide ((g.c0 : Int) < d.orderFront ∧ d.orderFront ≤ g.c1))).getD
        d.routeEntries.length)).take d.distances.chain.length := by
  cases ho : d.stc.order with
  | none =>
    have hchain : d.distances.chain = [] := by rw [Dev.distances, ho]
    rw [hchain]
    rfl
  | some o =>
    have hroute : d.routeEntries = o.route.entries := by rw [Dev.routeEntries, ho]
    have hfront : d.orderFront = d.frontCoord o.route := by rw [Dev.orderFront, ho]
    rw [(Dev.distances_chain ho hsub rfl).1, hroute, hfront]
    generalize d.frontCoord o.route = front
    simp only [Bool.decide_and]
    unfold Dev.chain holderIdx
    by_cases htotal : (o.route.total : Int) ≤ front
    · rw [if_pos htotal]
      rfl
    · rw [if_neg htotal]
      cases hfind : o.route.entries.findIdx? (fun g => decide ((g.c0 : Int) < front) && decide (front ≤ (g.c1 : Int))) with
      | none => rfl
      | some k => exact d.chainFrom_entries _ _

/-! ### The terms of the permitted speed (R98 to R101) -/

theorem Dev.speedLimit_eq (d : Dev) (n : Nat) :
    d.speedLimit n = ((findSection d.tmp.sections n).map (·.speedLimit)).getD d.tmp.plan.lineMax := by
  unfold Dev.speedLimit
  cases findSection d.tmp.sections n <;> rfl

/-- The section limit is the lowest of the limits under the footprint (R99). -/
theorem Dev.sectionLimit_least (d : Dev) : (∀ n ∈ d.footprint.sections, d.sectionLimit d.footprint ≤ d.speedLimit n)
    ∧ ∃ n ∈ d.footprint.sections, d.sectionLimit d.footprint = d.speedLimit n := by
  have hne : d.footprint.sections.map d.speedLimit ≠ [] := fun h =>
    (Footprint.sections_of_stretches (footprintOf_stretches _ _ _ _) : d.footprint.sections ≠ []) (List.map_eq_nil_iff.mp h)
  obtain ⟨hmem, hle⟩ := leastOf_least hne d.tmp.plan.lineMax
  obtain ⟨n, hn, heq⟩ := List.mem_map.mp hmem
  exact ⟨fun n hn => hle _ (List.mem_map_of_mem hn), n, hn, heq.symm⟩

theorem Dev.lt_sectionLimit_iff (d : Dev) (v : Nat) :
    v < d.sectionLimit d.footprint ↔ ∀ n ∈ d.footprint.sections, v < d.speedLimit n := by
  obtain ⟨hle, n, hn, heq⟩ := d.sectionLimit_least
  exact ⟨fun h n hn => Nat.lt_of_lt_of_le h (hle n hn), fun h => heq ▸ h n hn⟩

theorem brakingCurve_mul_self_le (v a : Nat) (x : Int) : brakingCurve v a x * brakingCurve v a x ≤ v * v + 2 * a * x.toNat :=
  isqrt_mul_self_le _

theorem lt_succ_brakingCurve_mul_self (v a : Nat) (x : Int) :
    v * v + 2 * a * x.toNat < (brakingCurve v a x + 1) * (brakingCurve v a x + 1) :=
  lt_succ_isqrt_mul_self _

/-- A section of the chain ahead whose limit is lower than those under the footprint (R99). -/
def Dev.limitedBy (d : Dev) (g : RouteEntry) : Prop :=
  g ∈ d.distances.chain.map (·.2) ∧ d.orderFront ≤ g.c0 ∧ ∀ n ∈ d.footprint.sections, d.speedLimit g.sec < d.speedLimit n

/-- The limit curve of a section of the chain (R99). -/
def Dev.limitCurve (d : Dev) (g : RouteEntry) : Nat :=
  brakingCurve (d.speedLimit g.sec) d.evaluated.aEff
    (min (Config.distanceCap : Int) (d.distanceMm d.orderFront g.c0) - d.evaluated.rd)

/-- The approach curve's speed at a D_stop (R100). -/
def Dev.approachSpeed (d : Dev) (y : Int) : Nat :=
  brakingCurve d.tmp.carriage.creep d.evaluated.aEff (min (Config.distanceCap : Int) (y - d.tmp.carriage.approach) - d.evaluated.rd)

theorem Dev.mem_limitCurves (d : Dev) (t : Nat × Binding) :
    t ∈ d.limitCurves d.orderFront (d.sectionLimit d.footprint) d.evaluated.aEff d.evaluated.rd d.distances.chain
      ↔ ∃ g, d.limitedBy g ∧ t = (d.limitCurve g, .limitCurve g.sec) := by
  simp only [Dev.limitCurves, List.mem_filterMap, Bool.and_eq_true, decide_eq_true_eq, Option.ite_none_right_eq_some, Option.some.injEq,
    Dev.lt_sectionLimit_iff, Dev.limitedBy, List.mem_map]
  constructor
  · rintro ⟨c, hc, ⟨hfront, hlim⟩, rfl⟩
    exact ⟨c.2, ⟨⟨c, hc, rfl⟩, hfront, hlim⟩, rfl⟩
  · rintro ⟨_, ⟨⟨c, hc, rfl⟩, hfront, hlim⟩, rfl⟩
    exact ⟨c, hc, ⟨hfront, hlim⟩, rfl⟩

theorem Dev.mem_approachCurve (d : Dev) (t : Nat × Binding) :
    t ∈ d.approachCurve d.evaluated.dStop d.evaluated.aEff d.evaluated.rd
      ↔ ∃ y, d.evaluated.dStop = some y ∧ (d.tmp.carriage.approach : Int) < y ∧ t = (d.approachSpeed y, .approachCurve) := by
  unfold Dev.approachCurve
  cases d.evaluated.dStop with
  | none => simp
  | some y =>
    by_cases h : (d.tmp.carriage.approach : Int) < y
    · simp [h, Dev.approachSpeed]
    · simp [h]

theorem Dev.speedTerms_eq (d : Dev) : d.speedTerms = (d.tmp.plan.lineMax, .line) :: (d.sectionLimit d.footprint, .sectionLimit)
    :: (d.limitCurves d.orderFront (d.sectionLimit d.footprint) d.evaluated.aEff d.evaluated.rd d.distances.chain
      ++ [(d.evaluated.vCurve, .curve)] ++ d.approachCurve d.evaluated.dStop d.evaluated.aEff d.evaluated.rd
      ++ (if d.creepCapped d.evaluated.dStop then [(d.tmp.carriage.creep, .creep)] else [])) := rfl

theorem Dev.mem_speedTerms (d : Dev) (t : Nat × Binding) : t ∈ d.speedTerms ↔ t = (d.tmp.plan.lineMax, .line)
    ∨ t = (d.sectionLimit d.footprint, .sectionLimit) ∨ (∃ g, d.limitedBy g ∧ t = (d.limitCurve g, .limitCurve g.sec))
    ∨ t = (d.evaluated.vCurve, .curve)
    ∨ (∃ y, d.evaluated.dStop = some y ∧ (d.tmp.carriage.approach : Int) < y ∧ t = (d.approachSpeed y, .approachCurve))
    ∨ (d.creepCapped d.evaluated.dStop = true ∧ t = (d.tmp.carriage.creep, .creep)) := by
  rw [Dev.speedTerms_eq]
  simp only [List.mem_cons, List.mem_append, Dev.mem_limitCurves, Dev.mem_approachCurve, List.mem_ite_nil_right, or_false, or_assoc,
    List.not_mem_nil]

/-- Of equal terms the line's binds, then the section limit (R101). -/
theorem Dev.binding_line (h : d.evaluated.vPerm = d.tmp.plan.lineMax) : d.evaluated.binding = .line := by
  have hhead : lowestTerm d.speedTerms = (d.tmp.plan.lineMax, .line) := by
    rw [Dev.speedTerms_eq]
    refine lowestTerm_head fun x hx => ?_
    rw [← h]
    exact Dev.vPerm_le (by rw [Dev.speedTerms_eq]; exact List.mem_cons_of_mem _ hx)
  exact congrArg Prod.snd (d.evaluated_term.trans hhead)

theorem Dev.binding_section (h : d.evaluated.vPerm < d.tmp.plan.lineMax) (hlim : d.evaluated.vPerm = d.sectionLimit d.footprint) :
    d.evaluated.binding = .sectionLimit := by
  have hhead : lowestTerm d.speedTerms = (d.sectionLimit d.footprint, .sectionLimit) := by
    rw [Dev.speedTerms_eq, lowestTerm_skip _ (hlim ▸ h)]
    refine lowestTerm_head fun x hx => ?_
    rw [← hlim]
    exact Dev.vPerm_le (by rw [Dev.speedTerms_eq]; exact List.mem_cons_of_mem _ (List.mem_cons_of_mem _ hx))
  exact congrArg Prod.snd (d.evaluated_term.trans hhead)

theorem Dev.creepCapped_iff (d : Dev) (o : Option Int) : d.creepCapped o = true ↔ d.odo.pos.validity = .restricted
    ∨ (d.stc.order.isSome = true ∧ (d.stc.state = .approach ∨ d.stc.state = .docking
      ∨ ∃ y, o = some y ∧ y ≤ (d.tmp.carriage.approach : Int))) := by
  simp only [Dev.creepCapped, Bool.or_eq_true, Bool.and_eq_true, beq_iff_eq, Option.any_eq_true, decide_eq_true_eq, or_assoc]

/-- The target outside CORRECT (R102). -/
theorem Dev.targetSpeed_eq (hsub : d.dkc.sub ≠ .correct) (v : Nat) :
    ((d.stc.state = .running ∨ d.stc.state = .approach) ∧ d.stc.abortPending = false →
        d.targetSpeed v = min (d.sup.vOrder.getD 0) v)
      ∧ (¬((d.stc.state = .running ∨ d.stc.state = .approach) ∧ d.stc.abortPending = false) → d.targetSpeed v = 0) := by
  have hb : (d.dkc.sub == .correct) = false := by simpa using hsub
  unfold Dev.targetSpeed
  cases d.stc.state <;> cases d.stc.abortPending <;> simp [hb]

end

/-- The direction of travel through a stretch outside a correction (R97). -/
theorem Dev.stretchDirection_eq {d : Dev} (hsub : d.dkc.sub ≠ .correct) (x : Stretch) : d.stretchDirection x
    = match x.idx.bind (fun k => d.routeEntries[k - 1]?) with
      | some e => e.dir
      | none => x.dir := by
  have hb : (d.dkc.sub == .correct) = false := by simpa using hsub
  unfold Dev.stretchDirection
  cases x.idx.bind (fun k => d.routeEntries[k - 1]?) with
  | none => rfl
  | some e => simp only [hb, Bool.false_and, Bool.false_eq_true, if_false]

theorem Dev.gradeOf_eq (d : Dev) (n : Nat) (dir : Direction) : d.gradeOf n dir = match findSection d.tmp.sections n with
    | some q => if dir = .towardB then q.grade else -q.grade
    | none => 0 := by
  unfold Dev.gradeOf
  cases findSection d.tmp.sections n with
  | none => rfl
  | some q => cases dir <;> rfl

/-- a_eff is the lowest that a stretch under the footprint or a section of the chain gives (R97). -/
theorem Dev.aEff_lowest (d : Dev) :
    let decels := (d.footprint.stretches.map (fun z => d.gradeOf z.sec (d.stretchDirection z))
      ++ d.distances.chain.map (fun c => d.gradeOf c.2.sec c.2.dir)).map (effectiveDecel d.tmp.carriage.serviceDecel)
    (∀ a ∈ decels, d.evaluated.aEff ≤ a) ∧ d.evaluated.aEff ∈ decels :=
  effectiveDecel_lowest _ fun h => (footprintOf_stretches _ _ _ _ : d.footprint.stretches ≠ [])
    (List.map_eq_nil_iff.mp (List.append_eq_nil_iff.mp h).1)

/-- No term is below the permitted speed (R101). -/
theorem Dev.vPerm_terms (d : Dev) : d.evaluated.vPerm ≤ d.tmp.plan.lineMax
    ∧ d.evaluated.vPerm ≤ d.sectionLimit d.footprint
    ∧ d.evaluated.vPerm ≤ d.evaluated.vCurve ∧ (∀ g, d.limitedBy g → d.evaluated.vPerm ≤ d.limitCurve g)
    ∧ (∀ y, d.evaluated.dStop = some y → (d.tmp.carriage.approach : Int) < y → d.evaluated.vPerm ≤ d.approachSpeed y)
    ∧ (d.creepCapped d.evaluated.dStop = true → d.evaluated.vPerm ≤ d.tmp.carriage.creep) := by
  have hle : ∀ (v : Nat) (b : Binding), (v, b) ∈ d.speedTerms → d.evaluated.vPerm ≤ v := fun v b h => Dev.vPerm_le h
  simp only [Dev.mem_speedTerms, Prod.mk.injEq] at hle
  generalize d.evaluated.vPerm = v at hle ⊢
  exact ⟨hle _ _ (.inl ⟨rfl, rfl⟩), hle _ _ (.inr (.inl ⟨rfl, rfl⟩)), hle _ _ (.inr (.inr (.inr (.inl ⟨rfl, rfl⟩)))),
    fun g hg => hle _ _ (.inr (.inr (.inl ⟨g, hg, rfl, rfl⟩))),
    fun y hy hfar => hle _ _ (.inr (.inr (.inr (.inr (.inl ⟨y, hy, hfar, rfl, rfl⟩))))),
    fun hcap => hle _ _ (.inr (.inr (.inr (.inr (.inr ⟨hcap, rfl, rfl⟩)))))⟩

/-- What a binding says of the permitted speed (R101). -/
def Dev.bound (d : Dev) (v : Nat) : Binding → Prop
  | .line => v = d.tmp.plan.lineMax
  | .sectionLimit => v < d.tmp.plan.lineMax ∧ v = d.sectionLimit d.footprint
  | .limitCurve n => ∃ g, d.limitedBy g ∧ g.sec = n ∧ v = d.limitCurve g
  | .curve => v = d.evaluated.vCurve
  | .approachCurve => ∃ y, d.evaluated.dStop = some y ∧ (d.tmp.carriage.approach : Int) < y ∧ v = d.approachSpeed y
  | .creep => d.creepCapped d.evaluated.dStop = true ∧ v = d.tmp.carriage.creep
  | .stopped => False

/-- The permitted speed is the term that the binding names (R101). -/
theorem Dev.vPerm_bound (d : Dev) : d.bound d.evaluated.vPerm d.evaluated.binding := by
  have hmem : (d.evaluated.vPerm, d.evaluated.binding) ∈ d.speedTerms := d.evaluated_term ▸ lowestTerm_mem (List.cons_ne_nil _ _)
  have hline := Dev.binding_line (d := d)
  have hmax := d.vPerm_terms.1
  generalize d.evaluated.vPerm = v, d.evaluated.binding = b at hmem hline hmax ⊢
  obtain h | h | ⟨g, hg, h⟩ | h | ⟨y, hy, hfar, h⟩ | ⟨hcap, h⟩ := (d.mem_speedTerms _).mp hmem <;> obtain ⟨hv, rfl⟩ := Prod.mk.inj h
  · exact hv
  · exact ⟨Nat.lt_of_le_of_ne hmax fun h => absurd (hline h) (by decide), hv⟩
  · exact ⟨g, hg, rfl, hv⟩
  · exact hv
  · exact ⟨y, hy, hfar, hv⟩
  · exact ⟨hcap, hv⟩

/-- Settles O47: the lowest of the decelerations, and the first lowest of the terms of the permitted speed, read off term by term. -/
theorem permittedSpeedIsTheLowestTerm : Obligations.PermittedSpeedIsTheLowestTerm := by
  intro s d c secs hdue hknown hsub grade decel way front first
  obtain ⟨n, w, hsup, -⟩ := Dev.supervise_sup (d.odo.known_iff.mpr hknown)
  refine ⟨_, exec_supervision s hdue, ?_⟩
  rw [hsup]
  intro x chain decels curve lim ahead limited near capped go
  have hlim : ∀ n, d.speedLimit n = lim n := d.speedLimit_eq
  have hchain : d.distances.chain.map (·.2) = chain := d.distances_entries hsub
  have hlimited : ∀ g, d.limitedBy g ↔ limited g := fun g => by
    unfold Dev.limitedBy
    simp only [hchain, hlim]
    rfl
  have hlimitCurve : ∀ g, d.limitCurve g = brakingCurve (lim g.sec) d.evaluated.aEff
      (min (Config.distanceCap : Int) (d.distanceMm d.orderFront g.c0) - d.evaluated.rd) := fun g => by
    rw [Dev.limitCurve, hlim]
  have hcapped : d.creepCapped d.evaluated.dStop = true ↔ capped := d.creepCapped_iff _
  have hgrade : ∀ n dir, d.gradeOf n dir = grade n dir := d.gradeOf_eq
  have hdecels : (d.footprint.stretches.map (fun z => d.gradeOf z.sec (d.stretchDirection z))
      ++ d.distances.chain.map (fun c => d.gradeOf c.2.sec c.2.dir)).map (effectiveDecel d.tmp.carriage.serviceDecel) = decels := by
    have hone : ∀ g, effectiveDecel d.tmp.carriage.serviceDecel g = decel g := fun g => by
      rw [effectiveDecel, ceilDiv]
      rfl
    rw [List.map_append, List.map_map, List.map_map]
    refine congrArg₂ (· ++ ·) (List.map_congr_left fun z _ => ?_) (?_ : _ = chain.map (fun g => decel (grade g.sec g.dir)))
    · show effectiveDecel _ (d.gradeOf z.sec (d.stretchDirection z)) = _
      exact (hone _).trans (congrArg decel ((hgrade ..).trans (congrArg (grade z.sec) (Dev.stretchDirection_eq hsub z))))
    · rw [← hchain, List.map_map]
      exact List.map_congr_left fun c _ => by
        show effectiveDecel _ (d.gradeOf c.2.sec c.2.dir) = decel (grade c.2.sec c.2.dir)
        rw [hone, hgrade]
  obtain ⟨hdecel, hdecelMem⟩ := hdecels ▸ d.aEff_lowest
  obtain ⟨hline, hsection, hcurve, hcurves, happroach, hcreep⟩ := d.vPerm_terms
  obtain ⟨hgo, hstop⟩ := Dev.targetSpeed_eq hsub d.evaluated.vPerm
  refine ⟨hdecel, hdecelMem, hline, ?limits, hcurve, ?curves, ?approach, fun h => hcreep (hcapped.mpr h), ?binding,
    Dev.binding_line, ?sections, hgo, hstop⟩
  case limits => exact fun n hn => (hsection.trans (d.sectionLimit_least.1 n hn)).trans_eq (hlim n)
  case curves =>
    intro g hg
    exact (Nat.mul_self_le_mul_self (hcurves g ((hlimited g).mpr hg))).trans (hlimitCurve g ▸ brakingCurve_mul_self_le ..)
  case approach =>
    exact fun y hy hfar => (Nat.mul_self_le_mul_self (happroach y hy hfar)).trans (brakingCurve_mul_self_le ..)
  case binding =>
    have hbound : d.bound x.vPerm x.binding := d.vPerm_bound
    generalize x.binding = b at hbound ⊢
    cases b with
    | line => exact hbound
    | sectionLimit =>
      obtain ⟨n, hn, hleast⟩ := d.sectionLimit_least.2
      exact ⟨hbound.1, n, hn, hbound.2.trans (hleast.trans (hlim n))⟩
    | limitCurve n =>
      obtain ⟨g, hg, rfl, hv⟩ := hbound
      refine ⟨g, (hlimited g).mp hg, rfl, ?_⟩
      rw [hv, hlimitCurve]
      exact lt_succ_brakingCurve_mul_self ..
    | curve => exact hbound
    | approachCurve =>
      obtain ⟨y, hy, hfar, hv⟩ := hbound
      refine ⟨y, hy, hfar, ?_⟩
      rw [hv]
      exact lt_succ_brakingCurve_mul_self ..
    | creep => exact ⟨hcapped.mp hbound.1, hbound.2⟩
    | stopped => exact hbound
  case sections =>
    intro n hn hlt heq
    refine Dev.binding_section hlt (Nat.le_antisymm hsection ?_)
    exact (d.sectionLimit_least.1 n hn).trans_eq ((hlim n).trans heq.symm)

end Sys2Proof.Machine

/-! SUPPORT. What the Claim Engine gives back within one event (R79 to R81). -/

namespace Sys2Proof.Machine

/-! ### What an operation leaves of the line and of DEADLOCK -/

section
variable {d : Dev}

theorem Dev.abandon_room (d : Dev) (c : Claim) :
    (d.abandon c).lif.active = d.lif.active ∧ (d.abandon c).lif.queue.length ≤ d.lif.queue.length := by
  unfold Dev.abandon
  split
  · refine ⟨?_, ?_⟩
    · rw [Dev.withdraw, Lif.follow_changes]
    · rw [Dev.withdraw, Lif.follow_changes]
      exact List.length_filter_le _ _
  all_goals exact ⟨rfl, Nat.le_refl _⟩

theorem Dev.foldl_abandon_room (l : List Claim) (d : Dev) :
    (l.foldl Dev.abandon d).lif.active = d.lif.active ∧ (l.foldl Dev.abandon d).lif.queue.length ≤ d.lif.queue.length := by
  induction l generalizing d with
  | nil => exact ⟨rfl, Nat.le_refl _⟩
  | cons c l ih =>
    obtain ⟨hact, hlen⟩ := ih (d.abandon c)
    obtain ⟨hact', hlen'⟩ := d.abandon_room c
    exact ⟨hact.trans hact', hlen.trans hlen'⟩

/-- DEADLOCK stays as it is or ends; nothing else of the claims changes (R77). -/
theorem Dev.tidyDeadlock_cle (d : Dev) : d.tidyDeadlock.cle = d.cle ∨ d.tidyDeadlock.cle = { d.cle with deadlock := none } := by
  unfold Dev.tidyDeadlock
  split
  · exact .inr (Dev.causeEnded_cle ..)
  · exact .inl rfl

theorem Dev.endDeadlock_cle (d : Dev) : d.endDeadlock.cle = { d.cle with deadlock := none } := by
  unfold Dev.endDeadlock
  split
  · exact Dev.causeEnded_cle ..
  · next h =>
    have hnone : d.cle.deadlock = none := by simpa using h
    rw [← hnone]

theorem Dev.endDeadlock_lif (d : Dev) : d.endDeadlock.lif = d.lif := by
  unfold Dev.endDeadlock Dev.causeEnded
  split
  · split <;> rfl
  · rfl

end

/-! ### Giving back -/

/-- Within an event that began with `d`, the part has come to `e`: the claims are those of `c` with the table `t`, where DEADLOCK may
have ended, and the sections `l` have been given back. -/
structure Dev.Gives (d e : Dev) (c : Cle) (t : List Claim) (l : List Nat) : Prop where
  apart : d.claimsApart e
  cle : ∃ dl, (c.deadlock = none → dl = none) ∧ e.cle = { c with table := t, gathering := some l, deadlock := dl }
  active : e.lif.active = d.lif.active
  queue : e.lif.queue.length ≤ d.lif.queue.length

namespace Dev.Gives
variable {d e : Dev} {c : Cle} {t : List Claim} {l : List Nat}

theorem begun (d : Dev) : d.Gives d.gatheringNone d.cle d.cle.table [] where
  apart := (claimWork_apart d).cle _ d.claimsApart_refl
  cle := ⟨_, id, rfl⟩
  active := rfl
  queue := Nat.le_refl _

theorem table (h : d.Gives e c t l) : e.cle.table = t := by
  obtain ⟨dl, -, hcle⟩ := h.cle
  rw [hcle]

theorem gathering (h : d.Gives e c t l) : e.cle.gathering = some l := by
  obtain ⟨dl, -, hcle⟩ := h.cle
  rw [hcle]

theorem view (h : d.Gives e c t l) : e.cle.view = c.view := by
  obtain ⟨dl, -, hcle⟩ := h.cle
  rw [hcle]

theorem pending (h : d.Gives e c t l) : e.cle.abortPending = c.abortPending := by
  obtain ⟨dl, -, hcle⟩ := h.cle
  rw [hcle]

theorem odo (h : d.Gives e c t l) : e.odo = d.odo := by
  obtain ⟨_, _, _, _, _, rfl, -⟩ := h.apart
  rfl

theorem underOwn (h : d.Gives e c t l) (n : Nat) : e.underOwn n = d.underOwn n := by
  obtain ⟨_, _, _, _, _, rfl, -⟩ := h.apart
  rfl

theorem tidyDeadlock (h : d.Gives e c t l) : d.Gives e.tidyDeadlock c t l where
  apart := (claimWork_apart d).tidyDeadlock h.apart
  cle := by
    obtain ⟨dl, hnone, hcle⟩ := h.cle
    obtain hsame | hended := e.tidyDeadlock_cle
    · exact ⟨dl, hnone, hsame.trans hcle⟩
    · exact ⟨none, fun _ => rfl, by rw [hended, hcle]⟩
  active := by rw [Dev.tidyDeadlock_lif]; exact h.active
  queue := by rw [Dev.tidyDeadlock_lif]; exact h.queue

/-- Entries dropped are not given back. -/
theorem dropClaims (h : d.Gives e c t l) (p : Claim → Bool) : d.Gives (e.dropClaims p) c (t.filter (fun x => !p x)) l := by
  obtain ⟨dl, hnone, hcle⟩ := h.cle
  obtain ⟨hact, hlen⟩ := Dev.foldl_abandon_room (e.cle.table.filter p) e
  have hapart : d.claimsApart ((e.cle.table.filter p).foldl Dev.abandon e) :=
    foldl_keeps (fun x y hx => (claimWork_apart d).abandon y hx) _ _ h.apart
  have hsame := Dev.foldl_abandon_cle (e.cle.table.filter p) e
  refine tidyDeadlock ⟨(claimWork_apart d).cle _ hapart, ⟨dl, hnone, ?_⟩, hact.trans h.active, hlen.trans h.queue⟩
  refine (congrArg (fun y : Cle => { y with table := y.table.filter (fun x => !p x) }) hsame).trans ?_
  rw [hcle]

theorem dropUnheld (h : d.Gives e c t l) : d.Gives e.dropUnheld c (t.filter (fun x => x.isHeld)) l := by
  have hfilter : t.filter (fun x => x.isHeld) = t.filter (fun x => !!x.isHeld) :=
    List.filter_congr fun x _ => (Bool.not_not _).symm
  exact hfilter ▸ h.dropClaims _

/-- HELD entries given back leave the table and are gathered (R81). -/
theorem releaseClaims (h : d.Gives e c t l) (p : Claim → Bool) : d.Gives (e.releaseClaims p) c
    (t.filter (fun x => !(x.isHeld && p x))) (l ++ (t.filter (fun x => x.isHeld && p x)).map (·.sec)) := by
  obtain ⟨dl, hnone, hcle⟩ := h.cle
  have hannounced : ∀ s : List Nat, ({ e with cle := { e.cle with table := e.cle.table.filter (fun x => !(x.isHeld && p x)) } } : Dev).announceRelease s
      = { e with cle := { e.cle with table := e.cle.table.filter (fun x => !(x.isHeld && p x)), gathering := some (l ++ s) } } :=
    fun s => by
      rw [Dev.announceRelease]
      simp only [h.gathering]
  rw [Dev.releaseClaims, hannounced]
  exact tidyDeadlock ⟨(claimWork_apart d).cle _ h.apart, ⟨dl, hnone, by rw [hcle]⟩, h.active, h.queue⟩

theorem releaseOutside (h : d.Gives e c t l) : d.Gives e.releaseOutside c (t.filter (fun x => !(x.isHeld && !d.underOwn x.sec)))
    (l ++ (t.filter (fun x => x.isHeld && !d.underOwn x.sec)).map (·.sec)) := by
  have hgives := h.releaseClaims (fun x => !e.underOwn x.sec)
  simp only [h.underOwn] at hgives
  simpa only [Dev.releaseOutside, h.underOwn] using hgives

theorem endDeadlock (h : d.Gives e c t l) : d.Gives e.endDeadlock { c with deadlock := none } t l where
  apart := (claimWork_apart d).endDeadlock h.apart
  cle := by
    obtain ⟨dl, -, hcle⟩ := h.cle
    exact ⟨none, fun _ => rfl, by rw [Dev.endDeadlock_cle, hcle]⟩
  active := by rw [Dev.endDeadlock_lif]; exact h.active
  queue := by rw [Dev.endDeadlock_lif]; exact h.queue

/-- A change of the claims beside what has been given back. -/
theorem withCle (h : d.Gives e c t l) {c' x : Cle} {t' : List Claim}
    (hx : ∃ dl, (c'.deadlock = none → dl = none) ∧ x = { c' with table := t', gathering := some l, deadlock := dl }) :
    d.Gives { e with cle := x } c' t' l :=
  ⟨(claimWork_apart d).cle _ h.apart, hx, h.active, h.queue⟩

end Dev.Gives

/-! ### The end of the event -/

section
variable {d e : Dev} {act : Dev → Dev} {p : Claim → Bool} {c : Cle} {t : List Claim} {l : List Nat}

/-- An event that gave back some of the entries that the table held at its start, in whatever order, announces them in table order
(R81). -/
theorem Dev.event_gives (hok : d.cle.ok) (h : act d.gatheringNone = e) (hl : e.cle.gathering = some l)
    (hgone : ∀ n, n ∈ l ↔ ∃ x ∈ d.cle.table, p x = true ∧ x.sec = n) : Dev.event act d
      = ({ e with cle := { e.cle with gathering := d.cle.gathering } } : Dev).sendRelease ((d.cle.table.filter p).map (·.sec)) := by
  have hgathered : e.cle.gathered = l := by rw [Cle.gathered, hl]; rfl
  have hinner : (d.cle.table.map (·.sec)).filter (fun n => l.contains n) = (d.cle.table.filter p).map (·.sec) := by
    rw [List.filter_map]
    refine congrArg (List.map _) (List.filter_congr fun x hx => ?_)
    rw [Bool.eq_iff_iff]
    simp only [Function.comp, List.contains_eq_mem, decide_eq_true_eq, hgone]
    constructor
    · rintro ⟨z, hz, hp, hs⟩
      rwa [← Cle.sec_inj hok hz hx hs]
    · exact fun hp => ⟨x, hx, hp, rfl⟩
  have houter : l.filter (fun n => !(d.cle.table.map (·.sec)).contains n) = [] := by
    rw [List.filter_eq_nil_iff]
    intro n hn
    obtain ⟨z, hz, -, rfl⟩ := (hgone n).mp hn
    have : z.sec ∈ d.cle.table.map (·.sec) := List.mem_map_of_mem hz
    simpa using this
  have hlen : ((d.cle.table.filter p).map (·.sec)).length ≤ Config.maxClaims := by
    rw [List.length_map]
    exact (List.length_filter_le _ _).trans hok.1
  have hact : act { d with cle := { d.cle with gathering := some [] } } = e := h
  unfold Dev.event
  simp only [hact, hgathered, hinner, houter, List.append_nil, List.take_of_length_le hlen, List.drop_of_length_le hlen,
    Dev.sendRelease_nil]

/-- One RELEASE that names all that the event gave back, in table order, is queued when there is room (R81). -/
def Dev.announces (d e : Dev) (p : Claim → Bool) : Prop :=
  d.cle.table.filter p ≠ [] → d.lif.hasRoom → ∃ y ∈ e.lif.queue, y.kind = .release ∧ y.dest = 0
    ∧ y.payload = BitVec.ofNat 8 (d.cle.table.filter p).length :: (d.cle.table.filter p).map (fun x => BitVec.ofNat 8 x.sec)

/-- What an event that gives entries back leaves: its claims, and one RELEASE. -/
theorem Dev.Gives.ended (hok : d.cle.ok) (h : d.Gives (act d.gatheringNone) c t l)
    (hgone : ∀ n, n ∈ l ↔ ∃ x ∈ d.cle.table, p x = true ∧ x.sec = n) :
    (Dev.event act d).cle.table = t ∧ (Dev.event act d).cle.view = c.view ∧ (Dev.event act d).cle.abortPending = c.abortPending
      ∧ (Dev.event act d).cle.lossCount = c.lossCount ∧ (c.deadlock = none → (Dev.event act d).cle.deadlock = none)
      ∧ d.announces (Dev.event act d) p := by
  rw [Dev.event_gives hok rfl h.gathering hgone]
  obtain ⟨dl, hdl, hcle⟩ := h.cle
  generalize hx : ({ act d.gatheringNone with cle := { (act d.gatheringNone).cle with gathering := d.cle.gathering } } : Dev) = x
  have hxcle : x.cle = { c with table := t, gathering := d.cle.gathering, deadlock := dl } := by rw [← hx, hcle]
  have hroom : d.lif.hasRoom → x.lif.hasRoom := fun hr => by
    rw [← hx]
    exact ⟨h.active.trans hr.1, Nat.lt_of_le_of_lt h.queue hr.2⟩
  have hqueued : d.announces (x.sendRelease ((d.cle.table.filter p).map (·.sec))) p := fun hne hr => by
    obtain ⟨y, hy, hk, hd, hp⟩ := Dev.sendRelease_queued (d := x) (secs := (d.cle.table.filter p).map (·.sec)) (hroom hr) (by simpa using hne)
    refine ⟨y, hy, hk, hd, ?_⟩
    rw [hp, releasePayload, List.length_map, List.map_map]
    rfl
  obtain ⟨n, q, tx, cs, heq⟩ := Dev.sendRelease_changes x ((d.cle.table.filter p).map (·.sec))
  rw [heq] at hqueued ⊢
  exact ⟨(congrArg Cle.table hxcle :), (congrArg Cle.view hxcle :), (congrArg Cle.abortPending hxcle :), (congrArg Cle.lossCount hxcle :),
    fun hnone => (congrArg Cle.deadlock hxcle :).trans (hdl hnone), hqueued⟩

end

end Sys2Proof.Machine

/-! SUPPORT. CLE at standstill and at the end of an order (R79, R80). -/

namespace Sys2Proof.Machine

/-- A HELD entry that is not under the footprint (R79, R80). -/
def Dev.outside (d : Dev) (x : Claim) : Bool :=
  x.isHeld && !d.underOwn x.sec

section
variable {d e : Dev} {c : Cle} {t : List Claim} {l : List Nat}

theorem Dev.settleAbort_calm (h : ¬(e.cle.abortPending = true ∧ e.odo.standstill = true ∧ e.odo.known = true)) : e.settleAbort = e := by
  rw [Dev.settleAbort, if_neg (by simpa only [Bool.and_eq_true, and_assoc] using h)]

theorem Dev.claimsAtStandstill_calm (h : ¬(e.cle.view = none ∧ e.odo.known = true)) : e.claimsAtStandstill = e := by
  rw [Dev.claimsAtStandstill, if_neg (by simpa only [Bool.and_eq_true, Option.isNone_iff_eq_none] using h)]

namespace Dev.Gives

/-- The pending ABORT gives back what lies off the footprint, and clears (R80). -/
theorem settleAbort (h : d.Gives e c t l) (ha : c.abortPending = true) (hs : d.odo.standstill = true) (hk : d.odo.known = true) :
    d.Gives e.settleAbort { c with abortPending := false } (t.filter (fun x => !d.outside x)) (l ++ (t.filter d.outside).map (·.sec)) := by
  have hif : (e.cle.abortPending && e.odo.standstill && e.odo.known) = true := by rw [h.pending, h.odo, ha, hs, hk]; rfl
  obtain ⟨dl, hnone, hcle⟩ := h.releaseOutside.cle
  rw [Dev.settleAbort, if_pos hif]
  exact h.releaseOutside.withCle ⟨dl, hnone, by rw [hcle]; rfl⟩

/-- The release at standstill, with no order current (R79). -/
theorem claimsAtStandstill (h : d.Gives e c t l) (hv : c.view = none) (hk : d.odo.known = true) :
    d.Gives e.claimsAtStandstill c (t.filter (fun x => x.isHeld && d.underOwn x.sec)) (l ++ (t.filter d.outside).map (·.sec)) := by
  have hif : (e.cle.view.isNone && e.odo.known) = true := by rw [h.view, h.odo, hv, hk]; rfl
  have hfilter : (t.filter (fun x => !(x.isHeld && !d.underOwn x.sec))).filter (fun x => x.isHeld)
      = t.filter (fun x => x.isHeld && d.underOwn x.sec) := by
    rw [List.filter_filter]
    exact List.filter_congr fun x _ => by cases x.isHeld <;> cases d.underOwn x.sec <;> rfl
  rw [Dev.claimsAtStandstill, if_pos hif]
  exact hfilter ▸ h.releaseOutside.dropUnheld

end Dev.Gives

/-- The sections of the entries outside are those that an event gives back. -/
theorem Dev.mem_outside (d : Dev) (t : List Claim) (n : Nat) :
    n ∈ [] ++ (t.filter d.outside).map (·.sec) ↔ ∃ x ∈ t, d.outside x = true ∧ x.sec = n := by
  simp only [List.nil_append, List.mem_map, List.mem_filter, and_assoc]

/-- The entries that stay have none outside among them. -/
theorem Dev.stays_outside (d : Dev) (t : List Claim) : (t.filter (fun x => !d.outside x)).filter d.outside = [] := by
  rw [List.filter_eq_nil_iff]
  intro x hx
  simpa using (List.mem_filter.mp hx).2

/-! ### Standstill becomes true (R79, R80) -/

/-- What standstill leaves of the claims in each case. -/
theorem Dev.claimsStandstill_gives (hok : d.cle.ok) (hk : d.odo.known = true) :
    let e := d.claimsStandstill
    let aborts : Prop := d.cle.abortPending = true ∧ d.odo.standstill = true
    (aborts → d.cle.view.isSome = true → e.cle.table = d.cle.table.filter (fun x => !d.outside x))
      ∧ (d.cle.view = none → e.cle.table = d.cle.table.filter (fun x => x.isHeld && d.underOwn x.sec))
      ∧ e.cle.abortPending = (d.cle.abortPending && !d.odo.standstill)
      ∧ (aborts ∨ d.cle.view = none → d.announces e d.outside) := by
  intro e aborts
  have hbegun := Dev.Gives.begun d
  by_cases ha : aborts
  · have hsettled := hbegun.settleAbort ha.1 ha.2 hk
    have hpending : (d.cle.abortPending && !d.odo.standstill) = false := by rw [ha.1, ha.2]; rfl
    cases hv : d.cle.view with
    | some v =>
      have hact : d.Gives (d.gatheringNone.settleAbort.claimsAtStandstill) _ _ _ :=
        (Dev.claimsAtStandstill_calm (e := d.gatheringNone.settleAbort) fun h => by rw [hsettled.view, hv] at h; cases h.1).symm ▸ hsettled
      obtain ⟨htable, -, hp, -, -, hrel⟩ := hact.ended (act := fun d => d.settleAbort.claimsAtStandstill) hok (d.mem_outside _)
      exact ⟨fun _ _ => htable, fun h => (Option.some_ne_none v h).elim, hp.trans hpending.symm, fun _ => hrel⟩
    | none =>
      have hact := hsettled.claimsAtStandstill hv hk
      rw [Dev.stays_outside, List.filter_filter] at hact
      have hfilter : d.cle.table.filter (fun x => x.isHeld && d.underOwn x.sec && !d.outside x)
          = d.cle.table.filter (fun x => x.isHeld && d.underOwn x.sec) :=
        List.filter_congr fun x _ => by rw [Dev.outside]; cases x.isHeld <;> cases d.underOwn x.sec <;> rfl
      obtain ⟨htable, -, hp, -, -, hrel⟩ := hact.ended (act := fun d => d.settleAbort.claimsAtStandstill) hok
        (fun n => by rw [List.map_nil, List.append_nil]; exact d.mem_outside _ n)
      exact ⟨fun _ h => absurd h (by decide), fun _ => htable.trans hfilter, hp.trans hpending.symm, fun _ => hrel⟩
  · have hcalm : d.gatheringNone.settleAbort = d.gatheringNone := Dev.settleAbort_calm fun h => ha ⟨h.1, h.2.1⟩
    have hpending : (d.cle.abortPending && !d.odo.standstill) = d.cle.abortPending := by
      cases hp : d.cle.abortPending with
      | false => rfl
      | true =>
        cases hs : d.odo.standstill with
        | false => rfl
        | true => exact absurd ⟨hp, hs⟩ ha
    cases hv : d.cle.view with
    | some v =>
      have hidle : e = d := Dev.event_idle (show d.gatheringNone.settleAbort.claimsAtStandstill = _ by
        rw [hcalm]
        exact Dev.claimsAtStandstill_calm fun h => (Option.some_ne_none v (hv.symm.trans h.1)).elim)
      exact ⟨fun h => absurd h ha, fun h => (Option.some_ne_none v h).elim, by rw [hidle, hpending],
        fun h => (h.elim ha fun h => (Option.some_ne_none v h).elim).elim⟩
    | none =>
      have hact := hbegun.claimsAtStandstill hv hk
      rw [← hcalm] at hact
      obtain ⟨htable, -, hp, -, -, hrel⟩ := hact.ended (act := fun d => d.settleAbort.claimsAtStandstill) hok (d.mem_outside _)
      exact ⟨fun h => absurd h ha, fun _ => htable, hp.trans hpending.symm, fun _ => hrel⟩

theorem Dev.claimsStandstill_calm (h : ¬(d.odo.known = true)
    ∨ (¬(d.cle.abortPending = true ∧ d.odo.standstill = true) ∧ d.cle.view.isSome = true)) : d.claimsStandstill = d := by
  have hcalm : d.gatheringNone.settleAbort = d.gatheringNone :=
    Dev.settleAbort_calm fun hx => h.elim (fun h => h hx.2.2) fun h => h.1 ⟨hx.1, hx.2.1⟩
  have hstays : d.gatheringNone.claimsAtStandstill = d.gatheringNone := by
    refine Dev.claimsAtStandstill_calm fun hx => h.elim (fun h => h hx.2) fun h => ?_
    have hnone : d.cle.view = none := hx.1
    rw [hnone] at h
    exact absurd h.2 (by decide)
  exact Dev.event_idle (show d.gatheringNone.settleAbort.claimsAtStandstill = _ by rw [hcalm, hstays])

/-! ### The end of an order (R79) -/

/-- The claims' table once the order has ended, before any release. -/
theorem Cle.mem_afterOrder (c : Cle) (order : List Nat) (x : Claim) :
    x ∈ (c.afterOrder order).table ↔ ∃ y ∈ c.table, x = y.afterOrder := by
  rw [Cle.afterOrder, (Dev.shrinks.realign_perm _ order).mem_iff, List.mem_map]
  exact exists_congr fun y => and_congr_right fun _ => eq_comm

theorem Dev.outside_afterOrder (d : Dev) (x : Claim) : d.outside x.afterOrder = d.outside x := rfl

/-- What the end of an order leaves of the claims. -/
theorem Dev.claimsOrderEnd_gives (hok : d.cle.ok) :
    let z := d.claimsOrderEnd
    (z.cle.view = none ∧ z.cle.lossCount = 0 ∧ z.cle.deadlock = none)
      ∧ (d.odo.standstill = false ∨ ¬d.odo.known = true →
        ∀ x, x ∈ z.cle.table ↔ ∃ y ∈ d.cle.table, y.isHeld = true ∧ x = y.afterOrder)
      ∧ (d.odo.standstill = true → d.odo.known = true →
        (∀ x, x ∈ z.cle.table ↔ ∃ y ∈ d.cle.table.filter (fun y => y.isHeld && d.underOwn y.sec), x = y.afterOrder)
          ∧ d.announces z d.outside) := by
  intro z
  have hdropped := (Dev.Gives.begun d).dropUnheld.endDeadlock
  obtain ⟨dl, hdl, hcle⟩ := hdropped.cle
  obtain rfl := hdl rfl
  let x := d.gatheringNone.dropUnheld.endDeadlock
  let order := if x.odo.known then x.footprint.sections else []
  let t := (x.cle.afterOrder order).table
  have hended : d.Gives { x with cle := x.cle.afterOrder order } { d.cle with deadlock := none, view := none, lossCount := 0 } t [] :=
    hdropped.withCle ⟨none, id, by
      show { { x.cle with view := none, lossCount := 0, table := x.cle.table.map Claim.afterOrder } with table := t } = _
      rw [hcle]⟩
  have hmem : ∀ y, y ∈ t ↔ ∃ z ∈ d.cle.table, z.isHeld = true ∧ y = z.afterOrder := fun y => by
    show y ∈ (x.cle.afterOrder order).table ↔ _
    rw [Cle.mem_afterOrder, hdropped.table]
    simp only [List.mem_filter, and_assoc]
  generalize hact : ({ x with cle := x.cle.afterOrder order } : Dev) = w at hended
  let act (d : Dev) : Dev :=
    let d := d.dropUnheld.endDeadlock
    let d := { d with cle := d.cle.afterOrder (if d.odo.known then d.footprint.sections else []) }
    if d.odo.standstill then d.claimsAtStandstill else d
  have hz : z = Dev.event act d := rfl
  have hacted : act d.gatheringNone = if w.odo.standstill then w.claimsAtStandstill else w := by rw [← hact]
  have hodo : w.odo = d.odo := hended.odo
  by_cases h : d.odo.standstill = true ∧ d.odo.known = true
  · have hreleased := hended.claimsAtStandstill rfl h.2
    rw [← hacted.trans (if_pos (hodo ▸ h.1))] at hreleased
    obtain ⟨htable, hview, -, hloss, hdead, hrel⟩ := hreleased.ended (p := d.outside) hok fun n => by
      rw [Dev.mem_outside]
      constructor
      · rintro ⟨y, hy, ho, rfl⟩
        obtain ⟨y', hy', -, rfl⟩ := (hmem y).mp hy
        exact ⟨y', hy', ho, rfl⟩
      · rintro ⟨y, hy, ho, rfl⟩
        have hheld : y.isHeld = true := (Bool.and_eq_true .. ▸ ho : _ ∧ _).1
        exact ⟨y.afterOrder, (hmem _).mpr ⟨y, hy, hheld, rfl⟩, ho, rfl⟩
    refine ⟨⟨hview, hloss, hdead rfl⟩, fun hn => ?_, fun _ _ => ⟨fun y => ?_, hrel⟩⟩
    · exact (hn.elim (fun hf => Bool.false_ne_true (hf.symm.trans h.1)) fun hn => hn h.2).elim
    · rw [hz, htable, List.mem_filter, hmem]
      simp only [List.mem_filter, Bool.and_eq_true]
      constructor
      · rintro ⟨⟨y', hy', hheld, rfl⟩, -, hunder⟩
        exact ⟨y', ⟨hy', hheld, hunder⟩, rfl⟩
      · rintro ⟨y', ⟨hy', hheld, hunder⟩, rfl⟩
        exact ⟨⟨y', hy', hheld, rfl⟩, hheld, hunder⟩
  · have hstays : act d.gatheringNone = w := by
      rw [hacted]
      split
      · next hs => exact Dev.claimsAtStandstill_calm fun hx => h ⟨hodo ▸ hs, hodo ▸ hx.2⟩
      · rfl
    rw [← hstays] at hended
    obtain ⟨htable, hview, -, hloss, hdead, -⟩ := hended.ended (p := fun _ => false) hok fun n =>
      ⟨fun hn => absurd hn List.not_mem_nil, fun ⟨_, _, hf, _⟩ => absurd hf Bool.false_ne_true⟩
    refine ⟨⟨hview, hloss, hdead rfl⟩, fun _ y => ?_, fun hs hk => absurd ⟨hs, hk⟩ h⟩
    rw [hz, htable, hmem]

theorem Dev.claimsApart_frame (h : d.claimsApart e) :
    e.odo = d.odo ∧ e.stc = d.stc ∧ e.sup = d.sup ∧ e.peers = d.peers ∧ e.dkc = d.dkc ∧ e.tmp = d.tmp := by
  obtain ⟨_, _, _, _, _, rfl, -⟩ := h
  exact ⟨rfl, rfl, rfl, rfl, rfl, rfl⟩

/-- With no docking under way and no ABORT pending, standstill is an event of CLE's alone. -/
theorem Dev.standstillChanged_claims (hs : d.odo.standstill = true) (hdkc : d.dkc.sub ∉ [DockState.creep, .stopping, .check, .correct])
    (ha : d.stc.abortPending = false) : d.standstillChanged false = d.claimsStandstill := by
  obtain ⟨-, hstc, -, -, hdock, -⟩ := Dev.claimsApart_frame ((claimWork_apart d).claimsStandstill d.claimsApart_refl)
  have hdocked : d.claimsStandstill.dockStandstill = d.claimsStandstill := by
    rw [Dev.dockStandstill, hdock]
    cases hsub : d.dkc.sub <;> simp only [hsub, List.mem_cons, List.not_mem_nil, reduceCtorEq, or_false, or_true,
      not_true_eq_false, not_false_eq_true] at hdkc ⊢
  rw [Dev.standstillChanged, if_pos (by rw [hs]; rfl), hdocked, Dev.completeAbort, if_neg]
  rw [hstc, ha]
  exact Bool.false_ne_true

end

/-- Settles O10: CLE's event at standstill case by case, and that at the end of an order. -/
theorem standstillReleasesTheRest : Obligations.StandstillReleasesTheRest := by
  intro d hok e z t off stays known aborts released after frame
  have hknown : d.odo.known = true ↔ known := d.odo.known_iff
  refine ⟨fun h => Dev.claimsStandstill_calm (h.imp_left (mt hknown.mp)), ?_⟩
  obtain ⟨hend, hmoves, hstands⟩ := Dev.claimsOrderEnd_gives hok
  refine ⟨fun hk ha hv => (Dev.claimsStandstill_gives hok (hknown.mpr hk)).1 ha hv,
    fun hk hv => (Dev.claimsStandstill_gives hok (hknown.mpr hk)).2.1 hv,
    fun hk => (Dev.claimsStandstill_gives hok (hknown.mpr hk)).2.2,
    hend, fun h => hmoves (h.imp_right (mt hknown.mp)), fun hs hk => hstands hs (hknown.mpr hk),
    Dev.claimsApart_frame ((claimWork_apart d).claimsStandstill d.claimsApart_refl),
    Dev.claimsApart_frame ((claimWork_apart d).claimsOrderEnd d.claimsApart_refl), Dev.standstillChanged_claims⟩

end Sys2Proof.Machine

/-! SUPPORT. What the Claim Engine's work adds to the queue (R173), and what an examination finds (R66). -/

namespace Sys2Proof.Machine

/-! ### What joins the queue, and what stays in it (R173) -/

/-- A frame that gives way to no other and is never withdrawn (R67, R173). -/
def TxEntry.lasting (f : TxEntry) : Prop :=
  f.kind.txClass ≠ 3 ∧ f.kind ≠ .beacon ∧ f.kind ≠ .intent

/-- From `d` to `e` at most `n` frames have joined the queue, and every lasting frame is in it still. -/
structure Dev.adds (n : Nat) (d e : Dev) : Prop where
  active : e.lif.active = d.lif.active
  length : e.lif.queue.length ≤ d.lif.queue.length + n
  stays : ∀ f ∈ d.lif.queue, f.lasting → f ∈ e.lif.queue

theorem mem_dropLast? {p : TxEntry → Bool} {q q' : List TxEntry} {f : TxEntry} (h : dropLast? p q = some q') (hf : f ∈ q)
    (hp : p f = false) : f ∈ q' := by
  unfold dropLast? at h
  split at h
  · cases h
    rw [List.mem_reverse, List.mem_eraseP_of_neg (by rw [hp]; exact Bool.false_ne_true)]
    exact List.mem_reverse.mpr hf
  · cases h

theorem mem_makeRoom {n : Nat} {q q' : List TxEntry} {f : TxEntry} (h : makeRoom n q = some q') (hf : f ∈ q) (hl : f.lasting) :
    f ∈ q' := by
  obtain ⟨hclass, hbeacon, -⟩ := hl
  have hreport : (f.kind.txClass == 3 && !f.sending) = false := by rw [beq_false_of_ne hclass]; rfl
  have hbeacon' : (f.kind == FrameKind.beacon && !f.sending) = false := by rw [beq_false_of_ne hbeacon]; rfl
  unfold makeRoom at h
  split at h
  · split at h
    · next hr => cases h; exact mem_dropLast? hr hf hreport
    · exact mem_dropLast? h hf hbeacon'
  · split at h
    · exact mem_dropLast? h hf hreport
    · cases h

theorem Lif.place_length (l : Lif) (e : TxEntry) : (l.place e).queue.length = l.queue.length + 1 := by
  rw [Lif.place_queue, (insertSorted_perm ..).length_eq, List.length_cons]

namespace Dev.adds
variable {d e f : Dev} {n m : Nat}

theorem of_lif (h : e.lif = d.lif) : adds 0 d e := ⟨by rw [h], by rw [h]; exact Nat.le_refl _, fun _ hf _ => h ▸ hf⟩

theorem refl (d : Dev) : adds 0 d d := of_lif rfl

theorem from_lif (h : adds n d e) (hl : d.lif = f.lif) : adds n f e := by
  obtain ⟨hact, hlen, hstays⟩ := h
  rw [hl] at hact hlen hstays
  exact ⟨hact, hlen, hstays⟩

theorem to_lif (h : adds n d e) (hl : f.lif = e.lif) : adds n d f := by
  obtain ⟨hact, hlen, hstays⟩ := h
  rw [← hl] at hact hlen hstays
  exact ⟨hact, hlen, hstays⟩

theorem trans (h : adds n d e) (h' : adds m e f) : adds (n + m) d f :=
  ⟨h'.active.trans h.active, by have := h.length; have := h'.length; omega, fun x hx hl => h'.stays x (h.stays x hx hl) hl⟩

theorem mono (h : adds n d e) (hle : n ≤ m) : adds m d e := ⟨h.active, h.length.trans (Nat.add_le_add_left hle _), h.stays⟩

theorem enqueue (d : Dev) (k : FrameKind) (dst : Nat) (b : List Byte) (t : Option Nat) : adds 1 d (d.enqueue k dst b t).1 := by
  unfold Dev.enqueue
  simp only
  split
  · exact (refl d).mono (Nat.zero_le _)
  · split
    · exact (of_lif (Dev.bump_lif ..)).mono (Nat.zero_le _)
    · split
      · exact ⟨by rw [Lif.place_eq], (Lif.place_length ..).le, fun f hf _ => by
          rw [Lif.place_queue, mem_insertSorted]
          exact .inr hf⟩
      · split
        · next q hq =>
          refine ⟨by rw [Dev.bump_lif, Lif.place_eq], ?_, fun f hf hl => ?_⟩
          · rw [Dev.bump_lif, Lif.place_length]
            exact (makeRoom_eq_some hq).2.le.trans (Nat.le_succ _)
          · rw [Dev.bump_lif, Lif.place_queue, mem_insertSorted]
            exact .inr (mem_makeRoom hq hf hl)
        · exact (of_lif (Dev.bump_lif ..)).mono (Nat.zero_le _)

theorem send (d : Dev) (k : FrameKind) (dst : Nat) (b : List Byte) : adds 1 d (d.send k dst b) := enqueue d k dst b none

theorem withdraw (d : Dev) (tag : Nat) : adds 0 d (d.withdraw tag) := by
  refine ⟨by rw [Dev.withdraw, Lif.follow_changes], ?_, fun f hf hl => ?_⟩
  · rw [Dev.withdraw, Outer.follow_queue]
    exact List.length_filter_le _ _
  · rw [Dev.withdraw, Outer.follow_queue]
    refine List.mem_filter.mpr ⟨hf, ?_⟩
    rw [beq_false_of_ne hl.2.2]
    rfl

theorem abandon (d : Dev) (c : Claim) : adds 0 d (d.abandon c) := by
  unfold Dev.abandon
  split
  · exact withdraw d _
  all_goals exact refl d

theorem foldl_abandon (l : List Claim) (d : Dev) : adds 0 d (l.foldl Dev.abandon d) := by
  induction l generalizing d with
  | nil => exact refl d
  | cons c l ih => exact (abandon d c).trans (ih _)

theorem tidyDeadlock (d : Dev) : adds 0 d d.tidyDeadlock := of_lif (Dev.tidyDeadlock_lif d)

theorem dropClaims (d : Dev) (p : Claim → Bool) : adds 0 d (d.dropClaims p) :=
  (foldl_abandon (d.cle.table.filter p) d).to_lif (Dev.tidyDeadlock_lif _)

theorem sendPointsRequest (d : Dev) (c : Claim) : adds 1 d (d.sendPointsRequest c) := by
  unfold Dev.sendPointsRequest
  split
  · exact send ..
  · exact (refl d).mono (Nat.zero_le _)

theorem requestPoints (d : Dev) (c : Claim) (keep : Bool) : adds 1 d (d.requestPoints c keep) :=
  (sendPointsRequest d c).to_lif rfl

theorem sendHeldReport (d : Dev) (o : Order) : adds 1 d (d.sendHeldReport o) :=
  (send { d with stc := { d.stc with heldReport := false } } .orderReport o.console _).from_lif rfl

theorem judgeHeldReport (d : Dev) (b : Bool) : adds 1 d (d.judgeHeldReport b) := by
  have hsame : adds 1 d d := (refl d).mono (Nat.zero_le _)
  unfold Dev.judgeHeldReport
  split
  · refine ite_keeps (P := adds 1 d) (fun _ => ?_) (fun _ => hsame)
    split
    · exact ite_keeps (P := adds 1 d) (fun _ => sendHeldReport d _) (fun _ => hsame)
    · exact ite_keeps (P := adds 1 d) (fun _ => sendHeldReport d _) (fun _ => hsame)
  · exact hsame

theorem afterHeld (d : Dev) (n : Nat) : adds 1 d (d.afterHeld n) := by
  have hsame : adds 1 d d := (refl d).mono (Nat.zero_le _)
  unfold Dev.afterHeld
  split
  · exact ite_keeps (P := adds 1 d) (fun _ => ite_keeps (P := adds 1 d) (fun _ => requestPoints ..) (fun _ => hsame))
      (fun _ => ite_keeps (P := adds 1 d) (fun _ => judgeHeldReport ..) (fun _ => hsame))
  · exact hsame

theorem sendRelease (d : Dev) (l : List Nat) : adds 1 d (d.sendRelease l) :=
  ite_keeps (P := adds 1 d) (fun _ => (refl d).mono (Nat.zero_le _))
    (fun _ => ((enqueue { d with cle := { d.cle with nextTag := d.cle.nextTag + 1 } } .release 0 (releasePayload l)
      (some d.cle.nextTag)).from_lif (f := d) rfl).to_lif rfl)

theorem contend (d : Dev) (c : Claim) : adds 1 d (d.contend c) := by
  have hsent := enqueue (({ d with cle := { d.cle with nextTag := d.cle.nextTag + 1 } } : Dev).bump .contentionsStarted)
    .intent 0 (ticketPayload c.sec d.currentTicket) (some d.cle.nextTag)
  exact ite_keeps (P := adds 1 d) (fun _ => (hsent.from_lif (f := d) rfl).to_lif rfl)
    (fun _ => (hsent.from_lif (f := d) rfl).to_lif rfl)

theorem room (h : adds n d e) (hact : d.lif.active = true) (hlen : d.lif.queue.length + n < 8) : e.lif.hasRoom :=
  ⟨h.active.trans hact, Nat.lt_of_le_of_lt h.length hlen⟩

end Dev.adds

/-! ### What an examination finds (R66) -/

/-- The front entry is one that an examination decides: WANTED, or BLOCKED with its backoff stopped. -/
def Claim.awaits (c : Claim) : Prop :=
  (∃ b, c.state = .wanted b) ∨ ∃ p b, c.state = .blocked p b none

section
variable {d : Dev} {c : Claim} {p : Nat} {b : BlockBasis}

theorem Dev.examineFront_found (hc : d.cle.front = some c) (hst : c.awaits) (hstop : d.claimingStopped = false)
    (hq : d.lif.quiet = false) (hb : d.blocked c.sec = some (p, b)) : d.examineFront = if c.state = .blocked p b none then d
      else (d.updateClaim c.sec (fun e => { e with state := .blocked p b none })).examineMutual := by
  obtain ⟨_, hst⟩ | ⟨_, _, hst⟩ := hst
  · simp only [Dev.examineFront, hc, hst, hstop, hq, hb, Bool.false_eq_true, if_false]
  · simp only [Dev.examineFront, hc, hst, hstop, hq, hb, Bool.false_eq_true, if_false]

theorem Dev.examineFront_contends (hc : d.cle.front = some c) (hst : c.awaits) (hstop : d.claimingStopped = false)
    (hq : d.lif.quiet = false) (hb : d.blocked c.sec = none) : d.examineFront = (d.contend c).tidyDeadlock := by
  obtain ⟨_, hst⟩ | ⟨_, _, hst⟩ := hst
  · simp only [Dev.examineFront, hc, hst, hstop, hq, hb, Bool.false_eq_true, if_false]
  · simp only [Dev.examineFront, hc, hst, hstop, hq, hb, Bool.false_eq_true, if_false]

/-- A change that leaves the section's one entry as it is changes nothing. -/
theorem Dev.updateClaim_self (hok : d.cle.ok) (hc : c ∈ d.cle.table) {f : Claim → Claim} (hf : f c = c) : d.updateClaim c.sec f = d := by
  have htable : d.cle.table.map (fun e => if e.sec = c.sec then f e else e) = d.cle.table := by
    refine (List.map_congr_left fun x hx => ?_).trans (List.map_id _)
    split
    · next hs =>
      rw [Cle.sec_inj hok hx hc hs, hf]
      rfl
    · rfl
  show { d with cle := { d.cle with table := _ } } = d
  rw [htable]

/-- A tried front entry stays the front entry under a change of its state (R58). -/
theorem Dev.updateClaim_front (hok : d.cle.ok) (hc : d.cle.front = some c) {st : ClaimState} (hst : ({ c with state := st } : Claim).tried = true) :
    (d.updateClaim c.sec (fun e => { e with state := st })).cle.front = some { c with state := st } := by
  have hopen : ({ c with state := st } : Claim).isHeld = false :=
    Bool.eq_false_iff.mpr fun hheld => Bool.false_ne_true ((Claim.not_tried_of_held hheld).symm.trans hst)
  exact Cle.front_of_tried (Cle.ok_front hc (fun _ => rfl) (fun _ => rfl) hopen hok)
    (Cle.entry_mem (Dev.updateClaim_state hok hc st)).1 hst

/-- With a blocker that waits for nothing the entry is BLOCKED by it. -/
theorem Dev.examineFront_blocks (hok : d.cle.ok) (hc : d.cle.front = some c) (hst : c.awaits) (hstop : d.claimingStopped = false)
    (hq : d.lif.quiet = false) (hb : d.blocked c.sec = some (p, b)) (hp : d.idlePeer p) :
    (d.updateClaim c.sec (fun e => { e with state := .blocked p b none })).sameButDeadlock d.examineFront := by
  rw [Dev.examineFront_found hc hst hstop hq hb]
  by_cases hsame : c.state = .blocked p b none
  · rw [Dev.updateClaim_self hok (Cle.front_mem hc) (by rw [← hsame]), if_pos hsame]
    exact Dev.sameButDeadlock.refl d
  · rw [if_neg hsame]
    refine Dev.sameButDeadlock.examineMutual_idle (w := none) (b := b) ?_ (.inr hp)
    rw [Cle.frontState, Dev.updateClaim_front hok hc rfl, Option.map_some]

/-- With room in the queue the entry contends, its INTENT queued (R67). -/
theorem Dev.examineFront_intent (hok : d.cle.ok) (hc : d.cle.front = some c) (hst : c.awaits) (hstop : d.claimingStopped = false)
    (hq : d.lif.quiet = false) (hb : d.blocked c.sec = none) (hroom : d.lif.hasRoom) :
    d.examineFront.cle.entry c.sec = some { c with state := .contending d.currentTicket d.cle.nextTag none }
      ∧ d.examineFront.cle.gathering = d.cle.gathering
      ∧ ⟨.intent, 0, ticketPayload c.sec d.currentTicket, 0, some d.cle.nextTag, false⟩ ∈ d.examineFront.lif.queue := by
  obtain ⟨e, hcontend, hcle, hlif⟩ := Dev.contend_of_room hroom c
  rw [Dev.examineFront_contends hc hst hstop hq hb, hcontend]
  refine ⟨?_, ?_, ?_⟩
  · rw [Cle.entry_congr (Dev.tidyDeadlock_table _)]
    exact Dev.updateClaim_state (by rw [hcle]; exact hok) (by rw [hcle]; exact hc) _
  · rw [Dev.tidyDeadlock_gathering]
    exact (congrArg Cle.gathering hcle :)
  · rw [Dev.tidyDeadlock_lif]
    show _ ∈ e.lif.queue
    rw [hlif]
    exact Lif.mem_place ..

end

end Sys2Proof.Machine

/-! SUPPORT. The timers of the claim table and a collision (R67, R71, R82, R163). -/

namespace Sys2Proof.Machine

section
variable {d : Dev} {c : Claim} {p sec : Nat} {b : BlockBasis} {act : Dev → Dev}

/-! ### The backoff of the front entry (R71) -/

theorem Dev.backoffExpiry_due {w : Nat} (hc : d.cle.front = some c) (hst : c.state = .blocked p b (some w)) (hw : w ≤ d.now) :
    d.backoffExpiry = Dev.event (fun d => (d.updateClaim c.sec (fun e => { e with state := .blocked p b none })).examineFront) d := by
  have hdue : d.due (some w) = true := decide_eq_true hw
  simp only [Dev.backoffExpiry, hc, hst, hdue, if_true]

/-- The examination at the end of a backoff, by what it finds. -/
theorem Dev.backoffExpiry_finds {w : Nat} (hok : d.cle.ok) (hc : d.cle.front = some c) (hst : c.state = .blocked p b (some w)) (hw : w ≤ d.now) :
    (d.claimingStopped = true → d.backoffExpiry.cle.entry c.sec = none)
      ∧ (d.claimingStopped = false → d.lif.quiet = true →
        d.backoffExpiry.cle.entry c.sec = some { c with state := .wanted false })
      ∧ (d.claimingStopped = false → d.lif.quiet = false → d.blocked c.sec = some (p, b) →
        d.backoffExpiry = d.updateClaim c.sec (fun x => { x with state := .blocked p b none }))
      ∧ (d.claimingStopped = false → d.lif.quiet = false → d.blocked c.sec = none → d.lif.hasRoom →
        d.backoffExpiry.cle.entry c.sec = some { c with state := .contending d.currentTicket d.cle.nextTag none }
          ∧ ⟨.intent, 0, ticketPayload c.sec d.currentTicket, 0, some d.cle.nextTag, false⟩ ∈ d.backoffExpiry.lif.queue) := by
  rw [Dev.backoffExpiry_due hc hst hw]
  let x : Dev := d.gatheringNone.updateClaim c.sec (fun e => { e with state := .blocked p b none })
  have hc' : x.cle.front = some { c with state := .blocked p b none } :=
    Dev.updateClaim_front (d := d.gatheringNone) (c := c) hok hc rfl
  have hok' : x.cle.ok := Cle.ok_front (c := d.gatheringNone.cle) hc (fun _ => rfl) (fun _ => rfl) rfl hok
  have hawaits : Claim.awaits { c with state := .blocked p b none } := .inr ⟨p, b, rfl⟩
  have hact : (fun d : Dev => (d.updateClaim c.sec (fun e => { e with state := .blocked p b none })).examineFront) d.gatheringNone
      = x.examineFront := rfl
  refine ⟨fun hstop => ?_, fun hstop hq => ?_, fun hstop hq hb => ?_, fun hstop hq hb hroom => ?_⟩
  · refine (Dev.event_entry ..).trans (?_ : x.examineFront.cle.entry c.sec = _)
    rw [Dev.examineFront_stopped (d := x) hc' hstop]
    exact Dev.dropClaims_entry x c.sec
  · refine (Dev.event_entry ..).trans (?_ : x.examineFront.cle.entry c.sec = _)
    rw [Dev.examineFront_quiet (d := x) hc' hstop hq, Cle.entry_congr (Dev.tidyDeadlock_table _)]
    exact Dev.updateClaim_state hok' hc' _
  · have hsame : x.examineFront = x := (Dev.examineFront_found (d := x) hc' hawaits hstop hq hb).trans (if_pos rfl)
    rw [Dev.event_eq (hact.trans hsame) rfl]
    rfl
  · obtain ⟨hentry, hgather, hqueue⟩ := Dev.examineFront_intent (d := x) hok' hc' hawaits hstop hq hb hroom
    rw [Dev.event_eq hact hgather]
    exact ⟨hentry, hqueue⟩

/-! ### The points timers (R82) -/

theorem Dev.pointsTimeout_due (he : d.cle.entry sec = some c) (hp : c.points = .requested) (hdue : d.due c.pointsTimer = true) :
    d.pointsTimeout sec = (d.updateClaim sec (fun e => { e with pointsTimer := d.timerMs d.tmp.plan.lockTimeout })).raise .pointsTimeout := by
  have hif : (c.points == .requested && d.due c.pointsTimer) = true := by rw [hp, hdue]; rfl
  simp only [Dev.pointsTimeout, he, hif, if_true]

theorem Dev.rerequest_due (he : d.cle.entry sec = some c) (hp : c.points = .requested) (hdue : d.due c.rerequestTimer = true) :
    d.rerequest sec = (d.sendPointsRequest c).updateClaim sec
      (fun e => { e with rerequestTimer := (d.sendPointsRequest c).timerMs (d.sendPointsRequest c).tmp.plan.beaconPeriod }) := by
  have hif : (c.points == .requested && d.due c.rerequestTimer) = true := by rw [hp, hdue]; rfl
  simp only [Dev.rerequest, he, hif, if_true]

/-- With room a POINTS-REQUEST for the leg needed is queued (R82). -/
theorem Dev.sendPointsRequest_queued {leg : Leg} (hl : c.legNeeded = some leg) (hroom : d.lif.hasRoom) :
    ⟨.pointsRequest, 0, pointsRequestPayload c.sec leg, 0, none, false⟩ ∈ (d.sendPointsRequest c).lif.queue := by
  rw [Dev.sendPointsRequest, hl]
  show _ ∈ (Dev.enqueue _ _ _ _ _).1.lif.queue
  rw [Dev.enqueue_of_room hroom rfl]
  exact Lif.mem_place ..

end

/-- Settles O44: the examination at the end of a backoff by what it finds, and the two points timers. -/
theorem claimTimersExpire : Obligations.ClaimTimersExpire := by
  refine ⟨fun s c p b w => ?_, fun s c leg => ?_⟩
  · intro d hok hc hst hw
    have hexec : exec .claimBackoffExpiry s = .next { s with dev := d.backoffExpiry } := rfl
    obtain ⟨hstopped, hquiet, hsame, hfree⟩ := Dev.backoffExpiry_finds hok hc hst hw
    refine ⟨fun h => ⟨_, hexec, hstopped h⟩, fun h hq => ⟨_, hexec, hquiet h hq⟩, fun h hq hb => ?_, fun h hq hb hroom => ?_⟩
    · rw [hexec, hsame h hq hb]
    · obtain ⟨hentry, hqueue⟩ := hfree h hq hb hroom
      exact ⟨_, _, hexec, hentry, _, hqueue, rfl, rfl, rfl, rfl⟩
  · intro d he hp hl
    refine ⟨fun hdue => ?_, fun hdue => ?_⟩
    · have hexec : exec (.pointsTimerExpiry c.sec) s = .next { s with dev := d.pointsTimeout c.sec } := rfl
      refine ⟨_, hexec, ?_⟩
      rw [Dev.pointsTimeout_due he hp hdue]
      generalize hx : d.updateClaim c.sec (fun e => { e with pointsTimer := d.timerMs d.tmp.plan.lockTimeout }) = x
      obtain ⟨fs, bdu, dkc, stc, l, cs, heq, -⟩ := x.raise_changes (k := .pointsTimeout) (by decide)
      refine ⟨Dev.raise_active_self (by decide) x, ?_⟩
      rw [heq, ← hx]
      exact ⟨rfl, rfl, rfl⟩
    · have hexec : exec (.rerequestTimerExpiry c.sec) s = .next { s with dev := d.rerequest c.sec } := rfl
      refine ⟨_, hexec, ?_⟩
      have hqueued := Dev.sendPointsRequest_queued (d := d) hl
      rw [Dev.rerequest_due he hp hdue]
      obtain ⟨q, t, cs, heq⟩ := d.sendPointsRequest_line c
      rw [heq] at hqueued ⊢
      exact ⟨rfl, fun hroom => ⟨_, hqueued hroom, rfl, rfl, rfl⟩, rfl, rfl, rfl, rfl⟩

/-! ### A collision (R163, R164) -/

section
variable {d : Dev} {c : Claim} {x : TxEntry} {pre post : List TxEntry} {tag : Nat}

theorem collided_eq (hx : x.sending = true) (hothers : ∀ y ∈ pre ++ post, y.sending = false) :
    collided (pre ++ x :: post) = pre ++ { x with attempts := x.attempts + 1, sending := false } :: post := by
  have hkept : ∀ l : List TxEntry, (∀ y ∈ l, y.sending = false) →
      l.map (fun e => if e.sending then { e with attempts := e.attempts + 1, sending := false } else e) = l := fun l hl =>
    (List.map_congr_left fun y hy => if_neg (by rw [hl y hy]; exact Bool.false_ne_true)).trans (List.map_id _)
  rw [collided, List.map_append, List.map_cons, if_pos hx, hkept pre (fun y hy => hothers y (by simp [hy])),
    hkept post (fun y hy => hothers y (by simp [hy]))]

/-- The line after a collision, with the queue as it is then. -/
def Dev.backedOff (d : Dev) (q : List TxEntry) : Dev :=
  ({ d with lif := { d.lif with
      tx := .backoff, lfsr := lfsrStep d.lif.lfsr, backoffTimer := d.timerUs (lfsrSlots (lfsrStep d.lif.lfsr) * Config.slotUs)
      sending := [], queue := q } } : Dev).bump .collisions

theorem Dev.collision_kept (htx : d.lif.tx = .sending) (hq : d.lif.queue = pre ++ x :: post) (hx : x.sending = true)
    (hothers : ∀ y ∈ pre ++ post, y.sending = false) (hlast : x.attempts < 3) :
    d.collision = d.backedOff (pre ++ { x with attempts := x.attempts + 1, sending := false } :: post) := by
  have hfind : d.lif.queue.find? (·.sending) = some x := by rw [hq, find_sending hx hothers]
  rw [Dev.collision, htx, hfind]
  simp only [Dev.bump_lif, decide_eq_false (Nat.not_le.mpr hlast), Bool.false_eq_true, if_false, hq, collided_eq hx hothers]
  rfl

theorem Dev.collision_dropped (htx : d.lif.tx = .sending) (hq : d.lif.queue = pre ++ x :: post) (hx : x.sending = true)
    (hothers : ∀ y ∈ pre ++ post, y.sending = false) (hlast : 3 ≤ x.attempts) :
    (x.intentTag = none → d.collision = (d.backedOff (pre ++ post)).bump .txDrops)
      ∧ (x.intentTag = some tag → d.collision = ((d.backedOff (pre ++ post)).bump .txDrops).intentDropped tag) := by
  have hfind : d.lif.queue.find? (·.sending) = some x := by rw [hq, find_sending hx hothers]
  rw [Dev.collision, htx, hfind]
  simp only [Dev.bump_lif, decide_eq_true hlast, if_true, hq, withoutSending_eq hx hothers]
  exact ⟨fun h => by rw [h]; rfl, fun h => by rw [h]; rfl⟩

/-! ### A dropped INTENT (R67) -/

/-- The entry contends with the INTENT of a tag. -/
def Claim.contendsAs (tag : Nat) (e : Claim) : Bool :=
  match e.state with
  | .contending _ g _ => g == tag
  | .wanted _ | .blocked _ _ _ | .held _ _ => false

/-- The entry after its INTENT of a tag was dropped. -/
def Claim.unsent (tag : Nat) (e : Claim) : Claim :=
  if e.contendsAs tag then { e with state := .wanted false } else e

theorem Claim.contendsAs_iff (tag : Nat) (e : Claim) : e.contendsAs tag = true ↔ ∃ t w, e.state = .contending t tag w := by
  unfold Claim.contendsAs
  cases e.state <;> simp

theorem Claim.unsent_fields (tag : Nat) (e : Claim) : (e.unsent tag).sec = e.sec ∧ (e.unsent tag).idx = e.idx
    ∧ (e.unsent tag).isHeld = e.isHeld ∧ ((e.unsent tag).tried = true → e.tried = true) := by
  unfold Claim.unsent
  split
  · next h =>
    obtain ⟨t, w, hst⟩ := (e.contendsAs_iff tag).mp h
    exact ⟨rfl, rfl, by rw [Claim.isHeld, Claim.isHeld, hst], fun ht => absurd ht Bool.false_ne_true⟩
  · exact ⟨rfl, rfl, rfl, id⟩

/-- The part once the INTENT of a tag has been dropped. -/
def Dev.unsent (d : Dev) (tag : Nat) : Dev :=
  ({ d with cle := { d.cle with table := d.cle.table.map (Claim.unsent tag) } } : Dev).bump .intentsDropped

theorem Dev.intentDropped_eq (d : Dev) (tag : Nat) : d.intentDropped tag = Dev.event (fun d =>
    if d.cle.table.any (Claim.contendsAs tag) then (d.unsent tag).examineFront else d) d := rfl

theorem Dev.intentDropped_none (h : ∀ e ∈ d.cle.table, ¬e.contendsAs tag = true) : d.intentDropped tag = d := by
  have hany : ¬d.cle.table.any (Claim.contendsAs tag) = true := by simpa using h
  rw [Dev.intentDropped_eq]
  exact Dev.event_idle (if_neg hany)

/-- The entry whose INTENT was dropped is the front entry, WANTED. -/
theorem Dev.unsent_front (hok : d.cle.ok) (hm : c ∈ d.cle.table) (h : c.contendsAs tag = true) :
    (d.unsent tag).cle.front = some { c with state := .wanted false } ∧ (d.unsent tag).cle.ok := by
  have htried : c.tried = true := by
    obtain ⟨t, w, hst⟩ := (c.contendsAs_iff tag).mp h
    rw [Claim.tried, Claim.isContending, hst]
    rfl
  have hsame : (fun e : Claim => e.idx.isSome && !e.isHeld) ∘ Claim.unsent tag = fun e => e.idx.isSome && !e.isHeld := by
    funext e
    obtain ⟨-, hidx, hheld, -⟩ := e.unsent_fields tag
    rw [Function.comp, hidx, hheld]
  have hfront : d.cle.front = some c := Cle.front_of_tried hok hm htried
  refine ⟨?_, Cle.ok_map (c := d.cle) (f := Claim.unsent tag) rfl (.inl (Nat.le_refl _)) hok (fun e _ => (e.unsent_fields tag).1)
    (fun e _ => (e.unsent_fields tag).2.1) (fun e _ => (e.unsent_fields tag).2.2.1) (fun e _ => (e.unsent_fields tag).2.2.2)⟩
  show (d.cle.table.map (Claim.unsent tag)).find? (fun e => e.idx.isSome && !e.isHeld) = _
  rw [List.find?_map, hsame]
  rw [Cle.front] at hfront
  rw [hfront, Option.map_some, Claim.unsent, if_pos h]

/-- The examination of an entry whose INTENT was dropped, by what it finds. -/
theorem Dev.intentDropped_finds (hok : d.cle.ok) (hm : c ∈ d.cle.table) (h : c.contendsAs tag = true) :
    (d.claimingStopped = true → (d.intentDropped tag).cle.entry c.sec = none)
      ∧ (d.claimingStopped = false → d.lif.quiet = true →
        (d.intentDropped tag).cle.entry c.sec = some { c with state := .wanted false } ∧ (d.intentDropped tag).lif = d.lif
          ∧ (d.cle.deadlock = none → (d.intentDropped tag).counters = (d.bump .intentsDropped).counters))
      ∧ (∀ p b, d.claimingStopped = false → d.lif.quiet = false → d.blocked c.sec = some (p, b) → d.idlePeer p →
        (d.intentDropped tag).cle.entry c.sec = some { c with state := .blocked p b none })
      ∧ (d.claimingStopped = false → d.lif.quiet = false → d.blocked c.sec = none → d.lif.hasRoom →
        ∃ g, (d.intentDropped tag).cle.entry c.sec = some { c with state := .contending d.currentTicket g none }
          ∧ ∃ y ∈ (d.intentDropped tag).lif.queue, y.kind = .intent ∧ y.tag = some g) := by
  let x : Dev := d.gatheringNone.unsent tag
  let c' : Claim := { c with state := .wanted false }
  obtain ⟨hc', hok'⟩ := Dev.unsent_front (d := d.gatheringNone) hok hm h
  have hawaits : c'.awaits := .inl ⟨false, rfl⟩
  have hany : d.gatheringNone.cle.table.any (Claim.contendsAs tag) = true := List.any_eq_true.mpr ⟨c, hm, h⟩
  rw [Dev.intentDropped_eq]
  generalize hact : (fun d : Dev => if d.cle.table.any (Claim.contendsAs tag) then (d.unsent tag).examineFront else d) = act
  have hacted : act d.gatheringNone = x.examineFront := by
    rw [← hact]
    exact if_pos hany
  have hentry : ∀ o, x.examineFront.cle.entry c.sec = o → (Dev.event act d).cle.entry c.sec = o := fun o ho => by
    rw [Dev.event_entry, hacted, ho]
  refine ⟨fun hstop => hentry _ ?_, fun hstop hq => ?_, fun p b hstop hq hb hp => hentry _ ?_, fun hstop hq hb hroom => ?_⟩
  · rw [Dev.examineFront_stopped (d := x) hc' hstop]
    exact Dev.dropClaims_entry x c.sec
  · have hexam := Dev.examineFront_quiet (d := x) hc' hstop hq
    have hgather : x.examineFront.cle.gathering = some [] := by
      rw [hexam, Dev.tidyDeadlock_gathering]
      rfl
    rw [Dev.event_eq hacted hgather]
    refine ⟨?_, ?_, fun hdead => ?_⟩
    · show x.examineFront.cle.entry c.sec = _
      rw [hexam, Cle.entry_congr (Dev.tidyDeadlock_table _)]
      exact Dev.updateClaim_state hok' hc' _
    · show x.examineFront.lif = _
      rw [hexam, Dev.tidyDeadlock_lif]
      rfl
    · show x.examineFront.counters = _
      rw [hexam, Dev.tidyDeadlock_none (d := x.updateClaim _ _) hdead]
      rfl
  · have hblocks := Dev.examineFront_blocks (d := x) hok' hc' hawaits hstop hq hb hp
    exact (Cle.entry_congr hblocks.table c.sec).trans (Dev.updateClaim_state hok' hc' _)
  · obtain ⟨hcontends, hgather, hqueue⟩ := Dev.examineFront_intent (d := x) hok' hc' hawaits hstop hq hb hroom
    rw [Dev.event_eq hacted hgather]
    exact ⟨_, hcontends, _, hqueue, rfl, rfl⟩

end

/-- Settles O21: the frame that collided is kept or dropped, and the entry of a dropped INTENT is examined. -/
theorem collisionBacksOff : Obligations.CollisionBacksOff := by
  intro s x pre post d htx hq hx hothers r r' l dropped
  have hexec : exec .collision s = .next { s with dev := d.collision } := rfl
  have hdropped : (d.backedOff (pre ++ post)).bump .txDrops = dropped := rfl
  refine ⟨fun hlast => ?_, fun hlast hnone => ?_, fun c hm t g w hlast hk htag hst hok => ?_⟩
  · rw [hexec, Dev.collision_kept htx hq hx hothers hlast]
    rfl
  · rw [hexec]
    cases hi : x.intentTag with
    | none => rw [(Dev.collision_dropped (tag := 0) htx hq hx hothers hlast).1 hi, hdropped]
    | some g =>
      obtain ⟨hk, hg⟩ : x.kind = .intent ∧ x.tag = some g := by
        rw [TxEntry.intentTag] at hi
        split at hi
        · exact ⟨‹_›, hi⟩
        · cases hi
      rw [(Dev.collision_dropped htx hq hx hothers hlast).2 hi, hdropped, Dev.intentDropped_none]
      intro e he hmine
      obtain ⟨t, w, hst⟩ := (e.contendsAs_iff g).mp hmine
      exact hnone.elim (fun h => h hk) (fun h => h e he t g w hg hst)
  · refine ⟨_, hexec, ?_⟩
    rw [(Dev.collision_dropped htx hq hx hothers hlast).2 ((if_pos hk).trans htag), hdropped]
    exact Dev.intentDropped_finds (d := dropped) hok hm ((c.contendsAs_iff g).mpr ⟨t, w, hst⟩)

end Sys2Proof.Machine

/-! SUPPORT. A window that runs out: the section HELD, its points requested, and the next entry examined (R70). -/

namespace Sys2Proof.Machine

/-! ### What an examination leaves alone (R66) -/

/-- From `d` to `e` an examination of the entry of one section has left every other entry, the loss count, what has been gathered and the
count of contentions won, and has queued one frame at most. -/
structure Dev.Examined (d e : Dev) (o : Option Nat) : Prop where
  others : ∀ x ∈ d.cle.table, o ≠ some x.sec → x ∈ e.cle.table
  entry : ∀ n, o ≠ some n → e.cle.entry n = d.cle.entry n
  lossCount : e.cle.lossCount = d.cle.lossCount
  gathering : e.cle.gathering = d.cle.gathering
  won : e.counter .contentionsWon = d.counter .contentionsWon
  adds : Dev.adds 1 d e

theorem Dev.causeEnded_won (d : Dev) (k : FaultKind) : (d.causeEnded k).counter .contentionsWon = d.counter .contentionsWon := by
  unfold Dev.causeEnded
  split
  · exact Dev.counter_bump_ne { d with faults := _ } (by decide)
  · rfl

theorem Dev.endDeadlock_won (d : Dev) : d.endDeadlock.counter .contentionsWon = d.counter .contentionsWon := by
  unfold Dev.endDeadlock
  split
  · exact Dev.causeEnded_won _ _
  · rfl

theorem Dev.tidyDeadlock_won (d : Dev) : d.tidyDeadlock.counter .contentionsWon = d.counter .contentionsWon := by
  unfold Dev.tidyDeadlock
  split
  · exact Dev.causeEnded_won _ _
  · rfl

theorem Dev.abandon_won (d : Dev) (c : Claim) : (d.abandon c).counter .contentionsWon = d.counter .contentionsWon := by
  unfold Dev.abandon
  split <;> rfl

theorem Dev.foldl_abandon_won (l : List Claim) (d : Dev) :
    (l.foldl Dev.abandon d).counter .contentionsWon = d.counter .contentionsWon := by
  induction l generalizing d with
  | nil => rfl
  | cons c l ih => exact (ih _).trans (d.abandon_won c)

/-- At a blocker that waits for nothing the examination of a mutual wait counts no contention won. -/
theorem Dev.examineMutual_won {d : Dev} {p : Nat} {b : BlockBasis} {w : Timer} (h : d.cle.frontState = some (.blocked p b w))
    (hp : d.idlePeer p) : d.examineMutual.counter .contentionsWon = d.counter .contentionsWon := by
  have hother : (if d.cle.deadlock.any (fun q => q != p) then d.endDeadlock else d).counter .contentionsWon = d.counter .contentionsWon
      ∧ (if d.cle.deadlock.any (fun q => q != p) then d.endDeadlock else d).peers = d.peers := by
    split
    · exact ⟨d.endDeadlock_won, d.endDeadlock_peers⟩
    · exact ⟨rfl, rfl⟩
  unfold Dev.examineMutual
  rw [h]
  simp only
  generalize (if d.cle.deadlock.any (fun q => q != p) then d.endDeadlock else d) = x at hother ⊢
  obtain ⟨hwon, hpeers⟩ := hother
  rw [Dev.waitedEntry_of_idle fun r hr => hp r ((Dev.peer_congr hpeers p).symm.trans hr), ite_self]
  simp only
  split
  · exact x.endDeadlock_won.trans hwon
  · exact hwon

namespace Dev.Examined
variable {d e : Dev} {o : Option Nat} {n : Nat}

theorem refl (d : Dev) (o : Option Nat) : d.Examined d o :=
  ⟨fun _ h _ => h, fun _ _ => rfl, rfl, rfl, rfl, (Dev.adds.refl d).mono (Nat.zero_le _)⟩

theorem sameButDeadlock {x : Dev} (h : d.Examined e o) (hs : e.sameButDeadlock x)
    (hw : x.counter .contentionsWon = e.counter .contentionsWon) : d.Examined x o where
  others y hy ho := hs.table ▸ h.others y hy ho
  entry m hm := (Cle.entry_congr hs.table m).trans (h.entry m hm)
  lossCount := hs.lossCount.trans h.lossCount
  gathering := hs.gathering.trans h.gathering
  won := hw.trans h.won
  adds := h.adds.to_lif hs.lif

theorem tidyDeadlock (h : d.Examined e o) : d.Examined e.tidyDeadlock o :=
  h.sameButDeadlock (Dev.sameButDeadlock.tidyDeadlock e) e.tidyDeadlock_won

theorem updateClaim (h : d.Examined e (some n)) {f : Claim → Claim} (hs : ∀ x, (f x).sec = x.sec) :
    d.Examined (e.updateClaim n f) (some n) where
  others x hx ho := List.mem_map.mpr ⟨x, h.others x hx ho, if_neg fun hn => ho (congrArg some hn.symm)⟩
  entry m hm := (Cle.entry_update_ne hs fun hn => hm (congrArg some hn.symm)).trans (h.entry m hm)
  lossCount := h.lossCount
  gathering := h.gathering
  won := h.won
  adds := h.adds.to_lif rfl

/-- The entry of the section leaves the table. -/
theorem dropClaims (d : Dev) (n : Nat) : d.Examined (d.dropClaims (fun e => e.sec == n)) (some n) := by
  have hcle := Dev.foldl_abandon_cle (d.cle.table.filter (fun e => e.sec == n)) d
  have hadds := Dev.adds.foldl_abandon (d.cle.table.filter (fun e => e.sec == n)) d
  have hwon := Dev.foldl_abandon_won (d.cle.table.filter (fun e => e.sec == n)) d
  rw [Dev.dropClaims]
  generalize (d.cle.table.filter (fun e => e.sec == n)).foldl Dev.abandon d = x at hcle hadds hwon ⊢
  refine tidyDeadlock ⟨fun y hy ho => ?_, fun m hm => ?_, ?_, ?_, hwon, (hadds.mono (Nat.zero_le _)).to_lif rfl⟩
  · refine List.mem_filter.mpr ⟨by rw [hcle]; exact hy, ?_⟩
    simpa using fun hn : y.sec = n => ho (congrArg some hn.symm)
  · show (x.cle.table.filter (fun e => !(e.sec == n))).find? (fun e => e.sec == m) = d.cle.table.find? (fun e => e.sec == m)
    rw [hcle, List.find?_filter]
    refine List.find?_congr fun y _ => ?_
    by_cases hy : y.sec = m
    · have hne : m ≠ n := fun hn => hm (congrArg some hn.symm)
      simp [hy, hne]
    · simp [hy]
  · exact (congrArg Cle.lossCount hcle :)
  · exact (congrArg Cle.gathering hcle :)

theorem contend (d : Dev) (c : Claim) : d.Examined (d.contend c) (some c.sec) := by
  let x : Dev := ({ d with cle := { d.cle with nextTag := d.cle.nextTag + 1 } } : Dev).bump .contentionsStarted
  let y := (x.enqueue .intent 0 (ticketPayload c.sec d.currentTicket) (some d.cle.nextTag)).1
  have hcle : y.cle = { d.cle with nextTag := d.cle.nextTag + 1 } := Dev.enqueue_cle ..
  have hwon : y.counter .contentionsWon = d.counter .contentionsWon :=
    (Dev.enqueue_counter (by decide) (by decide) x _ _ _ _).trans (Dev.counter_bump_ne { d with cle := _ } (by decide))
  have hadds : Dev.adds 1 d y := (Dev.adds.enqueue x _ _ _ _).from_lif rfl
  have hsent : d.Examined y (some c.sec) :=
    ⟨fun z hz _ => by rw [hcle]; exact hz, fun m _ => by rw [hcle]; rfl, by rw [hcle], by rw [hcle], hwon, hadds⟩
  unfold Dev.contend
  refine ite_keeps (P := fun e => d.Examined e (some c.sec)) (fun _ => hsent.updateClaim fun _ => rfl) (fun _ => ?_)
  have hmarked := hsent.updateClaim (f := fun e => { e with state := .wanted true }) fun _ => rfl
  exact ⟨hmarked.others, hmarked.entry, hmarked.lossCount, hmarked.gathering,
    (Dev.counter_bump_ne (y.updateClaim _ _) (by decide)).trans hwon, hadds.to_lif rfl⟩

end Dev.Examined

/-- While no peer waits an examination touches the front entry alone. -/
theorem Dev.examineFront_examined {d : Dev} (hok : d.cle.ok) (hidle : ∀ p ∈ d.peers, p.waiting = none) :
    d.Examined d.examineFront (d.cle.front.map (·.sec)) := by
  unfold Dev.examineFront
  cases hc : d.cle.front with
  | none => exact (Dev.Examined.refl d _).tidyDeadlock
  | some c =>
    have hself : d.Examined d (some c.sec) := Dev.Examined.refl d _
    have hset : ∀ st, d.Examined (d.updateClaim c.sec (fun e => { e with state := st })) (some c.sec) := fun st =>
      hself.updateClaim (f := fun e => { e with state := st }) fun _ => rfl
    have hfound : d.Examined (match d.blocked c.sec with
        | some (p, b) =>
          if c.state = .blocked p b none then d
          else (d.updateClaim c.sec (fun e => { e with state := .blocked p b none })).examineMutual
        | none => (d.contend c).tidyDeadlock) (some c.sec) := by
      split
      · next p b _ =>
        refine ite_keeps (P := fun e => d.Examined e (some c.sec)) (fun _ => hself) (fun _ => ?_)
        have hfront := Dev.updateClaim_front (st := .blocked p b none) hok hc rfl
        have hstate : (d.updateClaim c.sec (fun e => { e with state := .blocked p b none })).cle.frontState = some (.blocked p b none) := by
          rw [Cle.frontState, hfront, Option.map_some]
        have hp : (d.updateClaim c.sec (fun e => { e with state := .blocked p b none })).idlePeer p :=
          fun r hr => hidle r (Dev.peer_mem hr)
        exact (hset _).sameButDeadlock
          (Dev.sameButDeadlock.examineMutual_idle (b := b) (w := none) hstate (.inr hp))
          (Dev.examineMutual_won hstate hp)
      · exact (Dev.Examined.contend d c).tidyDeadlock
    refine ite_keeps (P := fun e => d.Examined e (some c.sec)) (fun _ => Dev.Examined.dropClaims d c.sec) (fun _ => ?_)
    refine ite_keeps (P := fun e => d.Examined e (some c.sec)) (fun _ => (hset _).tidyDeadlock) (fun _ => ?_)
    split
    · exact hself
    · exact hself
    · exact hself
    · exact hfound
    · exact hfound

/-! ### The section becomes HELD (R70) -/

section
variable {d : Dev} {c : Claim} {t : Ticket}

/-- An entry that has won its section, its points requested where a leg is needed (R70, R82). -/
def Dev.wonClaim (d : Dev) (points : Bool) (t : Ticket) (e : Claim) : Claim :=
  if points then d.requested false { e with state := .held .route t } else { e with state := .held .route t }

theorem Cle.update_update (x : Cle) (n : Nat) {f g : Claim → Claim} (hf : ∀ e, (f e).sec = e.sec) :
    (x.update n f).update n g = x.update n (g ∘ f) := by
  unfold Cle.update
  rw [List.map_map]
  congr 1
  refine List.map_congr_left fun e _ => ?_
  simp only [Function.comp]
  by_cases h : e.sec = n
  · rw [if_pos h, if_pos h, if_pos ((hf e).trans h)]
  · rw [if_neg h, if_neg h, if_neg h]

/-- The section HELD, the contention won counted and the loss count at 0 (R70). -/
def Dev.marked (d : Dev) (c : Claim) (t : Ticket) : Dev :=
  let x := d.updateClaim c.sec (fun e => { e with state := .held .route t })
  ({ x with cle := { x.cle with lossCount := 0 } } : Dev).bump .contentionsWon

/-- The section HELD and its TAKEN queued (R70). -/
def Dev.wins (d : Dev) (c : Claim) (t : Ticket) : Dev := (d.marked c t).announceTaken c.sec t

theorem Dev.windowExpiry_due {tag w : Nat} (hok : d.cle.ok) (hm : c ∈ d.cle.table) (hst : c.state = .contending t tag (some w))
    (hw : w ≤ d.now) : d.windowExpiry = Dev.event (fun d => ((d.wins c t).afterHeld c.sec).examineFront) d := by
  have hdue : d.due (some w) = true := decide_eq_true hw
  have hfind := Cle.find_contending hok hm (by rw [Claim.isContending, hst])
  simp only [Dev.windowExpiry, hfind, hst, hdue, Bool.not_true, Bool.false_eq_true, if_false]
  rfl

theorem Dev.wins_changes (d : Dev) (c : Claim) (t : Ticket) : ∃ (q : List TxEntry) (x : TxState) (cs : List (BitVec 16)),
    d.wins c t = { d with
      cle := { d.cle.update c.sec (fun e => { e with state := .held .route t }) with lossCount := 0 }
      lif := { d.lif with queue := q, tx := x }, counters := cs } := by
  obtain ⟨q, x, cs, h⟩ := Dev.enqueue_line (d.marked c t) .taken 0 (ticketPayload c.sec t) none
  exact ⟨q, x, cs, h⟩

theorem Dev.judgeHeldReport_changes (d : Dev) (b : Bool) : ∃ (q : List TxEntry) (x : TxState) (cs : List (BitVec 16)) (h : Bool),
    d.judgeHeldReport b = { d with
      lif := { d.lif with queue := q, tx := x }, counters := cs, stc := { d.stc with heldReport := h } } := by
  have hsend : ∀ o, ∃ (q : List TxEntry) (x : TxState) (cs : List (BitVec 16)) (h : Bool), d.sendHeldReport o = { d with
      lif := { d.lif with queue := q, tx := x }, counters := cs, stc := { d.stc with heldReport := h } } := fun o => by
    obtain ⟨q, x, cs, h⟩ := Dev.enqueue_line { d with stc := { d.stc with heldReport := false } } .orderReport o.console
      (orderReportPayload .moveOrder o.id .accepted) none
    exact ⟨q, x, cs, false, h⟩
  unfold Dev.judgeHeldReport
  split
  · split
    · split
      · split
        · exact hsend _
        · exact ⟨_, _, _, _, rfl⟩
      · split
        · exact hsend _
        · exact ⟨_, _, _, _, rfl⟩
    · exact ⟨_, _, _, _, rfl⟩
  · exact ⟨_, _, _, _, rfl⟩

/-- What becoming HELD changes: the entry, the loss count, and what it queues. -/
theorem Dev.won_changes (hok : d.cle.ok) (hm : c ∈ d.cle.table) : ∃ (q : List TxEntry) (x : TxState) (cs : List (BitVec 16)) (h : Bool),
    (d.wins c t).afterHeld c.sec = { d with
      cle := { d.cle.update c.sec (d.wonClaim (d.isPoints c.sec && c.legNeeded.isSome) t) with lossCount := 0 }
      lif := { d.lif with queue := q, tx := x }, counters := cs, stc := { d.stc with heldReport := h } } := by
  have hentry : (d.cle.update c.sec (fun e => { e with state := .held .route t })).entry c.sec
      = some { c with state := .held .route t } := Cle.entry_update (fun _ => rfl) (Cle.entry_of_mem hok hm)
  obtain ⟨q, x, cs, hwins⟩ := d.wins_changes c t
  rw [hwins]
  generalize hy : ({ d with
    cle := { d.cle.update c.sec (fun e => { e with state := .held .route t }) with lossCount := 0 }
    lif := { d.lif with queue := q, tx := x }, counters := cs } : Dev) = y
  have hentry' : y.cle.entry c.sec = some { c with state := .held .route t } := by rw [← hy]; exact hentry
  have hpoints : y.isPoints c.sec = d.isPoints c.sec := by rw [← hy]; rfl
  unfold Dev.afterHeld
  simp only [hentry', hpoints]
  cases d.isPoints c.sec with
  | false =>
    simp only [Bool.false_eq_true, if_false, Bool.false_and]
    have hwon : d.wonClaim false t = fun e => { e with state := .held .route t } := funext fun _ => rfl
    rw [hwon]
    split
    · obtain ⟨q', x', cs', h, heq⟩ := y.judgeHeldReport_changes false
      rw [heq, ← hy]
      exact ⟨_, _, _, _, rfl⟩
    · rw [← hy]
      exact ⟨_, _, _, _, rfl⟩
  | true =>
    simp only [if_true, Bool.true_and]
    cases hl : c.legNeeded with
    | none =>
      have hwon : d.wonClaim (Option.isSome (none : Option Leg)) t = fun e => { e with state := .held .route t } := funext fun _ => rfl
      rw [hwon, ← hy]
      exact ⟨_, _, _, _, rfl⟩
    | some leg =>
      obtain ⟨q', x', cs', heq⟩ := y.requestPoints_changes { c with state := .held .route t } false
      have hupdate := Cle.update_update d.cle c.sec (f := fun e => { e with state := .held .route t }) (g := d.requested false) fun _ => rfl
      have hwon : d.requested false ∘ (fun e => { e with state := .held .route t }) = d.wonClaim (some leg).isSome t := rfl
      rw [hwon] at hupdate
      simp only [hl] at heq ⊢
      refine ⟨q', x', cs', d.stc.heldReport, ?_⟩
      rw [← hupdate]
      refine (if_pos rfl).trans (heq.trans ?_)
      rw [← hy]
      rfl

/-- The front entry once the section is HELD: the first of the others that is not (R58). -/
theorem Cle.front_won (x : Cle) (n : Nat) {f : Claim → Claim} (hf : ∀ e, (f e).isHeld = true) :
    (x.update n f).front = (x.table.filter (fun e => e.sec != n)).find? (fun e => e.idx.isSome && !e.isHeld) := by
  have hcomp : ∀ e : Claim, ((fun e : Claim => e.idx.isSome && !e.isHeld) ∘ fun e => if e.sec = n then f e else e) e
      = (e.sec != n && (e.idx.isSome && !e.isHeld)) := fun e => by
    by_cases h : e.sec = n
    · simp [h, hf]
    · simp [h]
  show (x.table.map _).find? _ = _
  rw [List.find?_map, List.find?_filter, funext hcomp]
  have hsame : (fun e : Claim => e.sec != n && (e.idx.isSome && !e.isHeld))
      = fun e => decide ((e.sec != n) = true ∧ (e.idx.isSome && !e.isHeld) = true) := funext fun e => by
    cases e.sec != n <;> cases e.idx.isSome && !e.isHeld <;> rfl
  rw [hsame]
  cases hfind : x.table.find? (fun e => decide ((e.sec != n) = true ∧ (e.idx.isSome && !e.isHeld) = true)) with
  | none => rfl
  | some e =>
    have hne : e.sec ≠ n := by simpa using (of_decide_eq_true (List.find?_some hfind :)).1
    rw [Option.map_some, if_neg hne]

/-- A frame of a lasting kind is one. -/
theorem TxEntry.lasting_of {f : TxEntry} {k : FrameKind} (h : f.kind = k) (hk : k.txClass ≠ 3 ∧ k ≠ .beacon ∧ k ≠ .intent) : f.lasting := by
  rw [TxEntry.lasting, h]
  exact hk

/-- A TAKEN is queued, when there is room. -/
theorem Dev.announceTaken_queued (hroom : d.lif.hasRoom) (n : Nat) (t : Ticket) :
    ⟨.taken, 0, ticketPayload n t, 0, none, false⟩ ∈ (d.announceTaken n t).lif.queue := by
  show _ ∈ (Dev.enqueue _ _ _ _ _).1.lif.queue
  rw [Dev.enqueue_of_room hroom rfl]
  exact Lif.mem_place ..

theorem Dev.wins_queued (hroom : d.lif.hasRoom) :
    ⟨.taken, 0, ticketPayload c.sec t, 0, none, false⟩ ∈ (d.wins c t).lif.queue :=
  Dev.announceTaken_queued (d := d.marked c t) hroom c.sec t

theorem Dev.wins_adds (d : Dev) (c : Claim) (t : Ticket) : Dev.adds 1 d (d.wins c t) :=
  (Dev.adds.send (d.marked c t) .taken 0 (ticketPayload c.sec t)).from_lif rfl

/-- A POINTS entry that has won its section requests its leg, when there is room (R82). -/
theorem Dev.won_requests {leg : Leg} (hok : d.cle.ok) (hm : c ∈ d.cle.table) (hp : d.isPoints c.sec = true) (hl : c.legNeeded = some leg)
    (hact : d.lif.active = true) (hlen : d.lif.queue.length + 2 ≤ 8) :
    ⟨.pointsRequest, 0, pointsRequestPayload c.sec leg, 0, none, false⟩ ∈ ((d.wins c t).afterHeld c.sec).lif.queue := by
  have hroom : (d.wins c t).lif.hasRoom := (d.wins_adds c t).room hact (Nat.lt_of_succ_le hlen)
  have hentry : (d.wins c t).cle.entry c.sec = some { c with state := .held .route t } := by
    obtain ⟨q, x, cs, hwins⟩ := d.wins_changes c t
    rw [hwins]
    exact Cle.entry_update (fun _ => rfl) (Cle.entry_of_mem hok hm)
  have hpoints : (d.wins c t).isPoints c.sec = true := by
    obtain ⟨q, x, cs, hwins⟩ := d.wins_changes c t
    rw [hwins]
    exact hp
  unfold Dev.afterHeld
  simp only [hentry, hpoints, hl, if_true, Option.isSome_some]
  exact Dev.sendPointsRequest_queued (c := { c with state := .held .route t, legNeeded := some leg }) rfl hroom

theorem Dev.judgeHeldReport_won (d : Dev) (b : Bool) : (d.judgeHeldReport b).counter .contentionsWon = d.counter .contentionsWon := by
  have hsend : ∀ o, (d.sendHeldReport o).counter .contentionsWon = d.counter .contentionsWon := fun o =>
    Dev.enqueue_counter (by decide) (by decide) { d with stc := { d.stc with heldReport := false } } ..
  unfold Dev.judgeHeldReport
  split
  · split
    · split
      · split
        · exact hsend _
        · rfl
      · split
        · exact hsend _
        · rfl
    · rfl
  · rfl

theorem Dev.afterHeld_won (d : Dev) (n : Nat) : (d.afterHeld n).counter .contentionsWon = d.counter .contentionsWon := by
  have hrequest : ∀ e, (d.requestPoints e false).counter .contentionsWon = d.counter .contentionsWon := fun e => by
    have hsent : (d.sendPointsRequest e).counter .contentionsWon = d.counter .contentionsWon := by
      unfold Dev.sendPointsRequest
      split
      · exact Dev.enqueue_counter (by decide) (by decide) ..
      · rfl
    exact hsent
  unfold Dev.afterHeld
  split
  · split
    · split
      · exact hrequest _
      · rfl
    · split
      · exact d.judgeHeldReport_won _
      · rfl
  · rfl

/-- The contention won is counted (R70). -/
theorem Dev.won_counted (hlen : d.counters.length = Counter.count) (c : Claim) (t : Ticket) :
    ((d.wins c t).afterHeld c.sec).counter .contentionsWon = satInc (d.counter .contentionsWon) := by
  refine (Dev.afterHeld_won _ _).trans ((Dev.enqueue_counter (by decide) (by decide) _ _ _ _ _).trans ?_)
  exact Dev.counter_bump { d with cle := _ } .contentionsWon (by rw [hlen]; decide)

end

section
variable {d : Dev} {c : Claim} {t : Ticket}

theorem Dev.wonClaim_fields (d : Dev) (b : Bool) (t : Ticket) (e : Claim) : (d.wonClaim b t e).sec = e.sec ∧ (d.wonClaim b t e).idx = e.idx
    ∧ (d.wonClaim b t e).isHeld = true ∧ (d.wonClaim b t e).state = .held .route t := by
  unfold Dev.wonClaim
  split <;> exact ⟨rfl, rfl, rfl, rfl⟩

/-- The entry of a section that has been won. -/
def Dev.wonEntry (d : Dev) (c : Claim) (t : Ticket) : Claim := d.wonClaim (d.isPoints c.sec && c.legNeeded.isSome) t c

/-- The part within the event, once the section of `c` is HELD: what the examination of the next entry begins with. -/
structure Dev.AfterWin (d y : Dev) (c : Claim) (t : Ticket) : Prop where
  table : y.cle.table = d.cle.table.map (fun e => if e.sec = c.sec then d.wonClaim (d.isPoints c.sec && c.legNeeded.isSome) t e else e)
  ok : y.cle.ok
  front : y.cle.front = (d.cle.table.filter (fun e => e.sec != c.sec)).find? (fun e => e.idx.isSome && !e.isHeld)
  entry : y.cle.entry c.sec = some (d.wonEntry c t)
  lossCount : y.cle.lossCount = 0
  gathering : y.cle.gathering = some []
  peers : y.peers = d.peers
  odo : y.odo = d.odo
  quiet : y.lif.quiet = d.lif.quiet
  stopped : y.claimingStopped = d.claimingStopped
  blocked : ∀ n, y.blocked n = d.blocked n
  ticket : y.currentTicket = { d.currentTicket with loss := 0 }

theorem Dev.after_win (hok : d.cle.ok) (hm : c ∈ d.cle.table) (t : Ticket) :
    d.AfterWin ((d.gatheringNone.wins c t).afterHeld c.sec) c t := by
  obtain ⟨q, x, cs, h, heq⟩ := Dev.won_changes (d := d.gatheringNone) (t := t) hok hm
  rw [heq]
  let f := d.wonClaim (d.isPoints c.sec && c.legNeeded.isSome) t
  have hf : ∀ e, (f e).sec = e.sec ∧ (f e).idx = e.idx ∧ (f e).isHeld = true ∧ (f e).state = .held .route t := d.wonClaim_fields _ t
  have hheld : (d.cle.update c.sec f).ok := Cle.ok_hold c.sec (fun e => (hf e).1) (fun e => (hf e).2.1) (fun e => (hf e).2.2.1) hok
  exact {
    table := rfl
    ok := Cle.ok_same (c := d.cle.update c.sec f) rfl (.inr (Nat.zero_le _)) hheld
    front := Cle.front_won d.cle c.sec fun e => (hf e).2.2.1
    entry := Cle.entry_update (c := d.cle) (f := f) (fun e => (hf e).1) (Cle.entry_of_mem hok hm)
    lossCount := rfl, gathering := rfl, peers := rfl, odo := rfl, quiet := rfl, stopped := rfl
    blocked := fun _ => rfl, ticket := rfl }

namespace Dev.AfterWin
variable {y : Dev}

/-- The next front entry is another that is not HELD. -/
theorem front_other (h : d.AfterWin y c t) {n : Claim} (hn : y.cle.front = some n) :
    n ∈ d.cle.table ∧ n.sec ≠ c.sec ∧ n.isHeld = false := by
  rw [h.front] at hn
  obtain ⟨hmem, hne⟩ := List.mem_filter.mp (List.mem_of_find?_eq_some hn)
  have hopen : n.idx.isSome = true ∧ n.isHeld = false := by simpa using List.find?_some hn
  exact ⟨hmem, by simpa using hne, hopen.2⟩

/-- The examination leaves the HELD entries and the section won alone. -/
theorem front_ne (h : d.AfterWin y c t) (hok : d.cle.ok) {x : Claim} (hx : x ∈ d.cle.table) (hs : x.isHeld = true ∨ x.sec = c.sec) :
    y.cle.front.map (·.sec) ≠ some x.sec := by
  intro hsame
  obtain ⟨n, hn, hsec⟩ := Option.map_eq_some_iff.mp hsame
  obtain ⟨hmem, hne, hopen⟩ := h.front_other hn
  obtain hheld | hs := hs
  · rw [Cle.sec_inj hok hmem hx hsec, hheld] at hopen
    exact Bool.false_ne_true hopen.symm
  · exact hne (hsec.trans hs)

/-- With every other entry HELD nothing is examined. -/
theorem alone (h : d.AfterWin y c t) (hall : ∀ x ∈ d.cle.table.filter (fun e => e.sec != c.sec), x.isHeld = true) :
    y.examineFront.cle.front = none
      ∧ y.examineFront.cle.table.map (fun x => (x.sec, x.idx)) = d.cle.table.map (fun x => (x.sec, x.idx)) := by
  have hnone : y.cle.front = none := by
    rw [h.front, List.find?_eq_none]
    exact fun z hz => by simp [hall z hz]
  have htidy : y.examineFront.cle.table = y.cle.table := by
    rw [Dev.examineFront, hnone]
    exact Dev.tidyDeadlock_table y
  refine ⟨?_, ?_⟩
  · rw [Cle.front, htidy]
    exact hnone
  · rw [htidy, h.table, List.map_map]
    refine List.map_congr_left fun z _ => ?_
    obtain ⟨hsec, hidx, -⟩ := d.wonClaim_fields (d.isPoints c.sec && c.legNeeded.isSome) t z
    by_cases hs : z.sec = c.sec
    · simp [hs, hsec, hidx]
    · simp [hs]

/-- The examination of the next entry by what it finds (R66). -/
theorem next_finds (h : d.AfterWin y c t) (hidle : ∀ p ∈ d.peers, p.waiting = none) {n : Claim} (hn : y.cle.front = some n)
    (hw : n.isWanted = true) :
    (d.claimingStopped = true → y.examineFront.cle.entry n.sec = none)
      ∧ (d.claimingStopped = false → d.lif.quiet = true → y.examineFront.cle.entry n.sec = some { n with state := .wanted false })
      ∧ (∀ p b, d.claimingStopped = false → d.lif.quiet = false → d.blocked n.sec = some (p, b) →
        y.examineFront.cle.entry n.sec = some { n with state := .blocked p b none })
      ∧ (d.claimingStopped = false → d.lif.quiet = false → d.blocked n.sec = none → y.lif.hasRoom →
        ∃ g, y.examineFront.cle.entry n.sec = some { n with state := .contending { d.currentTicket with loss := 0 } g none }
          ∧ ∃ f ∈ y.examineFront.lif.queue, f.kind = .intent ∧ f.tag = some g) := by
  have hawaits : n.awaits := .inl (by
    cases hns : n.state <;> rw [Claim.isWanted, hns] at hw
    · exact ⟨_, rfl⟩
    all_goals cases hw)
  refine ⟨fun hstop => ?_, fun hstop hq => ?_, fun p b hstop hq hb => ?_, fun hstop hq hb hroom => ?_⟩
  · rw [Dev.examineFront_stopped hn (h.stopped.trans hstop)]
    exact Dev.dropClaims_entry y n.sec
  · rw [Dev.examineFront_quiet hn (h.stopped.trans hstop) (h.quiet.trans hq), Cle.entry_congr (Dev.tidyDeadlock_table _)]
    exact Dev.updateClaim_state h.ok hn _
  · have hblocks := Dev.examineFront_blocks h.ok hn hawaits (h.stopped.trans hstop) (h.quiet.trans hq) ((h.blocked _).trans hb)
      fun r hr => hidle r (h.peers ▸ Dev.peer_mem hr)
    exact (Cle.entry_congr hblocks.table n.sec).trans (Dev.updateClaim_state h.ok hn _)
  · obtain ⟨hcontends, -, hqueued⟩ := Dev.examineFront_intent h.ok hn hawaits (h.stopped.trans hstop) (h.quiet.trans hq)
      ((h.blocked _).trans hb) hroom
    exact ⟨_, h.ticket ▸ hcontends, _, hqueued, rfl, rfl⟩

end Dev.AfterWin

end

/-- Settles O43: the section HELD with its TAKEN and its points requested, then the examination of the next entry by what it finds. -/
theorem windowExpiryHoldsTheSection : Obligations.WindowExpiryHoldsTheSection := by
  intro s c t tag w d hok hm hst hw hidle others
  refine ⟨_, (rfl : exec .windowExpiry s = .next { s with dev := d.windowExpiry }), ?_⟩
  rw [Dev.windowExpiry_due hok hm hst hw]
  have hwin := d.after_win hok hm t
  have hadds : Dev.adds 2 d ((d.gatheringNone.wins c t).afterHeld c.sec) :=
    ((d.gatheringNone.wins_adds c t).trans (Dev.adds.afterHeld _ c.sec)).from_lif rfl
  have htaken : d.lif.hasRoom → _ := fun hr => (Dev.adds.afterHeld (d.gatheringNone.wins c t) c.sec).stays _
    (Dev.wins_queued (d := d.gatheringNone) hr) (TxEntry.lasting_of (k := .taken) rfl (by decide))
  have hrequest : ∀ leg, d.isPoints c.sec = true → c.legNeeded = some leg → d.lif.active = true → d.lif.queue.length + 2 ≤ 8 → _ :=
    fun leg hp hl hact hlen => Dev.won_requests (d := d.gatheringNone) (t := t) hok hm hp hl hact hlen
  have hwon : d.counters.length = Counter.count → _ := fun hlen => Dev.won_counted (d := d.gatheringNone) hlen c t
  generalize hy : (d.gatheringNone.wins c t).afterHeld c.sec = y at *
  have hex := Dev.examineFront_examined hwin.ok (hwin.peers ▸ hidle)
  have hact : (fun d : Dev => ((d.wins c t).afterHeld c.sec).examineFront) d.gatheringNone = y.examineFront := by rw [← hy]
  obtain ⟨hodo, -, -, hpeers, -, -⟩ := Dev.claimsApart_frame ((claimWork_apart y).examineFront y.claimsApart_refl)
  rw [Dev.event_eq hact (hex.gathering.trans hwin.gathering)]
  have hentry : y.examineFront.cle.entry c.sec = some (d.wonEntry c t) := (hex.entry _ (hwin.front_ne hok hm (.inr rfl))).trans hwin.entry
  obtain ⟨hsec, hidx, -, hstate⟩ := d.wonClaim_fields (d.isPoints c.sec && c.legNeeded.isSome) t c
  refine ⟨⟨_, (Cle.entry_mem hentry).1, hsec, hidx, hstate⟩, fun hno => hentry.trans ?plain, fun leg hp hl => ⟨hentry.trans ?points, ?request⟩,
    fun z hz hheld => hex.others z ?held (hwin.front_ne hok hz (.inl hheld)), hex.lossCount.trans hwin.lossCount, hodo.trans hwin.odo,
    hpeers.trans hwin.peers, fun hlen => hex.won.trans (hwon hlen),
    fun hroom => ⟨_, hex.adds.stays _ (htaken hroom) (TxEntry.lasting_of (k := .taken) rfl (by decide)), rfl, rfl, rfl⟩, hwin.alone,
    fun n hn hwanted => ?next⟩
  case plain =>
    have hflag : (d.isPoints c.sec && c.legNeeded.isSome) = false := by
      obtain hp | hl := hno
      · rw [hp, Bool.false_and]
      · rw [hl, Option.isSome_none, Bool.and_false]
    rw [Dev.wonEntry, hflag]
    rfl
  case points =>
    have hflag : (d.isPoints c.sec && c.legNeeded.isSome) = true := by rw [hp, hl]; rfl
    rw [Dev.wonEntry, hflag]
    rfl
  case request =>
    intro hact hlen
    exact ⟨_, hex.adds.stays _ (hrequest leg hp hl hact hlen) (TxEntry.lasting_of (k := .pointsRequest) rfl (by decide)), rfl, rfl, rfl⟩
  case held =>
    rw [hwin.table]
    refine List.mem_map.mpr ⟨z, hz, if_neg fun hs => ?_⟩
    rw [Cle.sec_inj hok hz hm hs, Claim.isHeld, hst] at hheld
    exact Bool.false_ne_true hheld
  case next =>
    obtain ⟨hstop, hquiet, hblocks, hcontends⟩ := hwin.next_finds hidle (hwin.front.trans hn) hwanted
    exact ⟨hstop, hquiet, hblocks, fun h1 h2 h3 hact hlen => hcontends h1 h2 h3 (hadds.room hact (Nat.lt_of_succ_le hlen))⟩

end Sys2Proof.Machine

/-! SUPPORT. An ABORT taken: while the carriage moves, at standstill, and of a departure (R80, R152, R156). -/

namespace Sys2Proof.Machine

section
variable {d e : Dev} {o : Order}

/-! ### The end of an aborted order (R152, R156) -/

/-- What an aborted order leaves, in the state that the station takes then. -/
structure Dev.AbortedIn (e : Dev) (id : Nat) (st : StationState) : Prop where
  order : e.stc.order = none
  state : e.stc.state = st
  pending : e.stc.abortPending = false
  last : e.stc.lastOrder = ⟨id, some .aborted, none⟩
  view : e.cle.view = none
  loss : e.cle.lossCount = 0
  speed : e.sup.vOrder = none
  dest : e.dkc.dest = none

theorem Dev.endOrder_aborts (ho : d.stc.order = some o) {st : StationState} (hs : st ∈ [.listen, .noPosition, .standing, .parked]) :
    ((d.endOrder .aborted none).enterState st).AbortedIn o.id st := by
  have hrouting := Dev.endOrder_routing ho .aborted none
  obtain ⟨c, q, t, fs, cs, w, heq, -⟩ := Dev.endOrder_changes ho .aborted none
  rw [Dev.enterState_of_rest hs]
  rw [heq] at hrouting ⊢
  obtain ⟨hview, hloss⟩ := Prod.mk.inj hrouting
  exact ⟨rfl, rfl, rfl, rfl, hview, hloss, rfl, rfl⟩

/-- The rest state after the end of an order goes by the clamp sensors and the parked pad (R143). -/
theorem Dev.endOrder_restState (ho : d.stc.order = some o) (u : OrderOutcome) (k : Option FaultKind) : (d.endOrder u k).restState
    = if !d.odo.known then .noPosition else if d.bdu.clampsHeld && d.stc.parkedPad.isSome then .parked else .standing := by
  obtain ⟨c, q, t, fs, cs, w, heq, -⟩ := Dev.endOrder_changes ho u k
  have hknown : d.odo.offRoute.known = d.odo.known := rfl
  have hsub : ((d.dkc.ended d.bdu w).sub == .clamped) = d.bdu.clampsHeld := by
    show ((if d.bdu.clampsHeld then DockState.clamped else .idle) == .clamped) = d.bdu.clampsHeld
    cases d.bdu.clampsHeld <;> rfl
  rw [heq, Dev.restState]
  simp only [hknown, hsub]
  rfl

/-! ### ABORT in the blocks (R80, R140, R156) -/

/-- The releases of an ABORT wait for standstill (R80). -/
def Dev.abortAwaited (d : Dev) : Dev := { d with cle := { d.cle with abortPending := true } }

/-- CLE at an ABORT taken while the carriage moves: what is not HELD leaves the table, and the releases wait (R80). -/
theorem Dev.claimsAbort_moving (hs : d.odo.standstill = false) : d.claimsAbort.cle.table = d.cle.table.filter Claim.isHeld
    ∧ d.claimsAbort.cle.view = d.cle.view ∧ d.claimsAbort.cle.abortPending = true := by
  have hdropped := (Dev.Gives.begun d).dropUnheld
  generalize hx : d.gatheringNone.dropUnheld.abortAwaited = x
  have hodo : x.odo = d.odo := by rw [← hx]; exact hdropped.odo
  have hcalm : d.gatheringNone.dropUnheld.abortAwaited.settleAbort = x := by
    rw [hx]
    exact Dev.settleAbort_calm fun h => Bool.false_ne_true (hs.symm.trans (hodo ▸ h.2.1))
  rw [Dev.claimsAbort, Dev.event_eq hcalm (by rw [← hx]; exact hdropped.gathering), ← hx]
  exact ⟨hdropped.table, hdropped.view, rfl⟩

/-- DKC at an ABORT outside UNCLAMPING keeps its sub-state and BDU's record (R140). -/
theorem Dev.dockAbort_changes (h : d.dkc.sub ≠ .unclamping) : ∃ k : Dkc, d.dockAbort = { d with dkc := k } ∧ k.sub = d.dkc.sub
    ∧ (d.dkc.sub ≠ .clamped → k.abortTaken = true) := by
  unfold Dev.dockAbort
  cases hsub : d.dkc.sub
  case unclamping => exact absurd hsub h
  case clamped => exact ⟨d.dkc, rfl, hsub, fun h => absurd rfl h⟩
  all_goals exact ⟨_, rfl, hsub, fun _ => rfl⟩

/-- DKC at an ABORT leaves the order, the parked pad, the position and the clamp sensors alone. -/
theorem Dev.dockAbort_keeps (d : Dev) : d.dockAbort.stc = d.stc ∧ d.dockAbort.bdu.clampsHeld = d.bdu.clampsHeld := by
  by_cases h : d.dkc.sub = .unclamping
  · obtain ⟨w, hw⟩ := Dev.dropClampCommands_changes { d with dkc := { d.dkc with clampTimer := none } }
    rw [Dev.dockAbort, h]
    simp only [hw]
    exact ⟨rfl, rfl⟩
  · obtain ⟨k, heq, -⟩ := Dev.dockAbort_changes h
    rw [heq]
    exact ⟨rfl, rfl⟩

/-- A departure that an ABORT ends (R156). -/
theorem Dev.abortDeparture_aborts (ho : d.stc.order = some o) :
    d.abortDeparture.AbortedIn o.id (if d.bdu.clampsHeld then .parked else .standing) := by
  obtain ⟨hstc, hheld⟩ := d.dockAbort_keeps
  have ho' : d.dockAbort.stc.order = some o := by rw [hstc, ho]
  obtain ⟨c, q, t, fs, cs, w, heq, -⟩ := Dev.endOrder_changes ho' .aborted none
  have hsub : ((d.dockAbort.endOrder .aborted none).dkc.sub == .clamped) = d.bdu.clampsHeld := by
    rw [heq]
    show ((if d.dockAbort.bdu.clampsHeld then DockState.clamped else .idle) == .clamped) = _
    rw [hheld]
    cases d.bdu.clampsHeld <;> rfl
  rw [Dev.abortDeparture]
  simp only [hsub]
  refine Dev.endOrder_aborts ho' ?_
  split <;> decide

/-! ### The console's ABORT (R156) -/

theorem Dev.abort_taken (hp : d.stc.abortPending = false) (ho : d.stc.order = some o)
    (hs : d.stc.state ∈ [.running, .approach, .docking, .halted]) (all : Bool) (n : Nat) : d.abort all n
      = (({ d with stc := { d.stc with abortPending := true } } : Dev).claimsAbort.dockAbort).completeAbort := by
  rw [Dev.abort, hp, ho]
  simp only [List.mem_cons, List.not_mem_nil, or_false] at hs
  obtain hs | hs | hs | hs := hs <;> rw [hs] <;> rfl

/-- An ABORT taken while the carriage moves is pending (R156). -/
theorem Dev.abort_moving (hp : d.stc.abortPending = false) (ho : d.stc.order = some o)
    (hs : d.stc.state ∈ [.running, .approach, .docking, .halted]) (hmoves : d.odo.standstill = false) (hsub : d.dkc.sub ≠ .unclamping)
    (all : Bool) (n : Nat) : let x := d.abort all n
    x.stc = { d.stc with abortPending := true } ∧ x.cle.abortPending = true ∧ x.cle.table = d.cle.table.filter Claim.isHeld
      ∧ x.cle.view = d.cle.view ∧ x.odo = d.odo ∧ x.bdu = d.bdu ∧ x.peers = d.peers ∧ (d.dkc.sub ≠ .clamped → x.dkc.abortTaken = true) := by
  intro x
  generalize hy : ({ d with stc := { d.stc with abortPending := true } } : Dev) = y
  obtain ⟨htable, hview, hpending⟩ := Dev.claimsAbort_moving (d := y) (hy ▸ hmoves)
  obtain ⟨c, q, t, fs, cs, heq, -⟩ := (claimWork_apart y).claimsAbort y.claimsApart_refl
  obtain ⟨k, hdock, -, htaken⟩ := Dev.dockAbort_changes (d := y.claimsAbort) (by rw [heq, ← hy]; exact hsub)
  have hx : x = { y.claimsAbort with dkc := k } := by
    refine (Dev.abort_taken hp ho hs all n).trans ?_
    rw [hy, hdock, Dev.completeAbort, if_neg]
    rw [heq, ← hy]
    simp only [hmoves, Bool.and_false, Bool.false_and, Bool.false_eq_true, not_false_eq_true]
  rw [hx]
  refine ⟨?_, hpending, htable.trans (hy ▸ rfl), hview.trans (hy ▸ rfl), ?_, ?_, ?_, fun h => htaken ?_⟩
  iterate 4 rw [heq, ← hy]
  rw [heq, ← hy]
  exact h

/-- An ABORT taken at standstill ends the order at once (R156). -/
theorem Dev.abort_standing (hp : d.stc.abortPending = false) (ho : d.stc.order = some o)
    (hs : d.stc.state ∈ [.running, .approach, .docking, .halted]) (hstill : d.odo.standstill = true)
    (hsub : d.dkc.sub ≠ .clamping ∧ d.dkc.sub ≠ .unclamping) (all : Bool) (n : Nat) : (d.abort all n).AbortedIn o.id
      (if !d.odo.known then .noPosition else if d.bdu.clampsHeld && d.stc.parkedPad.isSome then .parked else .standing) := by
  generalize hy : ({ d with stc := { d.stc with abortPending := true } } : Dev) = y
  obtain ⟨c, q, t, fs, cs, heq, -⟩ := (claimWork_apart y).claimsAbort y.claimsApart_refl
  obtain ⟨k, hdock, hkept, -⟩ := Dev.dockAbort_changes (d := y.claimsAbort) (by rw [heq, ← hy]; exact hsub.2)
  generalize hz : y.claimsAbort.dockAbort = z
  have hzdev : z.stc = y.stc ∧ z.odo = d.odo ∧ z.bdu = d.bdu ∧ z.dkc.sub = d.dkc.sub := by
    rw [← hz, hdock]
    refine ⟨?_, ?_, ?_, hkept.trans ?_⟩ <;> rw [heq, ← hy]
  obtain ⟨hstc, hodo, hbdu, hzsub⟩ := hzdev
  have hzorder : z.stc.order = some o := by rw [hstc, ← hy]; exact ho
  have hif : (z.stc.abortPending && z.stc.order.isSome && z.odo.standstill && z.dkc.sub != .clamping && z.dkc.sub != .unclamping) = true := by
    rw [hzorder, hstc, hodo, hzsub, ← hy]
    simp [hstill, hsub]
  have hrunning : ((z.endOrder .aborted none).stc.state == .safeStop) = false := by
    obtain ⟨c', q', t', fs', cs', w, hend, -⟩ := Dev.endOrder_changes hzorder .aborted none
    rw [hend]
    show (z.stc.state == .safeStop) = false
    rw [hstc, ← hy]
    refine beq_false_of_ne fun h => ?_
    rw [show d.stc.state = .safeStop from h] at hs
    exact absurd hs (by decide)
  have habort : d.abort all n = (z.endOrder .aborted none).enterState (z.endOrder .aborted none).restState := by
    rw [Dev.abort_taken hp ho hs all n, hy, hz, Dev.completeAbort, if_pos hif]
    simp only [hrunning, Bool.false_eq_true, if_false]
  have hrest := Dev.endOrder_restState hzorder .aborted none
  have hpad : z.stc.parkedPad = d.stc.parkedPad := by rw [hstc, ← hy]
  rw [hodo, hbdu, hpad] at hrest
  rw [habort, hrest]
  refine Dev.endOrder_aborts hzorder ?_
  split
  · decide
  · split <;> decide

end

/-- Settles O39: an ABORT by what it finds, the order's end at standstill and of a departure included. -/
theorem abortIsJudged : Obligations.AbortIsJudged := by
  intro s f rest d hpass hk e id told refused held ended current taken
  have hexec : exec .abort s = .next { s with dev := e.abort f.toAll f.src } := exec_abort hpass hk
  have hid : ∀ {o : Order}, e.stc.order = some o → o.id = id := fun {o} ho => by
    show o.id = ((e.stc.order).map (·.id)).getD 0
    rw [ho]
    rfl
  have hheld : held ↔ e.bdu.clampsHeld = true := by
    show _ ↔ (e.bdu.inClampsDown && !e.bdu.inClampsUp) = true
    rw [Bool.and_eq_true, Bool.not_eq_true']
  have hended : ∀ {o : Order} {st : StationState}, e.stc.order = some o → (e.abort f.toAll f.src).AbortedIn o.id st → ended st :=
    fun {o} {st} ho h => ⟨_, hexec, h.order, h.state, h.pending, hid ho ▸ h.last, h.view, h.loss, h.speed, h.dest⟩
  have hrefused : ∀ r, e.abort f.toAll f.src = e.refuseAbort f.toAll f.src r → refused r := fun r hr => by
    have htold : told r = e.answer f.toAll f.src .abort e.orderId (.refused r) := by
      show (if f.dest = 0 then e else _) = if f.toAll then e else _
      by_cases hdest : f.dest = 0
      · rw [if_pos hdest, if_pos (by rw [Frame.toAll, hdest]; rfl)]
      · rw [if_neg hdest, if_neg (by simpa [Frame.toAll] using hdest)]
        rfl
    show exec .abort s = .next { s with dev := (told r).bump .abortsRefused }
    rw [hexec, hr, Dev.refuseAbort, htold]
  refine ⟨fun htaken hmoves hsub => ?moving, fun htaken hstill hc hu => ?standing, fun hcur hpark => ?departure, fun hp => ?pending,
    fun hp ho => hrefused _ ?none, fun hcur hsafe => hrefused _ ?stopped⟩
  case moving =>
    obtain ⟨⟨hp, ho⟩, hs⟩ := htaken
    obtain ⟨o, ho⟩ := Option.isSome_iff_exists.mp ho
    exact ⟨_, hexec, Dev.abort_moving hp ho hs hmoves hsub f.toAll f.src⟩
  case standing =>
    obtain ⟨⟨hp, ho⟩, hs⟩ := htaken
    obtain ⟨o, ho⟩ := Option.isSome_iff_exists.mp ho
    have haborted := Dev.abort_standing hp ho hs hstill ⟨hc, hu⟩ f.toAll f.src
    refine ⟨fun hun => hended ho ?_, fun hkn hh hpad => hended ho ?_, fun hkn hno => hended ho ?_⟩
    · have hunknown : (!e.odo.known) = true := by rw [Odo.known, hun]; rfl
      rwa [if_pos hunknown] at haborted
    all_goals have hknown : ¬(!e.odo.known) = true := by rw [e.odo.known_iff.mpr hkn]; decide
    · rwa [if_neg hknown, if_pos (by rw [hheld.mp hh, hpad]; rfl)] at haborted
    · rwa [if_neg hknown, if_neg] at haborted
      rw [Bool.and_eq_true]
      rintro ⟨hh, hpad⟩
      exact hno.elim (fun h => h (hheld.mpr hh)) fun h => by rw [h] at hpad; cases hpad
  case departure =>
    obtain ⟨hp, ho⟩ := hcur
    obtain ⟨o, ho⟩ := Option.isSome_iff_exists.mp ho
    have haborted := Dev.abortDeparture_aborts ho
    rw [show e.abortDeparture = e.abort f.toAll f.src by rw [Dev.abort, hp, ho, hpark]; rfl] at haborted
    refine ⟨fun hh => hended ho ?_, fun hh => hended ho ?_⟩
    · rwa [if_pos (hheld.mp hh)] at haborted
    · rwa [if_neg (mt hheld.mpr hh)] at haborted
  case pending => rw [hexec, Dev.abort, if_pos hp]
  case none => rw [Dev.abort, hp, ho]; rfl
  case stopped =>
    obtain ⟨hp, ho⟩ := hcur
    obtain ⟨o, ho⟩ := Option.isSome_iff_exists.mp ho
    rw [Dev.abort, hp, ho, hsafe]
    rfl

end Sys2Proof.Machine

/-! SUPPORT. A section under the footprint that becomes HELD, as long as no raise brings the station to SAFE-STOP (R62, R82, R158). -/

namespace Sys2Proof.Machine

/-! ### A conflict (R62, R158) -/

/-- A peer holds or occupies the section (R53, R62). -/
def Dev.conflicts (d : Dev) (n : Nat) : Bool :=
  (d.blocked n).any (fun x => x.2 != .intent)

theorem Dev.conflicts_iff (d : Dev) (n : Nat) : d.conflicts n = true ↔ ∃ p b, d.blocked n = some (p, b) ∧ b ≠ .intent := by
  unfold Dev.conflicts
  rw [Option.any_eq_true]
  constructor
  · rintro ⟨⟨p, b⟩, h, hb⟩
    exact ⟨p, b, h, by simpa using hb⟩
  · rintro ⟨p, b, h, hb⟩
    exact ⟨(p, b), h, by simpa using hb⟩

/-- A conflict on a section raises OCCUPANCY-CONFLICT (R62). -/
def Dev.judgeConflict (d : Dev) (n : Nat) : Dev :=
  if d.conflicts n then d.raise .occupancyConflict else d

/-- The ticket of an entry under the footprint (R60, R62). -/
def Dev.occupancyTicket (d : Dev) : Ticket :=
  { d.currentTicket with occupancy := true }

/-- An entry marked HELD with basis OCCUPANCY, its contention abandoned (R62). -/
def Dev.markOccupied (d : Dev) (c : Claim) : Dev :=
  ((d.abandon c).updateClaim c.sec (fun e => { e with state := .held .occupancy d.occupancyTicket })).tidyDeadlock

theorem Dev.occupy_eq {d : Dev} {c : Claim} {n : Nat} (h : d.cle.entry n = some c) :
    d.occupy n = (((d.markOccupied c).judgeConflict n).announceTaken n d.occupancyTicket).afterHeld n := by
  obtain ⟨-, rfl⟩ := Cle.entry_mem h
  have hjudge : ∀ x : Dev, (match x.blocked c.sec with
      | some (_, .held) | some (_, .occupied) => x.raise .occupancyConflict
      | some (_, .intent) | none => x) = x.judgeConflict c.sec := fun x => by
    rw [Dev.judgeConflict, Dev.conflicts]
    cases x.blocked c.sec with
    | none => rfl
    | some y =>
      obtain ⟨p, b⟩ := y
      cases b <;> rfl
  unfold Dev.occupy
  simp only [h]
  exact congrArg (fun x : Dev => (x.announceTaken c.sec d.occupancyTicket).afterHeld c.sec) (hjudge (d.markOccupied c))

/-- The station takes no SAFE-STOP raise: it is in SAFE-STOP already, or not yet past the start (R180). -/
def Dev.deaf (d : Dev) : Prop :=
  d.stc.state ∈ [StationState.safeStop, .start, .bootFailed, .bootHold]

theorem Dev.raise_deaf {d : Dev} (h : d.deaf) : d.raise .occupancyConflict = d.enterFault .occupancyConflict := by
  have hstc : (d.enterFault .occupancyConflict).stc.state = d.stc.state := by
    obtain ⟨_, _, _, heq, -⟩ := d.enterFault_changes .occupancyConflict
    rw [heq]
  unfold Dev.raise Dev.takeRaise
  rw [hstc]
  unfold Dev.deaf at h
  simp only [List.mem_cons, List.not_mem_nil, or_false] at h
  obtain h | h | h | h := h <;> rw [h] <;> rfl

/-! ### What it comes to -/

/-- The entry of a section that has become HELD under the footprint (R62, R82). -/
def Dev.occupied (d : Dev) (c : Claim) : Claim :=
  let e := { c with state := .held .occupancy d.occupancyTicket }
  if d.isPoints c.sec && c.legNeeded.isSome then d.requested false e else e

theorem Dev.occupied_fields (d : Dev) (c : Claim) : (d.occupied c).sec = c.sec ∧ (d.occupied c).idx = c.idx
    ∧ (d.occupied c).isHeld = true ∧ (d.occupied c).state = .held .occupancy d.occupancyTicket ∧ (d.occupied c).legNeeded = c.legNeeded := by
  unfold Dev.occupied
  simp only
  split <;> exact ⟨rfl, rfl, rfl, rfl, rfl⟩

/-- What taking sections under the footprint leaves of the blocks: the faults but DEADLOCK, and OCCUPANCY-CONFLICT where it may be raised. -/
def Dev.takesApart (loud : Bool) (d e : Dev) : Prop :=
  ∃ (c : Cle) (q : List TxEntry) (t : TxState) (fs : List FaultEntry) (cs : List (BitVec 16)) (h : Bool),
    e = { d with cle := c, lif := { d.lif with queue := q, tx := t }, faults := fs, counters := cs, stc := { d.stc with heldReport := h } }
      ∧ ∀ k, k ≠ .deadlock → (loud = true → k ≠ .occupancyConflict) → kindIn fs k = d.faultActive k

section
variable {loud : Bool} {d e f : Dev}

theorem Dev.takesApart_refl (loud : Bool) (d : Dev) : d.takesApart loud d := ⟨_, _, _, _, _, _, rfl, fun _ _ _ => rfl⟩

theorem Dev.takesApart_trans (h : d.takesApart loud e) (h' : e.takesApart loud f) : d.takesApart loud f := by
  obtain ⟨_, _, _, _, _, _, rfl, hfs⟩ := h
  obtain ⟨_, _, _, _, _, _, rfl, hfs'⟩ := h'
  exact ⟨_, _, _, _, _, _, rfl, fun k hk hl => (hfs' k hk hl).trans (hfs k hk hl)⟩

theorem claimWork_takesApart (loud : Bool) (d : Dev) : ClaimWork (d.takesApart loud) where
  counters _ h := by
    obtain ⟨_, _, _, _, _, _, rfl, hfs⟩ := h
    exact ⟨_, _, _, _, _, _, rfl, hfs⟩
  enqueue k dst b t h := by
    obtain ⟨_, _, _, _, _, _, rfl, hfs⟩ := h
    obtain ⟨_, _, _, heq⟩ := Dev.enqueue_line _ k dst b t
    exact ⟨_, _, _, _, _, _, heq, hfs⟩
  withdraw tag h := by
    obtain ⟨_, _, _, _, _, _, rfl, hfs⟩ := h
    obtain ⟨_, _, heq⟩ := Dev.withdraw_line _ tag
    exact ⟨_, _, _, _, _, _, heq, hfs⟩
  cle _ h := by
    obtain ⟨_, _, _, _, _, _, rfl, hfs⟩ := h
    exact ⟨_, _, _, _, _, _, rfl, hfs⟩
  deadlock l hl h := by
    obtain ⟨_, _, _, _, _, _, rfl, hfs⟩ := h
    exact ⟨_, _, _, _, _, _, rfl, fun k hk hloud => (hl k hk).trans (hfs k hk hloud)⟩

theorem Dev.takesApart_enterFault (h : d.takesApart true e) : d.takesApart true (e.enterFault .occupancyConflict) := by
  obtain ⟨_, _, _, _, _, _, rfl, hfs⟩ := h
  obtain ⟨fs, b, cs, heq, hin⟩ := Dev.enterFault_changes _ .occupancyConflict
  rw [heq]
  have hkinds : ∀ k, k ≠ .deadlock → (true = true → k ≠ .occupancyConflict) → kindIn fs k = d.faultActive k := fun k hk hl => by
    rw [hin, beq_false_of_ne (hl rfl).symm, Bool.false_or]
    exact hfs k hk hl
  split
  · rw [Lif.place_eq]
    exact ⟨_, _, _, _, _, _, rfl, hkinds⟩
  · exact ⟨_, _, _, _, _, _, rfl, hkinds⟩

end

/-! ### What it queues (R173) -/

/-- The reports that taking sections may still queue beside their own frames: a held one, and that of OCCUPANCY-CONFLICT. -/
def Dev.owes (loud : Bool) (d : Dev) : Nat :=
  (d.stc.order.isSome && d.stc.heldReport).toNat + (loud && !d.faultActive .occupancyConflict).toNat

/-- From `d` to `e` at most `n` frames have joined the queue beside the reports that were owed. -/
def Dev.spends (loud : Bool) (n : Nat) (d e : Dev) : Prop :=
  ∃ k, Dev.adds k d e ∧ k + e.owes loud ≤ d.owes loud + n

section
variable {loud : Bool} {d e f : Dev} {n m : Nat}

theorem Dev.spends.refl (loud : Bool) (d : Dev) : d.spends loud 0 d := ⟨0, Dev.adds.refl d, (Nat.zero_add _).le⟩

theorem Dev.spends.trans (h : d.spends loud n e) (h' : e.spends loud m f) : d.spends loud (n + m) f := by
  obtain ⟨k, hadds, hle⟩ := h
  obtain ⟨j, hadds', hle'⟩ := h'
  exact ⟨k + j, hadds.trans hadds', by omega⟩

theorem Dev.spends.mono (h : d.spends loud n e) (hle : n ≤ m) : d.spends loud m e := by
  obtain ⟨k, hadds, hk⟩ := h
  exact ⟨k, hadds, by omega⟩

/-- What changes no report that is owed. -/
theorem Dev.spends.of_adds (h : Dev.adds n d e) (hs : e.stc = d.stc)
    (hf : e.faultActive .occupancyConflict = d.faultActive .occupancyConflict) : d.spends loud n e :=
  ⟨n, h, by rw [Dev.owes, Dev.owes, hs, hf, Nat.add_comm]⟩

theorem Dev.spends.room (h : d.spends loud n e) (hact : d.lif.active = true) (hlen : d.lif.queue.length + d.owes loud + n < 8) :
    e.lif.hasRoom := by
  obtain ⟨k, hadds, hk⟩ := h
  exact hadds.room hact (by omega)

theorem Dev.spends.stays (h : d.spends loud n e) {y : TxEntry} (hy : y ∈ d.lif.queue) (hl : y.lasting) : y ∈ e.lif.queue := by
  obtain ⟨_, hadds, -⟩ := h
  exact hadds.stays y hy hl

theorem Dev.spends.enterFault (d : Dev) : d.spends true 0 (d.enterFault .occupancyConflict) := by
  obtain ⟨fs, b, cs, heq, hin⟩ := d.enterFault_changes .occupancyConflict
  have hafter : (d.enterFault .occupancyConflict).owes true = (d.stc.order.isSome && d.stc.heldReport).toNat := by
    rw [Dev.owes, Dev.enterFault_active, heq]
    rfl
  by_cases hnew : d.faultActive .occupancyConflict = false ∧ d.lif.hasRoom
  · refine ⟨1, ?_, by rw [hafter, Dev.owes, hnew.1]; simp only [Bool.not_false, Bool.and_true, Bool.toNat_true]; omega⟩
    rw [heq, if_pos hnew]
    exact ⟨by rw [Lif.place_eq], (Lif.place_length ..).le, fun y hy _ => by
      rw [Lif.place_queue, mem_insertSorted]
      exact .inr hy⟩
  · refine ⟨0, Dev.adds.of_lif (by rw [heq, if_neg hnew]), by rw [hafter, Dev.owes]; omega⟩

theorem Dev.spends.send (d : Dev) (k : FrameKind) (dst : Nat) (b : List Byte) : d.spends loud 1 (d.send k dst b) := by
  obtain ⟨_, _, _, heq⟩ := d.enqueue_line k dst b none
  exact Dev.spends.of_adds (Dev.adds.send ..) (congrArg Dev.stc heq :) (congrArg (fun x => x.faultActive .occupancyConflict) heq :)

theorem Dev.spends.requestPoints (d : Dev) (c : Claim) (keep : Bool) : d.spends loud 1 (d.requestPoints c keep) := by
  obtain ⟨_, _, _, heq⟩ := d.requestPoints_changes c keep
  exact Dev.spends.of_adds (Dev.adds.requestPoints ..) (congrArg Dev.stc heq :) (congrArg (fun x => x.faultActive .occupancyConflict) heq :)

/-- The held report is owed until it is queued (R149). -/
theorem Dev.spends.judgeHeldReport (d : Dev) (b : Bool) : d.spends loud 0 (d.judgeHeldReport b) := by
  have hsend : ∀ o, d.stc.order = some o → d.stc.heldReport = true → d.spends loud 0 (d.sendHeldReport o) := fun o ho hh => by
    obtain ⟨_, _, _, heq⟩ := Dev.enqueue_line { d with stc := { d.stc with heldReport := false } } .orderReport o.console
      (orderReportPayload .moveOrder o.id .accepted) none
    have hafter : (d.sendHeldReport o).owes loud = (loud && !d.faultActive .occupancyConflict).toNat := by
      refine (congrArg (Dev.owes loud) heq).trans ?_
      simp [Dev.owes, Dev.faultActive]
    refine ⟨1, Dev.adds.sendHeldReport d o, ?_⟩
    rw [hafter, Dev.owes, ho, hh]
    rfl
  unfold Dev.judgeHeldReport
  split
  · next o ho =>
    split
    · next hh =>
      split
      · exact ite_keeps (P := d.spends loud 0) (fun _ => hsend _ ho hh) (fun _ => Dev.spends.refl loud d)
      · exact ite_keeps (P := d.spends loud 0) (fun _ => hsend _ ho hh) (fun _ => Dev.spends.refl loud d)
    · exact Dev.spends.refl loud d
  · exact Dev.spends.refl loud d

end

/-! ### One section (R62) -/

/-- What taking a section for one entry of the table leaves. -/
structure Dev.Takes (loud : Bool) (d e : Dev) (c : Claim) : Prop where
  apart : d.takesApart loud e
  cle : ∃ dl, (d.cle.deadlock = none → dl = none) ∧ e.cle = { d.cle.update c.sec d.occupied with deadlock := dl }
  calm : loud = false → d.cle.deadlock = none → e.faults = d.faults
  spends : d.spends loud (1 + (d.isPoints c.sec && c.legNeeded.isSome).toNat) e
  taken : d.lif.active = true → d.lif.queue.length + d.owes loud + 1 ≤ 8 →
    ⟨.taken, 0, ticketPayload c.sec d.occupancyTicket, 0, none, false⟩ ∈ e.lif.queue
  request : ∀ leg, d.isPoints c.sec = true → c.legNeeded = some leg → d.lif.active = true → d.lif.queue.length + d.owes loud + 2 ≤ 8 →
    ⟨.pointsRequest, 0, pointsRequestPayload c.sec leg, 0, none, false⟩ ∈ e.lif.queue

section
variable {loud : Bool} {d e : Dev} {c : Claim} {n : Nat}

/-- Where no conflict is to be raised, or one that the station takes as a fault alone. -/
def Dev.calmAt (loud : Bool) (d : Dev) (n : Nat) : Prop :=
  if loud then d.deaf else d.conflicts n = false

theorem Dev.spends.of_apart {m : Nat} (h : Dev.adds m d e) (ha : d.claimsApart e) : d.spends loud m e := by
  obtain ⟨_, _, _, _, _, rfl, hfs⟩ := ha
  exact Dev.spends.of_adds h rfl (hfs _ (by decide))

theorem Dev.takesApart_of (h : d.claimsApart e) : d.takesApart loud e := by
  obtain ⟨_, _, _, _, _, rfl, hfs⟩ := h
  exact ⟨_, _, _, _, _, _, rfl, fun k hk _ => hfs k hk⟩

/-- The entry marked, before TAKEN is queued. -/
theorem Dev.markOccupied_marks (d : Dev) (c : Claim) : d.claimsApart (d.markOccupied c)
    ∧ (∃ dl, (d.cle.deadlock = none → dl = none) ∧ (d.markOccupied c).cle
      = { d.cle.update c.sec (fun e => { e with state := .held .occupancy d.occupancyTicket }) with deadlock := dl })
    ∧ (d.cle.deadlock = none → (d.markOccupied c).faults = d.faults) ∧ Dev.adds 0 d (d.markOccupied c) := by
  let f : Claim → Claim := fun e => { e with state := .held .occupancy d.occupancyTicket }
  have hcle : ((d.abandon c).updateClaim c.sec f).cle = d.cle.update c.sec f := by
    show (d.abandon c).cle.update c.sec f = _
    rw [Dev.abandon_cle]
  have happly := claimWork_apart d
  have hapart : d.claimsApart ((d.abandon c).updateClaim c.sec f) := happly.updateClaim _ _ (happly.abandon c d.claimsApart_refl)
  have hadds : Dev.adds 0 d ((d.abandon c).updateClaim c.sec f) := (Dev.adds.abandon d c).to_lif rfl
  have hfaults : ((d.abandon c).updateClaim c.sec f).faults = d.faults := by
    show (d.abandon c).faults = d.faults
    unfold Dev.abandon
    split <;> rfl
  unfold Dev.markOccupied
  generalize (d.abandon c).updateClaim c.sec f = x at hcle hapart hadds hfaults
  refine ⟨happly.tidyDeadlock hapart, ?_, fun hd => ?_, hadds.trans (Dev.adds.tidyDeadlock x)⟩
  · obtain h | h := x.tidyDeadlock_cle
    · exact ⟨d.cle.deadlock, id, by rw [h, hcle]; rfl⟩
    · exact ⟨none, fun _ => rfl, by rw [h, hcle]⟩
  · rw [Dev.tidyDeadlock_none (by rw [hcle]; exact hd), hfaults]

/-- A conflict that the station takes as a fault alone, or none. -/
theorem Dev.judgeConflict_calm (h : e.calmAt loud n) : e.takesApart loud (e.judgeConflict n) ∧ (e.judgeConflict n).cle = e.cle
    ∧ (loud = false → e.judgeConflict n = e) ∧ e.spends loud 0 (e.judgeConflict n) := by
  unfold Dev.calmAt at h
  unfold Dev.judgeConflict
  cases loud with
  | false =>
    rw [if_neg Bool.false_ne_true] at h
    rw [if_neg (by rw [h]; exact Bool.false_ne_true)]
    exact ⟨Dev.takesApart_refl _ e, rfl, fun _ => rfl, Dev.spends.refl _ e⟩
  | true =>
    rw [if_pos rfl] at h
    rw [Dev.raise_deaf h]
    refine ⟨?_, ?_, fun h => absurd h.symm Bool.false_ne_true, ?_⟩
    · exact ite_keeps (P := e.takesApart true) (fun _ => Dev.takesApart_enterFault (Dev.takesApart_refl _ e)) (fun _ => Dev.takesApart_refl _ e)
    · split
      · exact (e.enterFault_claims _).1
      · rfl
    · exact ite_keeps (P := e.spends true 0) (fun _ => Dev.spends.enterFault e) (fun _ => Dev.spends.refl _ e)

/-- What follows TAKEN for an entry marked (R82, R85). -/
theorem Dev.afterHeld_calm (hc : e.cle.entry n = some c) : e.takesApart loud (e.afterHeld n)
    ∧ (e.afterHeld n).cle = (if e.isPoints n && c.legNeeded.isSome then e.cle.update n (e.requested false) else e.cle)
    ∧ (e.afterHeld n).faults = e.faults ∧ e.spends loud (e.isPoints n && c.legNeeded.isSome).toNat (e.afterHeld n) := by
  obtain ⟨-, rfl⟩ := Cle.entry_mem hc
  have hsame : e.takesApart loud e ∧ e.cle = e.cle ∧ e.faults = e.faults ∧ e.spends loud 0 e :=
    ⟨Dev.takesApart_refl _ e, rfl, rfl, Dev.spends.refl _ e⟩
  unfold Dev.afterHeld
  simp only [hc]
  cases e.isPoints c.sec with
  | true =>
    cases hl : c.legNeeded with
    | none => exact hsame
    | some leg =>
      have hspends := Dev.spends.requestPoints (loud := loud) e c false
      obtain ⟨_, _, _, heq⟩ := e.requestPoints_changes c false
      simp only [Bool.true_and, Option.isSome_some, if_true, Bool.toNat_true]
      refine ⟨(claimWork_takesApart loud e).requestPoints c false (Dev.takesApart_refl _ e), (congrArg Dev.cle heq :),
        (congrArg Dev.faults heq :), hspends⟩
  | false =>
    simp only [Bool.false_and, Bool.false_eq_true, if_false, Bool.toNat_false]
    split
    · obtain ⟨_, _, _, _, heq⟩ := e.judgeHeldReport_changes false
      have hspends := Dev.spends.judgeHeldReport (loud := loud) e false
      rw [heq] at hspends ⊢
      exact ⟨⟨_, _, _, _, _, _, rfl, fun _ _ _ => rfl⟩, rfl, rfl, hspends⟩
    · exact hsame

theorem Dev.takesApart_same (h : d.takesApart loud e) : e.odo = d.odo ∧ e.peers = d.peers ∧ e.tmp = d.tmp ∧ e.now = d.now
    ∧ e.stc.state = d.stc.state ∧ e.stc.order = d.stc.order ∧ e.lif.active = d.lif.active := by
  obtain ⟨_, _, _, _, _, _, rfl, -⟩ := h
  exact ⟨rfl, rfl, rfl, rfl, rfl, rfl, rfl⟩

theorem Dev.occupy_takes (hok : d.cle.ok) (hc : d.cle.entry n = some c) (hcalm : d.calmAt loud n) : d.Takes loud (d.occupy n) c := by
  obtain ⟨hm, rfl⟩ := Cle.entry_mem hc
  let mark : Claim → Claim := fun e => { e with state := .held .occupancy d.occupancyTicket }
  let leg := d.isPoints c.sec && c.legNeeded.isSome
  rw [Dev.occupy_eq hc]
  obtain ⟨hapart, ⟨dl, hdl, hxcle⟩, hxfaults, hadds⟩ := d.markOccupied_marks c
  have hxcalm : (d.markOccupied c).calmAt loud c.sec := by
    obtain ⟨_, _, _, _, _, heq, -⟩ := hapart
    rw [heq]
    exact hcalm
  have hxspends : d.spends loud 0 (d.markOccupied c) := Dev.spends.of_apart hadds hapart
  obtain ⟨hy, hycle, hysame, hyspends⟩ := Dev.judgeConflict_calm hxcalm
  have hyapart := Dev.takesApart_trans (Dev.takesApart_of (loud := loud) hapart) hy
  have hyspends := hxspends.trans hyspends
  have hycle : ((d.markOccupied c).judgeConflict c.sec).cle = { d.cle.update c.sec mark with deadlock := dl } := by rw [hycle, hxcle]
  have hyfaults : loud = false → d.cle.deadlock = none → ((d.markOccupied c).judgeConflict c.sec).faults = d.faults :=
    fun hl hd => by rw [hysame hl, hxfaults hd]
  generalize (d.markOccupied c).judgeConflict c.sec = y at hyapart hyspends hycle hyfaults
  have hzapart : d.takesApart loud (y.announceTaken c.sec d.occupancyTicket) := (claimWork_takesApart loud d).send _ _ _ hyapart
  have hzspends : d.spends loud (0 + 0 + 1) (y.announceTaken c.sec d.occupancyTicket) := hyspends.trans (Dev.spends.send ..)
  have hzcle : (y.announceTaken c.sec d.occupancyTicket).cle = y.cle := Dev.send_cle ..
  have hzfaults : (y.announceTaken c.sec d.occupancyTicket).faults = y.faults := by
    obtain ⟨_, _, _, heq⟩ := y.enqueue_line .taken 0 (ticketPayload c.sec d.occupancyTicket) none
    exact (congrArg Dev.faults heq :)
  have hztaken : d.lif.active = true → d.lif.queue.length + d.owes loud + 1 ≤ 8 →
      ⟨.taken, 0, ticketPayload c.sec d.occupancyTicket, 0, none, false⟩ ∈ (y.announceTaken c.sec d.occupancyTicket).lif.queue := fun hact hlen =>
    Dev.announceTaken_queued (hyspends.room hact (by omega)) _ _
  generalize y.announceTaken c.sec d.occupancyTicket = z at hzapart hzspends hzcle hzfaults hztaken
  have hentry : z.cle.entry c.sec = some (mark c) := by
    rw [hzcle, hycle]
    exact Cle.entry_update (c := d.cle) (f := mark) (fun _ => rfl) hc
  have hview : z.isPoints c.sec = d.isPoints c.sec ∧ z.requested false = d.requested false := by
    obtain ⟨_, _, _, _, _, _, rfl, -⟩ := hzapart
    exact ⟨rfl, rfl⟩
  obtain ⟨hw, hwcle, hwfaults, hwspends⟩ := Dev.afterHeld_calm (loud := loud) hentry
  have hrequest : ∀ g, d.isPoints c.sec = true → c.legNeeded = some g → z.lif.hasRoom →
      ⟨.pointsRequest, 0, pointsRequestPayload c.sec g, 0, none, false⟩ ∈ (z.afterHeld c.sec).lif.queue := fun g hp hg hroom => by
    have hsome : (mark c).legNeeded.isSome = true := by rw [show (mark c).legNeeded = c.legNeeded from rfl, hg]; rfl
    have hafter : z.afterHeld c.sec = z.requestPoints (mark c) false := by
      unfold Dev.afterHeld
      simp only [hentry, hview.1, hp, if_true]
      exact if_pos hsome
    rw [hafter]
    have hqueued := Dev.sendPointsRequest_queued (d := z) (c := mark c) (show (mark c).legNeeded = some g from hg) hroom
    exact hqueued
  rw [hview.1, hview.2] at hwcle
  rw [hview.1] at hwspends
  refine ⟨Dev.takesApart_trans hzapart hw, ⟨dl, hdl, ?_⟩, fun hl hd => ?_, ?_, fun hact hlen => ?_, fun g hp hg hact hlen => ?_⟩
  · rw [hwcle, hzcle, hycle]
    have htable : ∀ f : Claim → Claim, d.occupied c = f c → (d.cle.update c.sec d.occupied).table = (d.cle.update c.sec f).table := fun f hf => by
      refine List.map_congr_left fun e he => ?_
      split
      · next hs =>
        rw [Cle.sec_inj hok he hm hs, hf]
      · rfl
    have hocc : d.occupied c = if leg then d.requested false (mark c) else mark c := rfl
    show (if leg then _ else _) = _
    cases hleg : leg with
    | true =>
      rw [hleg] at hocc
      have h := htable (d.requested false ∘ mark) hocc
      rw [← Cle.update_update d.cle c.sec (f := mark) (g := d.requested false) fun _ => rfl] at h
      rw [if_pos rfl]
      exact congrArg (fun l => ({ d.cle with table := l, deadlock := dl } : Cle)) h.symm
    | false =>
      rw [hleg] at hocc
      exact congrArg (fun l => ({ d.cle with table := l, deadlock := dl } : Cle)) (htable mark hocc).symm
  · rw [hwfaults, hzfaults, hyfaults hl hd]
  · exact (hzspends.trans hwspends).mono (Nat.le_of_eq (by rw [Nat.zero_add]))
  · exact hwspends.stays (hztaken hact hlen) (TxEntry.lasting_of (k := .taken) rfl (by decide))
  · exact hrequest g hp hg (hzspends.room hact (by omega))

end

end Sys2Proof.Machine

/-! SUPPORT. The footprint check: every section under the footprint becomes HELD, each in its turn (R58, R59, R62). -/

namespace Sys2Proof.Machine

theorem Cle.holds_eq {c : Cle} (hok : c.ok) (n : Nat) : c.holds n = (c.entry n).any Claim.isHeld := by
  rw [Bool.eq_iff_iff, Option.any_eq_true]
  constructor
  · intro h
    obtain ⟨y, hy, hs⟩ := List.any_eq_true.mp h
    simp only [Bool.and_eq_true, beq_iff_eq] at hs
    exact ⟨y, hs.1 ▸ Cle.entry_of_mem hok hy, hs.2⟩
  · rintro ⟨y, hy, hheld⟩
    obtain ⟨hm, hs⟩ := Cle.entry_mem hy
    exact List.any_eq_true.mpr ⟨y, hm, by simp [hs, hheld]⟩

/-- An entry joins where there is room and none for its section: between two parts of the table (R57, R58). -/
theorem Cle.insert_splits {c : Cle} (hok : c.ok) (pos : Nat → Option Nat) (x : Claim) (hlen : c.table.length < Config.maxClaims)
    (hx : c.entry x.sec = none) : ∃ a b, c.table = a ++ b ∧ c.insert pos x = { c with table := a ++ x :: b } := by
  unfold Cle.insert
  rw [if_neg (by simp [hx, Nat.not_le.mpr hlen])]
  split
  · obtain ⟨a, b, hab, hi⟩ := insertSorted_split Claim.orderKey x c.table
    exact ⟨a, b, hab, by rw [hi]⟩
  · obtain ⟨a, b, hab, hi, -⟩ := placeFootprint_split pos x c.table hok.2.2.2.1
    exact ⟨a, b, hab, by rw [hi]⟩

/-! ### What each section becomes -/

/-- The entry that joins for a section under the footprint, before it becomes HELD (R58, R62). -/
def Dev.joining (d : Dev) (x : Covered) : Claim :=
  let idx := if d.cle.view.isSome then x.idx else none
  Claim.fresh x.sec idx (d.legAt x.sec idx)

/-- The entry of a section under the footprint once it has been checked. -/
def Dev.covered (d : Dev) (x : Covered) : Claim :=
  (d.cle.entry x.sec).elim (d.occupied (d.joining x)) (fun c => if c.isHeld then c else d.occupied c)

/-- How many frames a section that is not HELD may queue: a TAKEN, and a POINTS-REQUEST for a leg needed. -/
def Dev.takeCost (d : Dev) (x : Covered) : Nat :=
  if d.cle.holds x.sec then 0 else 1 + (d.isPoints x.sec && (d.covered x).legNeeded.isSome).toNat

/-- What the check of some sections leaves, none of which makes the station leave its state. -/
structure Dev.Covers (loud : Bool) (d e : Dev) (xs : List Covered) : Prop where
  apart : d.takesApart loud e
  cle : ∃ t dl, (d.cle.deadlock = none → dl = none) ∧ e.cle = { d.cle with table := t, deadlock := dl }
  ok : e.cle.ok
  calm : loud = false → d.cle.deadlock = none → e.faults = d.faults
  others : ∀ n, n ∉ xs.map (·.sec) → e.cle.entry n = d.cle.entry n
  covered : ∀ x ∈ xs, e.cle.entry x.sec = some (d.covered x)
  length : e.cle.table.length = d.cle.table.length + (xs.filter (fun x => (d.cle.entry x.sec).isNone)).length
  order : ∀ p : Nat → Bool, (∀ n, d.footprint.covers n = true → p n = false) → (e.cle.table.map (·.sec)).filter p = (d.cle.table.map (·.sec)).filter p
  spends : d.spends loud (xs.map d.takeCost).sum e
  taken : d.lif.active = true → d.lif.queue.length + d.owes loud + (xs.map d.takeCost).sum ≤ 8 → ∀ x ∈ xs, d.cle.holds x.sec = false →
    ⟨.taken, 0, ticketPayload x.sec d.occupancyTicket, 0, none, false⟩ ∈ e.lif.queue
  request : d.lif.active = true → d.lif.queue.length + d.owes loud + (xs.map d.takeCost).sum ≤ 8 → ∀ x ∈ xs, d.cle.holds x.sec = false →
    ∀ leg, d.isPoints x.sec = true → (d.covered x).legNeeded = some leg →
      ⟨.pointsRequest, 0, pointsRequestPayload x.sec leg, 0, none, false⟩ ∈ e.lif.queue

section
variable {loud : Bool} {d e f : Dev} {xs ys : List Covered} {c : Claim} {x : Covered}

theorem Dev.covered_some (h : d.cle.entry x.sec = some c) : d.covered x = if c.isHeld then c else d.occupied c := by
  rw [Dev.covered, h]
  rfl

theorem Dev.covered_none (h : d.cle.entry x.sec = none) : d.covered x = d.occupied (d.joining x) := by
  rw [Dev.covered, h]
  rfl

/-- A section checked is HELD. -/
theorem Dev.covered_held (d : Dev) (x : Covered) : (d.covered x).isHeld = true := by
  cases h : d.cle.entry x.sec with
  | none =>
    rw [Dev.covered_none h]
    exact (d.occupied_fields _).2.2.1
  | some c =>
    rw [Dev.covered_some h]
    split
    · assumption
    · exact (d.occupied_fields _).2.2.1

theorem Dev.covered_sec (d : Dev) (x : Covered) : (d.covered x).sec = x.sec := by
  cases h : d.cle.entry x.sec with
  | none =>
    rw [Dev.covered_none h]
    exact (d.occupied_fields _).1
  | some c =>
    rw [Dev.covered_some h]
    split
    · exact (Cle.entry_mem h).2
    · exact (d.occupied_fields _).1.trans (Cle.entry_mem h).2

/-- A section checked already changes nothing. -/
theorem Dev.Covers.stays (hok : d.cle.ok) (h : d.cle.entry x.sec = some c) (hheld : c.isHeld = true) : d.Covers loud d [x] := by
  have hholds : d.cle.holds x.sec = true := by rw [Cle.holds_eq hok, h]; exact hheld
  have hcost : ([x].map d.takeCost).sum = 0 := by simp [Dev.takeCost, hholds]
  refine ⟨Dev.takesApart_refl _ d, ⟨_, _, id, rfl⟩, hok, fun _ _ => rfl, fun _ _ => rfl, fun y hy => ?_, ?_, fun _ _ => rfl, ?_,
    fun _ _ y hy hno => ?_, fun _ _ y hy hno => ?_⟩
  · rw [List.mem_singleton.mp hy, Dev.covered_some h, if_pos hheld, h]
  · rw [List.filter_cons_of_neg (by simp [h])]
    rfl
  · rw [hcost]
    exact Dev.spends.refl _ d
  · rw [List.mem_singleton.mp hy, hholds] at hno
    exact absurd hno.symm Bool.false_ne_true
  · rw [List.mem_singleton.mp hy, hholds] at hno
    exact absurd hno.symm Bool.false_ne_true

theorem Cle.update_secs (y : Cle) (n : Nat) {g : Claim → Claim} (hg : ∀ z, (g z).sec = z.sec) : (y.update n g).table.map (·.sec) = y.table.map (·.sec) := by
  show (y.table.map _).map _ = _
  rw [List.map_map]
  refine List.map_congr_left fun z _ => ?_
  show (if z.sec = n then g z else z).sec = z.sec
  split
  · exact hg z
  · rfl

/-- An entry that is not HELD becomes so. -/
theorem Dev.Covers.occupies (hok : d.cle.ok) (h : d.cle.entry x.sec = some c) (hheld : c.isHeld = false) (hcalm : d.calmAt loud x.sec) :
    d.Covers loud (d.occupy x.sec) [x] := by
  have hsec : c.sec = x.sec := (Cle.entry_mem h).2
  obtain ⟨hapart, ⟨dl, hdl, hcle⟩, hfaults, hspends, htaken, hrequest⟩ := Dev.occupy_takes hok h hcalm
  have hholds : d.cle.holds x.sec = false := by rw [Cle.holds_eq hok, h]; exact hheld
  have hcovered : d.covered x = d.occupied c := by rw [Dev.covered_some h, if_neg (by simp [hheld])]
  have hleg : (d.covered x).legNeeded = c.legNeeded := by rw [hcovered]; exact (d.occupied_fields c).2.2.2.2
  have hcost : ([x].map d.takeCost).sum = 1 + (d.isPoints c.sec && c.legNeeded.isSome).toNat := by
    simp [Dev.takeCost, hholds, hleg, hsec]
  rw [hsec] at hcle hcost hspends htaken hrequest
  refine ⟨hapart, ⟨_, dl, hdl, hcle⟩, ?_, hfaults, fun n hn => ?_, fun y hy => ?_, ?_, fun p _ => ?_, by rw [hcost]; exact hspends,
    fun hact hlen y hy _ => ?_, fun hact hlen y hy _ leg hp hl => ?_⟩
  · rw [hcle]
    exact Cle.ok_same (c := d.cle.update x.sec d.occupied) rfl (.inl le_rfl) (Cle.ok_hold x.sec (fun y => (d.occupied_fields y).1)
      (fun y => (d.occupied_fields y).2.1) (fun y => (d.occupied_fields y).2.2.1) hok)
  · rw [hcle]
    exact Cle.entry_update_ne (c := d.cle) (fun y => (d.occupied_fields y).1) (by simpa using hn)
  · rw [List.mem_singleton.mp hy, hcle, hcovered]
    exact Cle.entry_update (c := d.cle) (fun y => (d.occupied_fields y).1) h
  · rw [hcle, List.filter_cons_of_neg (by simp [h])]
    exact List.length_map _
  · rw [hcle]
    exact congrArg (List.filter p) (Cle.update_secs d.cle x.sec fun y => (d.occupied_fields y).1)
  · rw [List.mem_singleton.mp hy]
    exact htaken hact (by omega)
  · rw [List.mem_singleton.mp hy] at hp hl ⊢
    rw [hleg] at hl
    have : (d.isPoints x.sec && c.legNeeded.isSome).toNat = 1 := by rw [hp, hl]; rfl
    exact hrequest leg hp hl hact (by omega)

/-- The entry that joins, as the table takes it. -/
def Dev.joinedAs (d : Dev) (x : Covered) : Claim :=
  { d.joining x with state := .held .occupancy d.occupancyTicket }

theorem Dev.occupied_joinedAs (d : Dev) (x : Covered) : d.occupied (d.joinedAs x) = d.occupied (d.joining x) := rfl

/-- A section with no entry joins, where there is room (R57, R62). -/
theorem Dev.Covers.joins (hok : d.cle.ok) (h : d.cle.entry x.sec = none) (hroom : d.cle.table.length < Config.maxClaims)
    (hcalm : d.calmAt loud x.sec) (hunder : d.footprint.covers x.sec = true) : d.Covers loud (d.joinOccupied x) [x] := by
  obtain ⟨a, b, hab, hinsert⟩ := Cle.insert_splits hok (placeIn d.trackOrder) (d.joinedAs x) hroom h
  let d1 : Dev := { d with cle := { d.cle with table := a ++ d.joinedAs x :: b } }
  have hjoin : d.joinOccupied x = d1.occupy x.sec := congrArg (fun y : Cle => Dev.occupy { d with cle := y } x.sec) hinsert
  have hok1 : d1.cle.ok := by
    have h := Cle.ok_insertHeld (placeIn d.trackOrder) (d.joinedAs x) rfl hok
    rwa [hinsert] at h
  have hentry : d1.cle.entry x.sec = some (d.joinedAs x) :=
    Cle.entry_of_mem (c := d.joinedAs x) hok1 (List.mem_append_right a (List.mem_cons_self ..))
  have hsame : ∀ n, n ≠ x.sec → d1.cle.entry n = d.cle.entry n := fun n hn => by
    have hne : ((d.joinedAs x).sec == n) = false := beq_false_of_ne hn.symm
    show (a ++ d.joinedAs x :: b).find? _ = d.cle.table.find? _
    rw [hab, List.find?_append, List.find?_append, List.find?_cons_of_neg (by rw [hne]; exact Bool.false_ne_true)]
  obtain ⟨hapart, ⟨dl, hdl, hcle⟩, hfaults, hspends, htaken, hrequest⟩ := Dev.occupy_takes (loud := loud) hok1 hentry hcalm
  have hholds : d.cle.holds x.sec = false := Cle.holds_of_entry_none h
  have hcovered : d.covered x = d.occupied (d.joinedAs x) := Dev.covered_none h
  have hleg : (d.covered x).legNeeded = (d.joinedAs x).legNeeded := by rw [hcovered]; exact (d.occupied_fields _).2.2.2.2
  have hcost : ([x].map d.takeCost).sum = 1 + (d.isPoints x.sec && (d.joinedAs x).legNeeded.isSome).toNat := by
    simp [Dev.takeCost, hholds, hleg]
  have hcle' : (d1.occupy x.sec).cle = { d1.cle.update x.sec d.occupied with deadlock := dl } := hcle
  have hspends' : d.spends loud (1 + (d.isPoints x.sec && (d.joinedAs x).legNeeded.isSome).toNat) (d1.occupy x.sec) := by
    obtain ⟨k, hadds, hk⟩ := hspends
    exact ⟨k, hadds.from_lif rfl, hk⟩
  rw [hjoin]
  refine ⟨Dev.takesApart_trans ((claimWork_takesApart loud d).cle _ (Dev.takesApart_refl loud d)) hapart,
    ⟨_, dl, hdl, by rw [hcle']; rfl⟩, ?_, hfaults, fun n hn => ?_, fun y hy => ?_, ?_, fun p hp => ?_, by rw [hcost]; exact hspends',
    fun hact hlen y hy _ => ?_, fun hact hlen y hy _ leg hp hl => ?_⟩
  · rw [hcle']
    exact Cle.ok_same (c := d1.cle.update x.sec d.occupied) rfl (.inl le_rfl) (Cle.ok_hold x.sec (fun y => (d.occupied_fields y).1)
      (fun y => (d.occupied_fields y).2.1) (fun y => (d.occupied_fields y).2.2.1) hok1)
  · have hne : n ≠ x.sec := by simpa using hn
    rw [hcle']
    exact (Cle.entry_update_ne (c := d1.cle) (fun y => (d.occupied_fields y).1) hne).trans (hsame n hne)
  · rw [List.mem_singleton.mp hy, hcle', hcovered]
    exact Cle.entry_update (c := d1.cle) (fun y => (d.occupied_fields y).1) hentry
  · rw [hcle', List.filter_cons_of_pos (by simp [h])]
    show (List.map _ (a ++ d.joinedAs x :: b)).length = _
    rw [List.length_map, hab, List.length_append, List.length_append, List.length_cons]
    rfl
  · rw [hcle']
    refine (congrArg (List.filter p) (Cle.update_secs d1.cle x.sec fun y => (d.occupied_fields y).1)).trans ?_
    show ((a ++ d.joinedAs x :: b).map (·.sec)).filter p = (d.cle.table.map (·.sec)).filter p
    have hneg : ¬p (d.joinedAs x).sec = true := by
      rw [show p (d.joinedAs x).sec = p x.sec from rfl, hp _ hunder]
      exact Bool.false_ne_true
    rw [hab, List.map_append, List.map_append, List.map_cons, List.filter_append, List.filter_append, List.filter_cons_of_neg hneg]
  · rw [List.mem_singleton.mp hy]
    have hlen' : d.lif.queue.length + d.owes loud + 1 ≤ 8 := by omega
    exact htaken hact hlen'
  · rw [List.mem_singleton.mp hy] at hp hl ⊢
    rw [hleg] at hl
    have hone : (d.isPoints x.sec && (d.joinedAs x).legNeeded.isSome).toNat = 1 := by rw [hp, hl]; rfl
    have hlen' : d.lif.queue.length + d.owes loud + 2 ≤ 8 := by omega
    exact hrequest leg hp hl hact hlen'

/-- The check of one section (R59, R62). -/
theorem Dev.checkCovered_covers (hok : d.cle.ok) (hknown : d.odo.known = true)
    (hroom : d.cle.entry x.sec = none → d.cle.table.length < Config.maxClaims)
    (hcalm : d.cle.holds x.sec = false → d.calmAt loud x.sec) (hunder : d.footprint.covers x.sec = true) :
    d.Covers loud (d.checkCovered x) [x] := by
  unfold Dev.checkCovered
  rw [if_neg (by simp [hknown])]
  cases h : d.cle.entry x.sec with
  | none =>
    simp only
    rw [if_pos (hroom h)]
    exact Dev.Covers.joins hok h (hroom h) (hcalm (Cle.holds_of_entry_none h)) hunder
  | some c =>
    simp only
    cases hheld : c.isHeld with
    | true => exact Dev.Covers.stays hok h hheld
    | false => exact Dev.Covers.occupies hok h hheld (hcalm (by rw [Cle.holds_eq hok, h]; exact hheld))

/-! ### One section after the other -/

/-- The checks after one another judge by what they found at the start. -/
theorem Dev.Covers.same (h : d.Covers loud e xs) : e.occupied = d.occupied ∧ e.joining = d.joining ∧ e.occupancyTicket = d.occupancyTicket
    ∧ e.isPoints = d.isPoints ∧ e.conflicts = d.conflicts ∧ e.odo = d.odo ∧ e.footprint = d.footprint ∧ (e.deaf ↔ d.deaf) := by
  obtain ⟨t, dl, -, hcle⟩ := h.cle
  obtain ⟨c, _, _, _, _, _, rfl, -⟩ := h.apart
  obtain rfl : c = { d.cle with table := t, deadlock := dl } := hcle
  exact ⟨rfl, rfl, rfl, rfl, rfl, rfl, rfl, Iff.rfl⟩

theorem Dev.Covers.covered_eq (h : d.Covers loud e xs) (hx : x.sec ∉ xs.map (·.sec)) : e.covered x = d.covered x := by
  obtain ⟨hocc, hjoin, -⟩ := h.same
  rw [Dev.covered, Dev.covered, h.others _ hx, hocc, hjoin]

theorem Dev.Covers.holds_eq (hok : d.cle.ok) (h : d.Covers loud e xs) (hx : x.sec ∉ xs.map (·.sec)) : e.cle.holds x.sec = d.cle.holds x.sec := by
  rw [Cle.holds_eq h.ok, Cle.holds_eq hok, h.others _ hx]

theorem Dev.Covers.trans (hok : d.cle.ok) (h : d.Covers loud e xs) (h' : e.Covers loud f ys) (hd : ∀ y ∈ ys, y.sec ∉ xs.map (·.sec)) :
    d.Covers loud f (xs ++ ys) := by
  obtain ⟨hocc, hjoin, hticket, hpoints, -, -, hfoot, -⟩ := h.same
  have hcost : (ys.map e.takeCost).sum = (ys.map d.takeCost).sum := congrArg List.sum (List.map_congr_left fun y hy => by
    rw [Dev.takeCost, Dev.takeCost, h.holds_eq hok (hd y hy), h.covered_eq (hd y hy), hpoints])
  have htotal : ((xs ++ ys).map d.takeCost).sum = (xs.map d.takeCost).sum + (ys.map e.takeCost).sum := by
    rw [List.map_append, List.sum_append, hcost]
  have hactive : e.lif.active = d.lif.active := (Dev.takesApart_same h.apart).2.2.2.2.2.2
  have hlater : ∀ {n}, d.lif.queue.length + d.owes loud + ((xs ++ ys).map d.takeCost).sum ≤ n →
      e.lif.queue.length + e.owes loud + (ys.map e.takeCost).sum ≤ n := fun {n} hlen => by
    obtain ⟨k, hadds, hk⟩ := h.spends
    have := hadds.length
    omega
  obtain ⟨t, dl, hdl, hcle⟩ := h.cle
  obtain ⟨t', dl', hdl', hcle'⟩ := h'.cle
  have hdead : d.cle.deadlock = none → e.cle.deadlock = none := fun hn => by rw [hcle]; exact hdl hn
  refine ⟨Dev.takesApart_trans h.apart h'.apart, ⟨t', dl', fun hn => hdl' (hdead hn), by rw [hcle', hcle]⟩, h'.ok,
    fun hl hn => (h'.calm hl (hdead hn)).trans (h.calm hl hn), fun n hn => ?_, fun y hy => ?_, ?_, fun p hp => ?_, ?_,
    fun hact hlen y hy hno => ?_, fun hact hlen y hy hno leg hp hl => ?_⟩
  · rw [List.map_append, List.mem_append, not_or] at hn
    exact (h'.others n hn.2).trans (h.others n hn.1)
  · obtain hx | hy := List.mem_append.mp hy
    · exact (h'.others _ (fun hm => by
        obtain ⟨z, hz, hs⟩ := List.mem_map.mp hm
        exact hd z hz (hs ▸ List.mem_map_of_mem hx))).trans (h.covered y hx)
    · rw [h'.covered y hy, h.covered_eq (hd y hy)]
  · rw [h'.length, h.length, List.filter_append, List.length_append, Nat.add_assoc]
    have hjoin : ys.filter (fun y => (e.cle.entry y.sec).isNone) = ys.filter (fun y => (d.cle.entry y.sec).isNone) :=
      List.filter_congr fun y hy => by rw [h.others _ (hd y hy)]
    rw [hjoin]
  · exact (h'.order p fun n hn => hp n (hfoot ▸ hn)).trans (h.order p hp)
  · rw [htotal]
    exact h.spends.trans h'.spends
  · obtain hx | hy := List.mem_append.mp hy
    · exact h'.spends.stays (h.taken hact (by omega) y hx hno) (TxEntry.lasting_of (k := .taken) rfl (by decide))
    · have htaken := h'.taken (hactive.trans hact) (hlater hlen) y hy ((h.holds_eq hok (hd y hy)).trans hno)
      rwa [hticket] at htaken
  · obtain hx | hy := List.mem_append.mp hy
    · exact h'.spends.stays (h.request hact (by omega) y hx hno leg hp hl) (TxEntry.lasting_of (k := .pointsRequest) rfl (by decide))
    · exact h'.request (hactive.trans hact) (hlater hlen) y hy ((h.holds_eq hok (hd y hy)).trans hno) leg (by rw [hpoints]; exact hp)
        (by rw [h.covered_eq (hd y hy)]; exact hl)

theorem Dev.Covers.nil (loud : Bool) (hok : d.cle.ok) : d.Covers loud d [] :=
  ⟨Dev.takesApart_refl loud d, ⟨_, _, id, rfl⟩, hok, fun _ _ => rfl, fun _ _ => rfl, fun _ h => absurd h (List.not_mem_nil), rfl,
    fun _ _ => rfl, Dev.spends.refl loud d, fun _ _ _ h => absurd h (List.not_mem_nil), fun _ _ _ h => absurd h (List.not_mem_nil)⟩

/-- The check of some sections, where there is room for those that join. -/
theorem Dev.foldl_covers (hok : d.cle.ok) (hknown : d.odo.known = true) (xs : List Covered) (hd : (xs.map (·.sec)).Nodup)
    (hroom : d.cle.table.length + (xs.filter (fun x => (d.cle.entry x.sec).isNone)).length ≤ Config.maxClaims)
    (hcalm : ∀ x ∈ xs, d.cle.holds x.sec = false → d.calmAt loud x.sec) (hunder : ∀ x ∈ xs, d.footprint.covers x.sec = true) :
    d.Covers loud (xs.foldl Dev.checkCovered d) xs := by
  induction xs using List.reverseRecOn with
  | nil => exact Dev.Covers.nil loud hok
  | append_singleton xs x ih =>
    rw [List.map_append, List.nodup_append] at hd
    have hx : x.sec ∉ xs.map (·.sec) := fun hm => hd.2.2 _ hm _ (by simp) rfl
    have hone : ∀ y ∈ [x], y.sec ∉ xs.map (·.sec) := fun y hy => List.mem_singleton.mp hy ▸ hx
    rw [List.filter_append, List.length_append] at hroom
    have h := ih hd.1 (by omega) (fun y hy => hcalm y (List.mem_append_left _ hy)) fun y hy => hunder y (List.mem_append_left _ hy)
    obtain ⟨-, -, -, -, hconflicts, hodo, hfoot, hdeaf⟩ := h.same
    rw [List.foldl_append]
    refine h.trans hok (Dev.checkCovered_covers h.ok (by rw [hodo]; exact hknown) (fun hn => ?_) (fun hno => ?_) ?_) hone
    · rw [h.others _ hx] at hn
      rw [List.filter_cons_of_pos (by simp [hn])] at hroom
      rw [h.length]
      exact hroom
    · have hcalm := hcalm x (by simp) ((h.holds_eq hok hx).symm.trans hno)
      unfold Dev.calmAt at hcalm ⊢
      rwa [hconflicts, hdeaf]
    · rw [hfoot]
      exact hunder x (by simp)

end

/-! ### The sections under the footprint (R13, R58) -/

theorem dedupBy_nodup {α : Type} (key : α → Nat) : ∀ (l : List α) (seen : List Nat),
    ((dedupBy key seen l).map key).Nodup ∧ ∀ n ∈ (dedupBy key seen l).map key, n ∉ seen
  | [], _ => ⟨List.nodup_nil, fun _ h => absurd h List.not_mem_nil⟩
  | x :: xs, seen => by
    unfold dedupBy
    split
    · exact dedupBy_nodup key xs seen
    · next hx =>
      obtain ⟨hnodup, hseen⟩ := dedupBy_nodup key xs (key x :: seen)
      have hnot : key x ∉ seen := by simpa using hx
      refine ⟨List.nodup_cons.mpr ⟨fun hm => hseen _ hm (List.mem_cons_self ..), hnodup⟩, fun n hn => ?_⟩
      obtain rfl | hn := List.mem_cons.mp hn
      · exact hnot
      · exact fun hs => hseen n hn (List.mem_cons_of_mem _ hs)

/-- Each section stands once under a footprint (R13). -/
theorem footprintOf_nodup (secs : List SectionRec) (route : List RouteEntry) (ref : Point) (half : Nat) :
    (footprintOf secs route ref half).sections.Nodup := by
  unfold footprintOf footprintOver Footprint.sections gather
  simp only [List.map_map]
  exact (dedupBy_nodup (fun x : Stretch => x.sec) _ []).1

theorem Footprint.covers_iff (f : Footprint) (n : Nat) : f.covers n = true ↔ n ∈ f.sections := by
  simp [Footprint.covers, Footprint.sections]

theorem Footprint.mem_sections {f : Footprint} {n : Nat} : n ∈ f.sections ↔ ∃ x ∈ f.places, x.sec = n := List.mem_map

/-- Filling the places of a test leaves what stands at the others. -/
theorem refill_filter {α : Type} (p : Claim → Bool) (key : Claim → α) (q : α → Bool) : ∀ (l ys : List Claim),
    (∀ x ∈ l, p x = true → q (key x) = false) → (∀ y ∈ ys, q (key y) = false) →
      ((refill p l ys).map key).filter q = (l.map key).filter q
  | [], _, _, _ => by simp [refill]
  | _ :: _, [], _, _ => by simp [refill]
  | x :: xs, y :: ys, hx, hy => by
    unfold refill
    split
    · next hp =>
      rw [List.map_cons, List.map_cons, List.filter_cons_of_neg (by simp [hy y (List.mem_cons_self ..)]),
        List.filter_cons_of_neg (by simp [hx x (List.mem_cons_self ..) hp])]
      exact refill_filter p key q xs ys (fun z hz => hx z (List.mem_cons_of_mem _ hz)) fun z hz => hy z (List.mem_cons_of_mem _ hz)
    · have ih := refill_filter p key q xs (y :: ys) (fun z hz => hx z (List.mem_cons_of_mem _ hz)) hy
      rw [List.map_cons, List.map_cons, List.filter_cons, List.filter_cons, ih]

theorem Cle.entry_perm {c c' : Cle} (hok' : c'.ok) (h : c'.table.Perm c.table) (n : Nat) : c'.entry n = c.entry n := by
  cases hn : c.entry n with
  | some y =>
    obtain ⟨hy, rfl⟩ := Cle.entry_mem hn
    exact Cle.entry_of_mem hok' (h.mem_iff.mpr hy)
  | none =>
    refine List.find?_eq_none.mpr fun y hy => ?_
    exact List.find?_eq_none.mp hn y (h.mem_iff.mp hy)

/-- The order of the track is that of the footprint's sections, or the reverse (R58). -/
theorem Dev.mem_trackOrder (d : Dev) (n : Nat) : n ∈ d.trackOrder ↔ n ∈ d.footprint.sections := by
  unfold Dev.trackOrder
  split
  · exact Iff.rfl
  · exact List.mem_reverse

section
variable {loud : Bool} {d e : Dev}

/-- The table with its entries under the footprint put in order (R58). -/
def Dev.realigned (d : Dev) : Dev := { d with cle := d.cle.realign d.trackOrder }

theorem Dev.realigned_covers (hok : d.cle.ok) : d.Covers loud d.realigned [] where
  apart := (claimWork_takesApart loud d).cle _ (Dev.takesApart_refl loud d)
  cle := ⟨_, _, id, rfl⟩
  ok := Cle.ok_realign _ hok
  calm _ _ := rfl
  others n _ := Cle.entry_perm (Cle.ok_realign _ hok) (Dev.shrinks.realign_perm d.cle d.trackOrder) n
  covered _ h := absurd h List.not_mem_nil
  length := (Dev.shrinks.realign_perm d.cle d.trackOrder).length_eq
  order p hp := by
    have hunder : ∀ x : Claim, (placeIn d.trackOrder x.sec).isSome = true → p x.sec = false := fun x hx => by
      refine hp _ ((Footprint.covers_iff ..).mpr ((d.mem_trackOrder _).mp ?_))
      obtain ⟨y, hy, hs⟩ := List.findIdx?_isSome.symm.trans hx |> List.any_eq_true.mp
      rwa [← beq_iff_eq.mp hs]
    refine refill_filter _ (fun x : Claim => x.sec) p _ _ (fun x _ hx => ?_) (fun y hy => ?_)
    · exact hunder x (Bool.and_eq_true_iff.mp hx).2
    · have hm := (sortBy_perm _ _).mem_iff.mp hy
      exact hunder y (Bool.and_eq_true_iff.mp (List.mem_filter.mp hm).2).2
  spends := ⟨0, Dev.adds.of_lif rfl, (Nat.zero_add _).le⟩
  taken _ _ _ h := absurd h List.not_mem_nil
  request _ _ _ h := absurd h List.not_mem_nil

/-- The table after the check, before an entry that has become the front entry is examined. -/
def Dev.underChecked (d : Dev) : Dev := d.footprint.places.foldl Dev.checkCovered d.realigned

theorem Dev.footprintCheck_eq (hact : d.cle.active = true) (hk : d.odo.known = true) :
    d.footprintCheck = d.underChecked.refront d.frontIdx := by
  unfold Dev.footprintCheck
  rw [if_pos (by rw [hact, hk]; rfl)]
  rfl

/-- The check of the footprint where the table has room for what joins. -/
theorem Dev.underChecked_covers (hok : d.cle.ok) (hk : d.odo.known = true)
    (hroom : d.cle.table.length + (d.footprint.places.filter (fun x => (d.cle.entry x.sec).isNone)).length ≤ Config.maxClaims)
    (hcalm : ∀ x ∈ d.footprint.places, d.cle.holds x.sec = false → d.calmAt loud x.sec) :
    d.Covers loud d.underChecked d.footprint.places := by
  have hre := Dev.realigned_covers (loud := loud) hok
  have hentry : ∀ n, d.realigned.cle.entry n = d.cle.entry n := fun n => hre.others n List.not_mem_nil
  have hfold : d.realigned.Covers loud d.underChecked d.footprint.places := by
    refine Dev.foldl_covers hre.ok hk _ (footprintOf_nodup ..) ?_ (fun x hx hno => ?_) fun x hx => ?_
    · rw [hre.length, List.filter_nil, List.length_nil, Nat.add_zero]
      simpa only [hentry] using hroom
    · exact hcalm x hx ((hre.holds_eq hok (x := x) List.not_mem_nil).symm.trans hno)
    · exact (Footprint.covers_iff ..).mpr (List.mem_map_of_mem hx)
  exact hre.trans hok hfold fun _ _ => List.not_mem_nil

end

end Sys2Proof.Machine

/-! SUPPORT. The entry into LISTEN: what its raises leave, the start-up position, and the first claims (R36, R62, R180, R184, R195). -/

namespace Sys2Proof.Machine

/-! ### Raises in LISTEN (R180) -/

/-- From `d` to `e` faults have been raised in a state in which a HALT-class kind sets the halt hold alone: nothing queued is lost, and an
active CONFIG-CLAMPED stays as it is. -/
structure Dev.Sounds (d e : Dev) : Prop where
  frame : ∃ (q : List TxEntry) (t : TxState) (fs : List FaultEntry) (cs : List (BitVec 16)) (h : Bool), e = { d with
    lif := { d.lif with queue := q, tx := t }, faults := fs, counters := cs, stc := { d.stc with haltHold := h } }
  clamped : ∀ y ∈ d.faults, y.kind = .configClamped → y ∈ e.faults
  active : ∀ j, d.faultActive j = true → e.faultActive j = true
  hold : d.stc.haltHold = true → e.stc.haltHold = true
  queue : ∀ y ∈ d.lif.queue, y ∈ e.lif.queue

section
variable {d e f : Dev} {k : FaultKind}

/-- A report marks its kind's entry as reported (R183). -/
theorem Dev.reportFault_faults (d : Dev) (y : FaultEntry) :
    (d.reportFault y).faults = d.faults.map (fun x => if x.kind = y.kind then { x with reported := true } else x) := by
  obtain ⟨_, _, _, heq⟩ := Dev.enqueue_line
    { d with faults := d.faults.map (fun x => if x.kind = y.kind then { x with reported := true } else x) }
    .faultReport 0 (faultReportPayload 1 y.kind y.repeats 0 y.sec y.offset) none
  exact (congrArg Dev.faults heq :)

theorem Dev.enterFault_keeps {y : FaultEntry} (hy : y ∈ d.faults) (hne : y.kind ≠ k) : y ∈ (d.enterFault k).faults := by
  cases hact : d.faultActive k with
  | true =>
    rw [Dev.enterFault_repeat hact]
    exact List.mem_map.mpr ⟨y, hy, if_neg hne⟩
  | false =>
    have hinserted : y ∈ faultInsert (d.newFault k) d.faults := (mem_insertSorted ..).mpr (.inr hy)
    rw [Dev.enterFault_new hact]
    split
    · rw [Dev.reportFault_faults]
      exact List.mem_map.mpr ⟨y, hinserted, if_neg hne⟩
    · exact hinserted

namespace Dev.Sounds

theorem refl (d : Dev) : d.Sounds d := ⟨⟨_, _, _, _, _, rfl⟩, fun _ h _ => h, fun _ h => h, id, fun _ h => h⟩

theorem trans (h : d.Sounds e) (h' : e.Sounds f) : d.Sounds f := by
  refine ⟨?_, fun y hy hk => h'.clamped y (h.clamped y hy hk) hk, fun j hj => h'.active j (h.active j hj), h'.hold ∘ h.hold,
    fun y hy => h'.queue y (h.queue y hy)⟩
  obtain ⟨_, _, _, _, _, rfl⟩ := h.frame
  obtain ⟨_, _, _, _, _, rfl⟩ := h'.frame
  exact ⟨_, _, _, _, _, rfl⟩

/-- A change of the other blocks does not matter. -/
theorem beside (h : d.Sounds e) (o : Odo) (s : Sup) (b : Bdu) (x : Dkc) :
    ({ d with odo := o, sup := s, bdu := b, dkc := x } : Dev).Sounds { e with odo := o, sup := s, bdu := b, dkc := x } := by
  obtain ⟨⟨q, t, fs, cs, hold, rfl⟩, hc, ha, hh, hq⟩ := h
  exact ⟨⟨_, _, _, _, _, rfl⟩, hc, ha, hh, hq⟩

theorem counted (h : d.Sounds e) (cs : List (BitVec 16)) : d.Sounds { e with counters := cs } := by
  obtain ⟨⟨_, _, _, _, _, rfl⟩, hc, ha, hh, hq⟩ := h
  exact ⟨⟨_, _, _, _, _, rfl⟩, hc, ha, hh, hq⟩

theorem enterFault (d : Dev) (hk : k ≠ .configClamped) : d.Sounds (d.enterFault k) := by
  refine ⟨?_, fun y hy hc => Dev.enterFault_keeps hy (by rw [hc]; exact hk.symm), fun j hj => ?_, fun h => ?_, fun y hy => ?_⟩
  · obtain ⟨fs, b, cs, heq, -⟩ := d.enterFault_changes k
    rw [heq]
    split
    · rw [Lif.place_eq]
      exact ⟨_, _, _, _, _, rfl⟩
    · exact ⟨_, _, _, _, _, rfl⟩
  · rw [Dev.enterFault_active, hj, Bool.or_true]
  · obtain ⟨_, _, _, heq, -⟩ := d.enterFault_changes k
    rw [heq]
    exact h
  · obtain ⟨fs, b, cs, heq, -⟩ := d.enterFault_changes k
    rw [heq]
    show y ∈ (if _ then _ else _ : Lif).queue
    split
    · rw [Lif.place_queue, mem_insertSorted]
      exact .inr hy
    · exact hy

theorem takeHalt (d : Dev) (h : d.stc.state = .listen) : d.Sounds d.takeHalt ∧ d.takeHalt.stc.haltHold = true := by
  unfold Dev.takeHalt
  rw [h]
  exact ⟨⟨⟨_, _, _, _, _, rfl⟩, fun _ hy _ => hy, fun _ hj => hj, fun _ => rfl, fun _ hy => hy⟩, rfl⟩

theorem state (h : d.Sounds e) : e.stc.state = d.stc.state := by
  obtain ⟨_, _, _, _, _, rfl⟩ := h.frame
  rfl

theorem raise_halt (d : Dev) (h : d.stc.state = .listen) (hc : k.cls = .halt) (hk : k ≠ .configClamped) :
    d.Sounds (d.raise k) ∧ (d.raise k).stc.haltHold = true ∧ (d.raise k).faultActive k = true := by
  have hentered := enterFault d hk
  obtain ⟨hhalt, hhold⟩ := takeHalt (d.enterFault k) (hentered.state.trans h)
  refine ⟨?_, ?_, Dev.raise_active_self (by rw [hc]; decide) d⟩
  · rw [Dev.raise_of_halt hc]
    exact hentered.trans hhalt
  · rw [Dev.raise_of_halt hc]
    exact hhold

theorem raise_warn (d : Dev) (hc : k.cls = .warn) (hk : k ≠ .configClamped) : d.Sounds (d.raise k) := by
  rw [Dev.raise_of_warn hc]
  exact enterFault d hk

end Dev.Sounds

end

/-! ### The blocks' activations (R195) -/

/-- The one fault that can enter before LISTEN is reported as LIF becomes active (R184). -/
theorem Dev.reportHeld_boot {d : Dev} (hkind : ∀ y ∈ d.faults, y.kind = .configClamped) (hlen : d.faults.length ≤ 1)
    (hact : d.lif.active = true) (hq : d.lif.queue = []) :
    ∃ (q : List TxEntry) (t : TxState) (fs : List FaultEntry) (cs : List (BitVec 16)), d.reportHeld = { d with
      lif := { d.lif with queue := q, tx := t }, faults := fs, counters := cs } ∧ ∀ y ∈ d.faults, y.reported = false →
        { y with reported := true } ∈ fs ∧ ∃ x ∈ q, x.kind = .faultReport ∧ x.dest = 0
          ∧ x.payload.take 4 = [1, BitVec.ofNat 8 y.kind.code, 1, y.repeats] := by
  have hroom : d.lif.hasRoom := ⟨hact, by rw [hq]; decide⟩
  unfold Dev.reportHeld
  cases hf : d.faults with
  | nil => exact ⟨_, _, _, _, rfl, fun y hy => absurd hy List.not_mem_nil⟩
  | cons y l =>
    rw [hf] at hlen
    obtain rfl : l = [] := List.eq_nil_of_length_eq_zero (by simpa using hlen)
    cases hr : y.reported with
    | true =>
      rw [List.filter_cons_of_neg (by simp [hr])]
      refine ⟨_, _, _, _, rfl, fun z hz hno => ?_⟩
      rw [List.mem_singleton.mp hz, hr] at hno
      exact absurd hno.symm Bool.false_ne_true
    | false =>
      rw [List.filter_cons_of_pos (by simp [hr])]
      have hkind := hkind y (by rw [hf]; exact List.mem_singleton_self y)
      let x : Dev := { d with faults := d.faults.map (fun x => if x.kind = y.kind then { x with reported := true } else x) }
      obtain ⟨q, t, cs, heq⟩ := x.enqueue_line .faultReport 0 (faultReportPayload 1 y.kind y.repeats 0 y.sec y.offset) none
      have hqueued : (⟨.faultReport, 0, faultReportPayload 1 y.kind y.repeats 0 y.sec y.offset, 0, none, false⟩ : TxEntry) ∈ q := by
        have hmem : (⟨.faultReport, 0, faultReportPayload 1 y.kind y.repeats 0 y.sec y.offset, 0, none, false⟩ : TxEntry)
            ∈ (x.enqueue .faultReport 0 (faultReportPayload 1 y.kind y.repeats 0 y.sec y.offset) none).1.lif.queue := by
          rw [Dev.enqueue_of_room (d := x) hroom rfl]
          exact Lif.mem_place ..
        rw [heq] at hmem
        exact hmem
      refine ⟨q, t, x.faults, _, congrArg (fun x => Dev.bump x .raisedQueued) heq, fun z hz _ => ?_⟩
      obtain rfl := List.mem_singleton.mp hz
      refine ⟨?_, _, hqueued, rfl, rfl, ?_⟩
      · simp [x, hf]
      · simp only [faultReportPayload, hkind]
        rfl

/-- BDU's record as it becomes active (R110, R117, R120). -/
def Bdu.activated (b : Bdu) : Bdu :=
  let b := ({ ({ b with active := true } : Bdu).settled with srcDriveNotReady := !b.inDriveReady } : Bdu).settled
  let b := if b.inLocalStop then ({ b with srcLocalStop := true } : Bdu).settled else b
  if b.inSupplyLow then b.latchSet .supplyLow else b

theorem Dev.bduActivate_boot {d : Dev} (hs : d.stc.state = .listen) (hl : d.bdu.latchSupplyLow = false) :
    (∃ s : Sup, ({ d with odo := d.odo, sup := s, bdu := d.bdu.activated, dkc := d.dkc } : Dev).Sounds d.bduActivate)
      ∧ (d.bdu.inLocalStop = true → d.bduActivate.faultActive .localStop = true ∧ d.bduActivate.stc.haltHold = true)
      ∧ (d.bdu.inSupplyLow = true → d.bduActivate.faultActive .supplyLow = true ∧ d.bduActivate.stc.haltHold = true) := by
  have hsettle : ∀ (b : Bdu) (cs : List (BitVec 16)),
      ({ d with bdu := b, counters := cs } : Dev).settle = { d with bdu := b.settled, counters := cs } := fun b cs =>
    Dev.settle_of_live (Dev.outputsHeld_of (d := { d with bdu := b, counters := cs }) hs (by decide))
  let b2 : Bdu := ({ ({ d.bdu with active := true } : Bdu).settled with srcDriveNotReady := !d.bdu.inDriveReady } : Bdu).settled
  obtain ⟨cs, hdrive⟩ : ∃ cs, ({ d with bdu := { d.bdu with active := true } } : Dev).settle.driveSource = { d with bdu := b2, counters := cs } := by
    rw [hsettle _ d.counters]
    unfold Dev.driveSource
    simp only
    rw [hsettle _ d.counters]
    split <;> exact ⟨_, rfl⟩
  have hin : b2.inLocalStop = d.bdu.inLocalStop ∧ b2.inSupplyLow = d.bdu.inSupplyLow ∧ b2.latchSupplyLow = d.bdu.latchSupplyLow := ⟨rfl, rfl, rfl⟩
  let b3 : Bdu := if b2.inLocalStop then ({ b2 with srcLocalStop := true } : Bdu).settled else b2
  let x2 : Dev := { d with bdu := b2, counters := cs }
  let x3 : Dev := if x2.bdu.inLocalStop then x2.localStopOn else x2
  have hx3 : ({ d with bdu := b3 } : Dev).Sounds x3 ∧ (d.bdu.inLocalStop = true → x3.faultActive .localStop = true ∧ x3.stc.haltHold = true) := by
    simp only [x3, b3]
    cases h : d.bdu.inLocalStop with
    | false =>
      rw [if_neg (show ¬x2.bdu.inLocalStop = true by rw [show x2.bdu.inLocalStop = d.bdu.inLocalStop from rfl, h]; exact Bool.false_ne_true),
        if_neg (by rw [hin.1, h]; exact Bool.false_ne_true)]
      exact ⟨(Dev.Sounds.refl _).counted cs, fun h => absurd h Bool.false_ne_true⟩
    | true =>
      rw [if_pos (show x2.bdu.inLocalStop = true from h), if_pos (hin.1.trans h)]
      have hon : x2.localStopOn = (({ d with bdu := ({ b2 with srcLocalStop := true } : Bdu).settled, counters := cs } : Dev).bump .localStops).raise .localStop :=
        congrArg (fun x => (Dev.bump x .localStops).raise .localStop) (hsettle _ cs)
      rw [hon]
      obtain ⟨hsounds, hhold, hactive⟩ := Dev.Sounds.raise_halt (k := .localStop)
        (({ d with bdu := ({ b2 with srcLocalStop := true } : Bdu).settled, counters := cs } : Dev).bump .localStops) hs rfl (by decide)
      exact ⟨((Dev.Sounds.refl _).counted _).trans hsounds, fun _ => ⟨hactive, hhold⟩⟩
  have hx3bdu : x3.bdu = b3 := by
    obtain ⟨_, _, _, _, _, heq⟩ := hx3.1.frame
    exact (congrArg Dev.bdu heq :)
  have hb3 : b3.inSupplyLow = d.bdu.inSupplyLow ∧ b3.latchSupplyLow = d.bdu.latchSupplyLow := by
    simp only [b3]
    split <;> exact ⟨rfl, rfl⟩
  have hactivate : d.bduActivate = if x3.bdu.inSupplyLow then x3.supplyLowOn else x3 := by
    unfold Dev.bduActivate
    simp only [hdrive]
    rfl
  have hactivated : d.bdu.activated = if b3.inSupplyLow then b3.latchSet .supplyLow else b3 := rfl
  rw [hx3bdu] at hactivate
  cases h : d.bdu.inSupplyLow with
  | false =>
    have hno : ¬b3.inSupplyLow = true := by rw [hb3.1, h]; exact Bool.false_ne_true
    rw [if_neg hno] at hactivate hactivated
    rw [hactivate, hactivated]
    exact ⟨⟨d.sup, hx3.1⟩, hx3.2, fun h => absurd h Bool.false_ne_true⟩
  | true =>
    rw [if_pos (hb3.1.trans h)] at hactivate hactivated
    rw [hactivate, hactivated]
    obtain ⟨cs', hset⟩ := Dev.setLatch_new (d := x3) (l := .supplyLow) (by rw [hx3bdu]; exact hb3.2.trans hl)
    have hstate : (x3.setLatch .supplyLow).stc.state = .listen := by
      rw [hset]
      exact hx3.1.state.trans hs
    obtain ⟨hsounds, hhold, hactive⟩ := Dev.Sounds.raise_halt (k := .supplyLow) (x3.setLatch .supplyLow) hstate rfl (by decide)
    have hbefore := (hx3.1.beside d.odo { x3.sup with demand := 0 } (b3.latchSet .supplyLow) d.dkc).counted cs'
    have hset' : ({ { x3 with odo := d.odo, sup := { x3.sup with demand := 0 }, bdu := b3.latchSet .supplyLow, dkc := d.dkc } with
        counters := cs' } : Dev) = x3.setLatch .supplyLow := by
      obtain ⟨_, _, _, _, _, heq⟩ := hx3.1.frame
      rw [hset, heq]
    rw [hset'] at hbefore
    refine ⟨⟨{ x3.sup with demand := 0 }, hbefore.trans hsounds⟩, fun hls => ?_, fun _ => ⟨hactive, hhold⟩⟩
    refine ⟨hsounds.active _ ?_, hhold⟩
    rw [hset]
    exact (hx3.2 hls).1

end Sys2Proof.Machine

/-! SUPPORT. The start-up position and the first claims of the entry into LISTEN (R36, R62, R127, R143, R195). -/

namespace Sys2Proof.Machine

section
variable {d e : Dev} {p : PadRec}

/-! ### The start-up position (R36) -/

/-- The pad at which a carriage that is clamped there finds itself at the start (R36). -/
def Dev.startsAt (d : Dev) (p : PadRec) : Prop :=
  codeOnes d.odo.padLines % 2 = 0 ∧ d.odo.padPresence = true ∧ d.bdu.inClampsDown = true
    ∧ findPad d.tmp.pads (d.odo.padLines.toNat % 64) = some p

/-- The position record at that pad (R36). -/
def Dev.startRecord (d : Dev) (p : PadRec) : PositionRec :=
  { PositionRec.reset with
    validity := .known, sec := p.sec, leg := p.leg, offset := p.offset * 1000
    uAnchor := d.tmp.carriage.padTol * 1000, unc := d.tmp.carriage.padTol * 1000 }

theorem Dev.odoActivate_there (h : d.startsAt p) (htol : d.tmp.carriage.padTol ≤ 10) : ∃ o : Odo, o.pos = d.startRecord p
    ∧ d.odoActivate = { d with
      odo := o, bdu := { d.bdu with dirLine := PositionRec.reset.dir }, stc := { d.stc with parkedPad := some p.number } } := by
  obtain ⟨hodd, hpresence, hdown, hpad⟩ := h
  have hcap : d.tmp.carriage.padTol * 1000 < Config.uncertaintyCap :=
    Nat.lt_of_le_of_lt (Nat.mul_le_mul_right 1000 htol) (by decide)
  let o1 : Odo := { d.odo with
    active := true, sampleTimer := d.timerMs Config.sampleMs, history := List.replicate 10 0, padCode := padNumber d.odo.padLines }
  let r : PositionRec := { PositionRec.reset with
    validity := .known, sec := p.sec, leg := p.leg, offset := p.offset * 1000, uAnchor := d.tmp.carriage.padTol * 1000 }
  let x : Dev := ({ d with odo := o1 } : Dev).placeRecord r
  have hrecompute : x.recompute 0 0 = x.withPos (d.startRecord p) :=
    Dev.recompute_within (u := d.tmp.carriage.padTol * 1000) rfl (Dev.uncertainty_none x _) hcap
  have hstart : ({ d with odo := { d.odo with active := true, sampleTimer := d.timerMs Config.sampleMs, history := List.replicate 10 0 } } : Dev).startPosition
      = ((x.recompute 0 0).findDue, some p.number) := by
    have hpad' : findPad d.tmp.pads (padNumber d.odo.padLines) = some p := hpad
    unfold Dev.startPosition
    rw [if_neg (show ¬codeOnes d.odo.padLines % 2 = 1 by omega), if_neg (show ¬(!d.odo.padPresence) = true by simp [hpresence])]
    simp only
    split
    · next q hq =>
      obtain rfl : q = p := Option.some.inj (hq.symm.trans hpad')
      exact if_pos hdown
    · next hq => exact absurd (hq.symm.trans hpad') (Option.some_ne_none p).symm
  unfold Dev.odoActivate
  simp only [hstart, hrecompute]
  exact ⟨_, rfl, rfl⟩

theorem Dev.odoActivate_elsewhere (h : ∀ p, ¬d.startsAt p) (hpos : d.odo.pos = PositionRec.reset) (hpark : d.stc.parkedPad = none) :
    ∃ o : Odo, o.pos = PositionRec.reset ∧ ({ d with odo := o } : Dev).Sounds d.odoActivate
      ∧ (codeOnes d.odo.padLines % 2 = 1 → d.odoActivate.faultActive .padCode = true) := by
  let x : Dev := { d with odo := { d.odo with active := true, sampleTimer := d.timerMs Config.sampleMs, history := List.replicate 10 0 } }
  have hquiet : ∀ y : Dev, y.odo.pos = PositionRec.reset → y.stc.parkedPad = none →
      ({ y with stc := { y.stc with parkedPad := if y.odo.known then (none : Option Nat) else none } } : Dev) = y := fun y _ hy => by
    rw [ite_self, ← hy]
  by_cases hodd : codeOnes d.odo.padLines % 2 = 1
  · have hstart : x.startPosition = (x.raise .padCode, none) := if_pos hodd
    have hsounds := Dev.Sounds.raise_warn (k := .padCode) x rfl (by decide)
    have hactive : (x.raise .padCode).faultActive .padCode = true := Dev.raise_active_self (by decide) x
    have hsame : (x.raise .padCode).odo = x.odo ∧ (x.raise .padCode).stc.parkedPad = none := by
      obtain ⟨_, _, _, _, _, heq⟩ := hsounds.frame
      rw [heq]
      exact ⟨rfl, hpark⟩
    have heq : d.odoActivate = x.raise .padCode := by
      show ({ x.startPosition.1 with stc := { x.startPosition.1.stc with
        parkedPad := if x.startPosition.1.odo.known then x.startPosition.2 else none } } : Dev) = _
      rw [hstart]
      exact hquiet _ (by rw [hsame.1]; exact hpos) hsame.2
    rw [heq]
    exact ⟨x.odo, hpos, hsounds, fun _ => hactive⟩
  · have hcalm : ∃ c, x.startPosition = ({ x with odo := { x.odo with padCode := c } }, none) := by
      have hlines : ¬codeOnes x.odo.padLines % 2 = 1 := hodd
      unfold Dev.startPosition
      rw [if_neg hlines]
      by_cases hpresence : x.odo.padPresence = true
      · rw [if_neg (by simp [hpresence])]
        simp only
        split
        · next p hp =>
          have hup : ¬d.bdu.inClampsDown = true := fun hdown => h p ⟨by omega, hpresence, hdown, hp⟩
          rw [if_neg hup]
          exact ⟨_, rfl⟩
        · exact ⟨_, rfl⟩
      · rw [if_pos (by simpa using hpresence)]
        exact ⟨_, rfl⟩
    obtain ⟨c, hstart⟩ := hcalm
    refine ⟨{ x.odo with padCode := c }, hpos, ?_, fun hone => absurd hone hodd⟩
    have heq : d.odoActivate = { x with odo := { x.odo with padCode := c } } := by
      show ({ x.startPosition.1 with stc := { x.startPosition.1.stc with
        parkedPad := if x.startPosition.1.odo.known then x.startPosition.2 else none } } : Dev) = _
      rw [hstart]
      exact hquiet _ hpos hpark
    rw [heq]
    exact Dev.Sounds.refl _

/-- DKC at its activation (R127, R139). -/
theorem Dev.dockActivate_boot (h : d.stc.state = .listen) : ∃ k : Dkc, k.sub = (if d.bdu.clampsHeld then .clamped else .idle)
    ∧ ({ d with dkc := k } : Dev).Sounds d.dockActivate := by
  obtain ⟨w, hwatch⟩ := Dev.watchClamps_changes
    { d with dkc := { d.dkc with active := true, sub := if d.bdu.clampsHeld then .clamped else .idle } }
  let x : Dev := { d with dkc := { d.dkc with active := true, sub := if d.bdu.clampsHeld then .clamped else .idle, watchTimer := w } }
  have hx : d.dockActivate = if x.bdu.inClampsDown && x.bdu.inClampsUp then x.clampFault .clampBoth else x := by
    unfold Dev.dockActivate
    simp only [hwatch]
    rfl
  rw [hx]
  have hraised : x.Sounds (x.clampFault .clampBoth) := ((Dev.Sounds.refl x).counted _).trans
    (Dev.Sounds.raise_halt (k := .clampSensor) (x.bump .clampBoth) h rfl (by decide)).1
  exact ⟨x.dkc, rfl, ite_keeps (P := x.Sounds) (fun _ => hraised) (fun _ => Dev.Sounds.refl x)⟩

/-! ### The first claims (R62) -/

theorem Dev.cleActivate_unknown (h : d.odo.pos.validity = .unknown) : d.cleActivate = { d with cle := { d.cle with active := true } } := by
  refine Dev.event_idle (if_neg ?_)
  rw [Bool.and_eq_true]
  exact fun hk => (Odo.known_iff d.odo).mp hk.2 h

/-- The sections under the footprint become HELD, with no peer known and no claim before. -/
theorem Dev.cleActivate_first (hpeers : d.peers = []) (hcle : d.cle = Cle.reset) (hk : d.odo.known = true)
    (hlen : d.footprint.sections.length ≤ Config.maxClaims) : d.takesApart false d.cleActivate ∧ d.cleActivate.faults = d.faults
      ∧ ∀ n, n ∈ d.cleActivate.cle.heldSections ↔ n ∈ d.footprint.sections := by
  let x : Dev := ({ d with cle := { d.cle with active := true } } : Dev).gatheringNone
  have htable : x.cle.table = [] := congrArg Cle.table hcle
  have hempty : ∀ n, x.cle.entry n = none := fun n => by rw [Cle.entry, htable]; rfl
  have hok : x.cle.ok := by
    have h : x.cle = { Cle.reset with active := true, gathering := some [] } := by
      show ({ d.cle with active := true, gathering := some [] } : Cle) = _
      rw [hcle]
    rw [h]
    refine ⟨by decide, List.nodup_nil, by decide, List.Pairwise.nil, fun _ hm => absurd hm List.not_mem_nil, fun _ hm => absurd hm List.not_mem_nil⟩
  have hblocked : ∀ n, x.conflicts n = false := fun n => by
    have : x.blocked n = none := by rw [Dev.blocked, show x.peers = [] from hpeers]; rfl
    rw [Dev.conflicts, this]
    rfl
  have hcovers := Dev.underChecked_covers (loud := false) hok hk (by
    rw [htable, List.length_nil, Nat.zero_add]
    refine (List.length_filter_le _ _).trans ?_
    have : x.footprint.places.length = d.footprint.sections.length := (List.length_map _).symm
    rw [this]
    exact hlen) fun y _ _ => hblocked _
  have hall : ∀ z ∈ x.underChecked.cle.table, z.isHeld = true ∧ z.sec ∈ d.footprint.sections := fun z hz => by
    have hentry := Cle.entry_of_mem hcovers.ok hz
    by_cases hm : z.sec ∈ x.footprint.places.map (·.sec)
    · obtain ⟨y, hy, hs⟩ := List.mem_map.mp hm
      have hc := hcovers.covered y hy
      rw [hs, hentry] at hc
      exact ⟨by rw [Option.some.inj hc]; exact x.covered_held y, hm⟩
    · rw [hcovers.others _ hm, hempty] at hentry
      exact absurd hentry.symm (Option.some_ne_none _)
  have hfront : x.underChecked.cle.front = none := List.find?_eq_none.mpr fun z hz => by simp [(hall z hz).1]
  obtain ⟨t, dl, hdl, hecle⟩ := hcovers.cle
  have hcheck : x.footprintCheck = x.underChecked := by
    rw [Dev.footprintCheck_eq (d := x) rfl hk]
    unfold Dev.refront
    rw [hfront]
    exact if_neg (by simp)
  have hdone : d.cleActivate = _ := Dev.event_eq (act := Dev.footprintCheck) (d := { d with cle := { d.cle with active := true } })
    hcheck (by rw [hecle]; rfl)
  rw [hdone]
  have hapart := Dev.takesApart_trans ((claimWork_takesApart false d).cle x.cle (Dev.takesApart_refl false d)) hcovers.apart
  have hdead : x.cle.deadlock = none := congrArg Cle.deadlock hcle
  refine ⟨(claimWork_takesApart false d).cle _ hapart, hcovers.calm rfl hdead, fun n => ⟨fun hn => ?_, fun hn => ?_⟩⟩
  · obtain ⟨z, hz, rfl⟩ := List.mem_map.mp hn
    exact (hall z (List.mem_filter.mp hz).1).2
  · obtain ⟨y, hy, rfl⟩ := List.mem_map.mp hn
    have hc := Cle.entry_mem (hcovers.covered y hy)
    exact List.mem_map.mpr ⟨_, List.mem_filter.mpr ⟨hc.1, x.covered_held y⟩, hc.2⟩

end

/-! ### The entry as a whole (R143, R195) -/

/-- BDU's record after reset, with the levels of its inputs. -/
def Bdu.atStart (b : Bdu) : Bdu :=
  { Bdu.reset with
    inLocalStop := b.inLocalStop, inDriveReady := b.inDriveReady, inSupplyLow := b.inSupplyLow, inClampsDown := b.inClampsDown
    inClampsUp := b.inClampsUp }

/-- BDU's record after the activation: its inputs, its latch and the service brake as the inputs have them. -/
theorem Bdu.atStart_activated (b : Bdu) : (b.atStart.activated.clampsHeld = b.clampsHeld ∧ b.atStart.activated.inClampsDown = b.inClampsDown)
    ∧ b.atStart.activated.latchSupplyLow = b.inSupplyLow
    ∧ b.atStart.activated.serviceBrake = (b.inLocalStop || !b.inDriveReady || b.inSupplyLow) := by
  unfold Bdu.atStart Bdu.activated Bdu.clampsHeld
  cases b.inLocalStop <;> cases b.inDriveReady <;> cases b.inSupplyLow <;> exact ⟨⟨rfl, rfl⟩, rfl, rfl⟩

theorem Dev.listening_eq (d : Dev) : d.listening = { d with
    btl := { d.btl with phase := .done, blockTimer := none }
    stc := { d.stc with state := .listen, remembered := none, listenTimer := d.timerMs d.tmp.plan.lostTime }
    sup := { d.sup with demand := 0 }
    bdu := ({ d.bdu with srcHalted := false, demandHanded := 0, duty := 0 } : Bdu).settled
    lif := { d.lif with test := none } } := by
  rw [Dev.listening, Dev.enterState_of_rest (by simp)]
  rfl

section
variable {d e : Dev}

/-- CLE's activation, whether or not the position is known. -/
theorem Dev.cleActivate_boot (hpeers : d.peers = []) (hcle : d.cle = Cle.reset)
    (hlen : d.odo.pos.validity ≠ .unknown → d.footprint.sections.length ≤ Config.maxClaims) :
    (∃ (c : Cle) (q : List TxEntry) (t : TxState) (cs : List (BitVec 16)) (h : Bool), d.cleActivate = { d with
      cle := c, lif := { d.lif with queue := q, tx := t }, counters := cs, stc := { d.stc with heldReport := h } })
    ∧ (d.odo.pos.validity = .unknown → d.cleActivate.cle.table = [] ∧ d.cleActivate.lif.queue = d.lif.queue)
    ∧ (d.odo.pos.validity ≠ .unknown → ∀ n, n ∈ d.cleActivate.cle.heldSections ↔ n ∈ d.footprint.sections) := by
  by_cases hu : d.odo.pos.validity = .unknown
  · rw [Dev.cleActivate_unknown hu, hcle]
    exact ⟨⟨_, _, _, _, _, rfl⟩, fun _ => ⟨rfl, rfl⟩, fun h => absurd hu h⟩
  · obtain ⟨⟨c, q, t, fs, cs, h, heq, -⟩, hfaults, hheld⟩ := Dev.cleActivate_first hpeers hcle ((Odo.known_iff d.odo).mpr hu) (hlen hu)
    refine ⟨⟨c, q, t, cs, h, ?_⟩, fun h => absurd h hu, fun _ => hheld⟩
    rw [heq] at hfaults ⊢
    obtain rfl : fs = d.faults := hfaults
    rfl

/-- ODO's activation, whether or not the carriage stands clamped at a pad. -/
theorem Dev.odoActivate_boot (htol : d.tmp.carriage.padTol ≤ 10) (hpos : d.odo.pos = PositionRec.reset) (hpark : d.stc.parkedPad = none) :
    ∃ (o : Odo) (l : Direction) (pp : Option Nat),
      ({ d with odo := o, bdu := { d.bdu with dirLine := l }, stc := { d.stc with parkedPad := pp } } : Dev).Sounds d.odoActivate
      ∧ (∀ p, d.startsAt p → o.pos = d.startRecord p ∧ pp = some p.number)
      ∧ ((∀ p, ¬d.startsAt p) → o.pos = PositionRec.reset ∧ pp = none)
      ∧ (codeOnes d.odo.padLines % 2 = 1 → d.odoActivate.faultActive .padCode = true) := by
  by_cases h : ∃ p, d.startsAt p
  · obtain ⟨p, hp⟩ := h
    obtain ⟨o, ho, heq⟩ := Dev.odoActivate_there hp htol
    rw [heq]
    refine ⟨o, _, _, Dev.Sounds.refl _, fun q hq => ?_, fun hno => absurd hp (hno p), fun hodd => absurd (hodd.symm.trans hp.1) (by decide)⟩
    obtain rfl : q = p := Option.some.inj (hq.2.2.2.symm.trans hp.2.2.2)
    exact ⟨ho, rfl⟩
  · have hno : ∀ p, ¬d.startsAt p := fun p hp => h ⟨p, hp⟩
    obtain ⟨o, ho, hsounds, hodd⟩ := Dev.odoActivate_elsewhere hno hpos hpark
    exact ⟨o, d.bdu.dirLine, d.stc.parkedPad, hsounds, fun p hp => absurd hp (hno p), fun _ => ⟨ho, hpark⟩, hodd⟩

theorem Dev.Sounds.parked (h : d.Sounds e) (pp : Option Nat) :
    ({ d with stc := { d.stc with parkedPad := pp } } : Dev).Sounds { e with stc := { e.stc with parkedPad := pp } } := by
  obtain ⟨⟨_, _, _, _, _, rfl⟩, hc, ha, hh, hq⟩ := h
  exact ⟨⟨_, _, _, _, _, rfl⟩, hc, ha, hh, hq⟩

/-- ODO, SUP and DKC activated one after the other. -/
theorem Dev.blocksActivate_boot (hs : d.stc.state = .listen) (htol : d.tmp.carriage.padTol ≤ 10) (hpos : d.odo.pos = PositionRec.reset)
    (hpark : d.stc.parkedPad = none) : ∃ (o : Odo) (y : Sup) (l : Direction) (k : Dkc) (pp : Option Nat),
      ({ d with odo := o, sup := y, bdu := { d.bdu with dirLine := l }, dkc := k, stc := { d.stc with parkedPad := pp } } : Dev).Sounds
        d.odoActivate.supActivate.dockActivate
      ∧ k.sub = (if d.bdu.clampsHeld then .clamped else .idle)
      ∧ (∀ p, d.startsAt p → o.pos = d.startRecord p ∧ pp = some p.number)
      ∧ ((∀ p, ¬d.startsAt p) → o.pos = PositionRec.reset ∧ pp = none)
      ∧ (codeOnes d.odo.padLines % 2 = 1 → d.odoActivate.supActivate.dockActivate.faultActive .padCode = true) := by
  obtain ⟨o, l, pp, hsounds, hthere, helse, hodd⟩ := Dev.odoActivate_boot htol hpos hpark
  obtain ⟨_, _, _, _, _, heq⟩ := hsounds.frame
  have hstate : d.odoActivate.supActivate.stc.state = .listen := hsounds.state.trans hs
  have hbdu : d.odoActivate.supActivate.bdu = { d.bdu with dirLine := l } := (congrArg Dev.bdu heq :)
  obtain ⟨k, hk, hdock⟩ := Dev.dockActivate_boot hstate
  have hbefore := hsounds.beside o d.odoActivate.supActivate.sup { d.bdu with dirLine := l } k
  have hsame : ({ d.odoActivate with odo := o, sup := d.odoActivate.supActivate.sup, bdu := { d.bdu with dirLine := l }, dkc := k } : Dev)
      = { d.odoActivate.supActivate with dkc := k } := by
    rw [heq]
    rfl
  rw [hsame] at hbefore
  refine ⟨o, _, l, k, pp, hbefore.trans hdock, ?_, hthere, helse, fun h => hdock.active _ (hodd h)⟩
  rw [hk, hbdu]
  rfl

end

/-- The part as the entry into LISTEN finds it after the boot: nothing but the odometer's and BDU's inputs, and CONFIG-CLAMPED at most. -/
structure Dev.FromBoot (d : Dev) : Prop where
  stc : d.stc = Stc.reset
  cle : d.cle = Cle.reset
  lif : d.lif = Lif.reset
  peers : d.peers = []
  pos : d.odo.pos = PositionRec.reset
  bdu : d.bdu = d.bdu.atStart
  kind : ∀ y ∈ d.faults, y.kind = .configClamped
  one : d.faults.length ≤ 1

/-- The part once LISTEN is entered, LIF and BDU are active and the report held until then is queued. -/
def Dev.powered (d : Dev) : Dev := d.listening.lifActivate.reportHeld.bduActivate

section
variable {d : Dev}

theorem Dev.powered_boot (h : d.FromBoot) :
    (∃ hold, d.powered.stc = { Stc.reset with state := .listen, listenTimer := d.timerMs d.tmp.plan.lostTime, haltHold := hold })
      ∧ d.powered.bdu = d.bdu.activated
      ∧ (d.powered.odo = d.odo ∧ d.powered.tmp = d.tmp ∧ d.powered.peers = [] ∧ d.powered.cle = Cle.reset)
      ∧ (∀ y ∈ d.faults, y.reported = false → { y with reported := true } ∈ d.powered.faults
        ∧ ∃ x ∈ d.powered.lif.queue, x.kind = .faultReport ∧ x.dest = 0 ∧ x.payload.take 4 = [1, BitVec.ofNat 8 y.kind.code, 1, y.repeats])
      ∧ (d.bdu.inLocalStop = true → d.powered.faultActive .localStop = true ∧ d.powered.stc.haltHold = true)
      ∧ (d.bdu.inSupplyLow = true → d.powered.faultActive .supplyLow = true ∧ d.powered.stc.haltHold = true) := by
  let a := d.listening.lifActivate
  have hastc : a.stc = { Stc.reset with state := .listen, listenTimer := d.timerMs d.tmp.plan.lostTime } := by
    simp only [a, Dev.listening_eq, Dev.lifActivate, Dev.setLif, h.stc]
    rfl
  have habdu : a.bdu = d.bdu := by
    have hstart : ({ d.bdu.atStart with srcHalted := false, demandHanded := 0, duty := 0 } : Bdu).settled = d.bdu.atStart := rfl
    rw [← h.bdu] at hstart
    simp only [a, Dev.listening_eq, Dev.lifActivate, Dev.setLif, hstart]
  have hsame : a.cle = d.cle ∧ a.odo = d.odo ∧ a.peers = d.peers ∧ a.tmp = d.tmp ∧ a.faults = d.faults ∧ a.lif.queue = d.lif.queue := by
    simp only [a, Dev.listening_eq]
    exact ⟨rfl, rfl, rfl, rfl, rfl, rfl⟩
  obtain ⟨hacle, haodo, hapeers, hatmp, hafaults, haqueue⟩ := hsame
  obtain ⟨q, tx, fs, cs, hreport, hreported⟩ := Dev.reportHeld_boot (d := a) (by rw [hafaults]; exact h.kind) (by rw [hafaults]; exact h.one) rfl
    (by rw [haqueue, h.lif]; rfl)
  let r := a.reportHeld
  have hr : r = { a with lif := { a.lif with queue := q, tx := tx }, faults := fs, counters := cs } := hreport
  have hrbdu : r.bdu = d.bdu := by rw [hr, ← habdu]
  obtain ⟨⟨s, hpowered⟩, hlocal, hlow⟩ := Dev.bduActivate_boot (d := r) (by rw [hr, hastc]) (by rw [hrbdu, h.bdu]; rfl)
  rw [hrbdu] at hpowered hlocal hlow
  obtain ⟨_, _, _, _, hold, hx⟩ := hpowered.frame
  have hx' : d.powered = _ := hx
  refine ⟨⟨hold, ?_⟩, by rw [hx'], ?_, fun y hy hno => ?_, hlocal, hlow⟩
  · rw [hx', hr, hastc]
  · rw [hx', hr]
    exact ⟨haodo, hatmp, hapeers.trans h.peers, hacle.trans h.cle⟩
  · obtain ⟨hrep, w, hw, hshape⟩ := hreported y (by rw [hafaults]; exact hy) hno
    exact ⟨hpowered.clamped _ (by rw [hr]; exact hrep) (h.kind y hy), w, hpowered.queue w (by rw [hr]; exact hw), hshape⟩

theorem Dev.enterListen_powered (d : Dev) :
    d.enterListen = d.powered.odoActivate.supActivate.dockActivate.cleActivate := d.enterListen_eq

/-- What the entry into LISTEN leaves beside the items that each block keeps from then on. -/
structure Dev.Entered (d e : Dev) : Prop where
  state : e.stc.state = .listen ∧ e.stc.listenTimer = d.timerMs d.tmp.plan.lostTime
  faults : ∀ y ∈ d.faults, y.reported = false → { y with reported := true } ∈ e.faults
  there : ∀ p, d.startsAt p → e.stc.parkedPad = some p.number ∧ e.odo.pos = d.startRecord p
    ∧ ∀ n, n ∈ e.cle.heldSections ↔ n ∈ e.footprint.sections
  unplaced : (∀ p, ¬d.startsAt p) → e.stc.parkedPad = none ∧ e.odo.pos = PositionRec.reset ∧ e.cle.table = []
    ∧ ∀ y ∈ d.faults, y.reported = false → ∃ x ∈ e.lif.queue, x.kind = .faultReport ∧ x.dest = 0
      ∧ x.payload.take 4 = [1, BitVec.ofNat 8 y.kind.code, 1, y.repeats]
  padCode : codeOnes d.odo.padLines % 2 = 1 → e.faultActive .padCode = true
  dock : e.dkc.sub = (if d.bdu.activated.clampsHeld then .clamped else .idle)
  bdu : ∃ l, e.bdu = { d.bdu.activated with dirLine := l }
  stop : d.bdu.inLocalStop = true → e.faultActive .localStop = true ∧ e.stc.haltHold = true
  low : d.bdu.inSupplyLow = true → e.faultActive .supplyLow = true ∧ e.stc.haltHold = true

theorem Dev.enterListen_entered (h : d.FromBoot) (htol : d.tmp.carriage.padTol ≤ 10)
    (hroom : ∀ p, d.startsAt p → (footprintOf d.tmp.sections [] (d.startRecord p).point
      (halfSpan d.tmp.carriage.length (d.startRecord p).unc)).sections.length ≤ Config.maxClaims) : d.Entered d.enterListen := by
  obtain ⟨⟨hold, hxstc⟩, hxbdu, ⟨hxodo, hxtmp, hxpeers, hxcle⟩, hreported, hlocal, hlow⟩ := Dev.powered_boot h
  rw [d.enterListen_powered]
  generalize d.powered = x at *
  have hdown : d.bdu.activated.inClampsDown = d.bdu.inClampsDown := by
    rw [h.bdu]
    exact d.bdu.atStart_activated.1.2
  have hstarts : ∀ p, x.startsAt p ↔ d.startsAt p := fun p => by
    unfold Dev.startsAt
    rw [hxodo, hxtmp, hxbdu, hdown]
  have hrecord : ∀ p, x.startRecord p = d.startRecord p := fun p => by rw [Dev.startRecord, Dev.startRecord, hxtmp]
  obtain ⟨o, y, l, k, pp, hblocks, hk, hthere, helse, hodd⟩ :=
    Dev.blocksActivate_boot (d := x) (by rw [hxstc]) (by rw [hxtmp]; exact htol) (by rw [hxodo]; exact h.pos) (by rw [hxstc]; rfl)
  simp only [hstarts, hrecord, hxodo] at hthere helse hodd
  generalize x.odoActivate.supActivate.dockActivate = f at *
  obtain ⟨_, _, _, _, hold', hf⟩ := hblocks.frame
  have hfstc : f.stc = { x.stc with parkedPad := pp, haltHold := hold' } := by rw [hf]
  have hfsame : f.odo = o ∧ f.tmp = d.tmp ∧ f.peers = [] ∧ f.cle = Cle.reset ∧ f.dkc = k ∧ f.bdu = { d.bdu.activated with dirLine := l } := by
    rw [← hxtmp, ← hxpeers, ← hxcle, ← hxbdu, hf]
    exact ⟨rfl, rfl, rfl, rfl, rfl, rfl⟩
  obtain ⟨hfodo, hftmp, hfpeers, hfcle, hfdkc, hfbdu⟩ := hfsame
  have hfoot : f.footprint = footprintOf d.tmp.sections [] o.pos.point (halfSpan d.tmp.carriage.length o.pos.unc) := by
    rw [Dev.footprint, Dev.routeEntries, hfstc, hxstc, hftmp, hfodo]
    rfl
  obtain ⟨⟨c, q, tx, cs, hh, he⟩, hempty, hheld⟩ := Dev.cleActivate_boot hfpeers hfcle fun hknown => by
    by_cases hp : ∃ p, d.startsAt p
    · obtain ⟨p, hp⟩ := hp
      rw [hfoot, (hthere p hp).1]
      exact hroom p hp
    · rw [hfodo, (helse fun p hp' => hp ⟨p, hp'⟩).1] at hknown
      exact absurd rfl hknown
  have hfaults : f.cleActivate.faults = f.faults := by rw [he]
  have hestc : f.cleActivate.stc = { f.stc with heldReport := hh } := by rw [he]
  have heodo : f.cleActivate.odo = o := by rw [he, ← hfodo]
  have hefoot : f.cleActivate.footprint = f.footprint := by rw [he]; rfl
  have hactive : ∀ j, x.faultActive j = true → f.cleActivate.faultActive j = true := fun j hj => by
    rw [Dev.faultActive_eq, hfaults]
    exact hblocks.active j hj
  have hhold : x.stc.haltHold = true → f.cleActivate.stc.haltHold = true := fun hx => by
    rw [hestc]
    exact hblocks.hold hx
  exact {
    state := by rw [hestc, hfstc, hxstc]; exact ⟨rfl, rfl⟩
    faults := fun z hz hno => by
      rw [hfaults]
      exact hblocks.clamped _ (hreported z hz hno).1 (h.kind z hz)
    there := fun p hp => ⟨by rw [hestc, hfstc]; exact (hthere p hp).2, by rw [heodo]; exact (hthere p hp).1, by
      rw [hefoot]
      exact hheld (by rw [hfodo, (hthere p hp).1]; exact Validity.noConfusion)⟩
    unplaced := fun hno => by
      obtain ⟨hpos, hpp⟩ := helse hno
      obtain ⟨htable, hqueue⟩ := hempty (by rw [hfodo, hpos]; rfl)
      refine ⟨by rw [hestc, hfstc]; exact hpp, by rw [heodo]; exact hpos, htable, fun z hz hr => ?_⟩
      obtain ⟨-, w, hw, hshape⟩ := hreported z hz hr
      exact ⟨w, by rw [hqueue]; exact hblocks.queue w hw, hshape⟩
    padCode := fun hone => by
      rw [Dev.faultActive_eq, hfaults]
      exact hodd hone
    dock := by
      have hdkc : f.cleActivate.dkc = k := by rw [he, ← hfdkc]
      rw [hdkc, hk, hxbdu]
    bdu := ⟨l, by rw [he, ← hfbdu]⟩
    stop := fun hs => ⟨hactive _ (hlocal hs).1, hhold (hlocal hs).2⟩
    low := fun hs => ⟨hactive _ (hlow hs).1, hhold (hlow hs).2⟩ }

end

/-- The items that each block keeps from its activation on (R195). -/
theorem Dev.enterListen_items (d : Dev) : let e := d.enterListen
    e.btl = { d.btl with phase := .done, blockTimer := none }
      ∧ (e.lif.active = true ∧ e.lif.awaitIdle = true ∧ e.lif.lfsr = BitVec.ofNat 16 d.station
        ∧ e.lif.beaconTimer = d.timerMs d.tmp.plan.beaconPeriod ∧ e.lif.quietTimer = d.timerMs d.tmp.plan.quietTime)
      ∧ (e.odo.active = true ∧ e.odo.sampleTimer = d.timerMs Config.sampleMs)
      ∧ (e.sup.evalTimer = d.timerMs Config.evaluationMs ∧ e.sup.aEff = d.tmp.carriage.serviceDecel)
      ∧ e.dkc.active = true
      ∧ (e.bdu.active = true ∧ e.bdu.srcDriveNotReady = !d.bdu.inDriveReady
        ∧ e.bdu.srcLocalStop = (d.bdu.inLocalStop || d.bdu.srcLocalStop)) := by
  have hstill := d.enterListen_still
  generalize d.enterListen = e at hstill ⊢
  have hlif := congrArg Dev.lif hstill
  have hbdu := congrArg Dev.bdu hstill
  have hodo := congrArg Dev.odo hstill
  have hsup := congrArg Dev.sup hstill
  exact ⟨(congrArg Dev.btl hstill :), ⟨(congrArg Lif.active hlif :), (congrArg Lif.awaitIdle hlif :), (congrArg Lif.lfsr hlif :),
    (congrArg Lif.beaconTimer hlif :), (congrArg Lif.quietTimer hlif :)⟩, ⟨(congrArg Odo.active hodo :), (congrArg Odo.sampleTimer hodo :)⟩,
    ⟨(congrArg Sup.evalTimer hsup :), (congrArg Sup.aEff hsup :)⟩, (congrArg (fun z : Dev => z.dkc.active) hstill :),
    (congrArg Bdu.active hbdu :), (congrArg Bdu.srcDriveNotReady hbdu :), (congrArg Bdu.srcLocalStop hbdu :)⟩

/-- Settles O5: each block's activation in turn, the raises of each leaving what the others set. -/
theorem entryIntoListenActivatesTheBlocks : Obligations.EntryIntoListenActivatesTheBlocks := by
  intro d t b e hstc hcle _ _ hlif hpeers hpos _ hbdu hkind hlen htol ones there hroom
  have hones : codeOnes d.odo.padLines = ones := codeOnes_eq _
  have hthere : ∀ p, d.startsAt p ↔ there p := fun p => by rw [Dev.startsAt, hones]
  obtain ⟨⟨hheld, -⟩, hlatch, hbrake⟩ := b.atStart_activated
  have hb : d.bdu.activated = b.atStart.activated := congrArg Bdu.activated hbdu
  have hentered := Dev.enterListen_entered ⟨hstc, hcle, hlif, hpeers, hpos, hbdu, hkind, hlen⟩ htol fun p hp => hroom p ((hthere p).mp hp)
  obtain ⟨hbtl, ⟨hlactive, hawait, hlfsr, hbeacon, hquiet⟩, ⟨hoactive, hsample⟩, ⟨heval, haeff⟩, hkactive, hbactive, hready, hlocal⟩ :=
    d.enterListen_items
  obtain ⟨l, hebdu⟩ := hentered.bdu
  have hsub := hentered.dock
  rw [hb] at hebdu hsub
  obtain ⟨hstate, htimer⟩ := hentered.state
  have hsource : e.bdu.srcLocalStop = b.inLocalStop := by
    refine hlocal.trans ?_
    rw [hbdu]
    exact Bool.or_false _
  have hsub' : e.dkc.sub = if b.inClampsDown = true ∧ b.inClampsUp = false then .clamped else .idle := by
    refine hsub.trans ?_
    rw [hheld, Bdu.clampsHeld]
    cases b.inClampsDown <;> cases b.inClampsUp <;> rfl
  have hbrake' : e.bdu.serviceBrake = true ↔ b.inLocalStop = true ∨ b.inDriveReady = false ∨ b.inSupplyLow = true := by
    show d.enterListen.bdu.serviceBrake = true ↔ _
    rw [hebdu]
    show b.atStart.activated.serviceBrake = true ↔ _
    rw [hbrake]
    simp only [Bool.or_eq_true, Bool.not_eq_true', or_assoc]
  have hlatch' : e.bdu.latchSupplyLow = b.inSupplyLow := by
    show d.enterListen.bdu.latchSupplyLow = _
    rw [hebdu]
    exact hlatch
  exact ⟨hstate, htimer, hbtl, hlactive, hawait, hlfsr, hbeacon, hquiet, hentered.faults, hoactive, hsample,
    fun p hp => hentered.there p ((hthere p).mpr hp), fun hno => hentered.unplaced fun p hp => hno p ((hthere p).mp hp),
    fun h => hentered.padCode ((congrArg (· % 2) hones).trans h), heval, haeff, hkactive, hsub', hbactive, hready, hsource, hlatch',
    hentered.stop, hentered.low, hbrake'⟩

end Sys2Proof.Machine

/-! SUPPORT. What an examination may give back within an event: HELD entries off the footprint, each of them announced at the event's end
(R66, R75 to R77, R81). -/

namespace Sys2Proof.Machine

/-- From `d` to `e` nothing has become HELD, every HELD entry under the footprint has stayed, those that went are gathered, and at most
`n` frames have been queued. -/
structure Dev.Retreats (n : Nat) (d e : Dev) : Prop where
  apart : d.claimsApart e
  kept : ∀ x ∈ d.cle.table, x.isHeld = true → d.underOwn x.sec = true → x ∈ e.cle.table
  held : ∀ x ∈ e.cle.table, x.isHeld = true → x ∈ d.cle.table
  gathered : ∃ l₀ l, d.cle.gathering = some l₀ ∧ e.cle.gathering = some (l₀ ++ l)
    ∧ (∀ m ∈ l, ∃ x ∈ d.cle.table, d.outside x = true ∧ x.sec = m)
    ∧ ∀ x ∈ d.cle.table, x.isHeld = true → x ∉ e.cle.table → x.sec ∈ l
  adds : Dev.adds n d e

namespace Dev.Retreats
variable {d e f : Dev} {n m sec : Nat}

theorem under (h : d.claimsApart e) : e.underOwn = d.underOwn ∧ e.outside = d.outside := by
  obtain ⟨_, _, _, _, _, rfl, -⟩ := h
  exact ⟨rfl, rfl⟩

/-- Nothing of the table and of what is gathered has changed. -/
theorem of_same {l : List Nat} (hg : d.cle.gathering = some l) (ha : d.claimsApart e) (ht : e.cle.table = d.cle.table)
    (hg' : e.cle.gathering = d.cle.gathering) (hadds : Dev.adds n d e) : d.Retreats n e :=
  ⟨ha, fun x hx _ _ => ht ▸ hx, fun x hx _ => ht ▸ hx, ⟨l, [], hg, by rw [hg', hg, List.append_nil], fun _ h => absurd h List.not_mem_nil,
    fun x hx _ hno => absurd (ht ▸ hx) hno⟩, hadds⟩

theorem refl {l : List Nat} (hg : d.cle.gathering = some l) : d.Retreats 0 d := of_same hg d.claimsApart_refl rfl rfl (Dev.adds.refl d)

theorem mono (h : d.Retreats n e) (hle : n ≤ m) : d.Retreats m e := ⟨h.apart, h.kept, h.held, h.gathered, h.adds.mono hle⟩

theorem trans (h : d.Retreats n e) (h' : e.Retreats m f) : d.Retreats (n + m) f := by
  obtain ⟨hunder, houtside⟩ := under h.apart
  obtain ⟨l₀, l, hd, he, hl, hgone⟩ := h.gathered
  obtain ⟨l₀', l', he', hf, hl', hgone'⟩ := h'.gathered
  obtain rfl : l₀ ++ l = l₀' := Option.some.inj (he.symm.trans he')
  refine ⟨?_, fun x hx hheld hu => h'.kept x (h.kept x hx hheld hu) hheld (by rw [hunder]; exact hu),
    fun x hx hheld => h.held x (h'.held x hx hheld) hheld, ⟨l₀, l ++ l', hd, by rw [hf, List.append_assoc], fun k hk => ?_, fun x hx hheld hno => ?_⟩,
    h.adds.trans h'.adds⟩
  · obtain ⟨_, _, _, _, _, rfl, hfs⟩ := h.apart
    obtain ⟨_, _, _, _, _, rfl, hfs'⟩ := h'.apart
    exact ⟨_, _, _, _, _, rfl, fun k hk => (hfs' k hk).trans (hfs k hk)⟩
  · obtain hk | hk := List.mem_append.mp hk
    · exact hl k hk
    · obtain ⟨x, hx, ho, hs⟩ := hl' k hk
      rw [houtside] at ho
      exact ⟨x, h.held x hx (Bool.and_eq_true_iff.mp ho).1, ho, hs⟩
  · by_cases hxe : x ∈ e.cle.table
    · exact List.mem_append_right _ (hgone' x hxe hheld hno)
    · exact List.mem_append_left _ (hgone x hx hheld hxe)

theorem sameButDeadlock {l : List Nat} (hg : d.cle.gathering = some l) (ha : d.claimsApart e) (hs : d.sameButDeadlock e) : d.Retreats 0 e :=
  of_same hg ha hs.table hs.gathering (Dev.adds.of_lif hs.lif)

theorem tidyDeadlock {l : List Nat} (hg : d.cle.gathering = some l) : d.Retreats 0 d.tidyDeadlock :=
  sameButDeadlock hg ((claimWork_apart d).tidyDeadlock d.claimsApart_refl) (Dev.sameButDeadlock.tidyDeadlock d)

theorem gathering (h : d.Retreats n e) : ∃ l, e.cle.gathering = some l := by
  obtain ⟨_, _, _, he, -⟩ := h.gathered
  exact ⟨_, he⟩

/-- The step followed by the end of a DEADLOCK that its front entry has left. -/
theorem tidied (h : d.Retreats n e) : d.Retreats n e.tidyDeadlock := by
  obtain ⟨_, hg⟩ := h.gathering
  exact h.trans (tidyDeadlock hg)

/-- A section with no HELD entry gets another entry that is not HELD. -/
theorem updateClaim {l : List Nat} {g : Claim → Claim} (hg : d.cle.gathering = some l) (hs : d.cle.holds sec = false)
    (hopen : ∀ x, (g x).isHeld = false) : d.Retreats 0 (d.updateClaim sec g) := by
  have hno : ∀ x ∈ d.cle.table, x.isHeld = true → x.sec ≠ sec := fun x hx hheld hsec =>
    List.any_eq_false.mp hs x hx (by simp [hsec, hheld])
  have hstays : ∀ x ∈ d.cle.table, x.isHeld = true → x ∈ (d.updateClaim sec g).cle.table := fun x hx hheld =>
    List.mem_map.mpr ⟨x, hx, if_neg (hno x hx hheld)⟩
  refine ⟨(claimWork_apart d).updateClaim _ _ d.claimsApart_refl, fun x hx hheld _ => hstays x hx hheld, fun x hx hheld => ?_,
    ⟨l, [], hg, by rw [List.append_nil]; exact hg, fun _ h => absurd h List.not_mem_nil, fun x hx hheld hno => absurd (hstays x hx hheld) hno⟩,
    Dev.adds.of_lif rfl⟩
  obtain ⟨y, hy, rfl⟩ := List.mem_map.mp hx
  split at hheld
  · rw [hopen] at hheld
    exact absurd hheld Bool.false_ne_true
  · next h =>
    rw [if_neg h]
    exact hy

/-- Entries dropped that are not HELD (R63, R66). -/
theorem dropClaims {l : List Nat} {p : Claim → Bool} (hg : d.cle.gathering = some l) (hp : ∀ x ∈ d.cle.table, p x = true → x.isHeld = false) :
    d.Retreats 0 (d.dropClaims p) := by
  have htable : (d.dropClaims p).cle.table = d.cle.table.filter (fun x => !p x) := by
    rw [Dev.dropClaims, Dev.tidyDeadlock_table]
    simp only [Dev.foldl_abandon_cle]
  have hgathering : (d.dropClaims p).cle.gathering = some l := by
    rw [Dev.dropClaims, Dev.tidyDeadlock_gathering]
    exact (congrArg Cle.gathering (Dev.foldl_abandon_cle (d.cle.table.filter p) d)).trans hg
  have hstays : ∀ x ∈ d.cle.table, x.isHeld = true → x ∈ (d.dropClaims p).cle.table := fun x hx hheld => by
    rw [htable]
    refine List.mem_filter.mpr ⟨hx, ?_⟩
    cases hpx : p x with
    | false => rfl
    | true => rw [hp x hx hpx] at hheld; exact absurd hheld Bool.false_ne_true
  refine ⟨(claimWork_apart d).dropClaims p d.claimsApart_refl, fun x hx hheld _ => hstays x hx hheld, fun x hx _ => ?_,
    ⟨l, [], hg, by rw [hgathering, List.append_nil], fun _ h => absurd h List.not_mem_nil, fun x hx hheld hno => absurd (hstays x hx hheld) hno⟩,
    Dev.adds.dropClaims d p⟩
  rw [htable] at hx
  exact List.mem_of_mem_filter hx

/-- HELD entries off the footprint given back (R81). -/
theorem releaseClaims {l : List Nat} {p : Claim → Bool} (hg : d.cle.gathering = some l)
    (hp : ∀ x ∈ d.cle.table, x.isHeld = true → p x = true → d.underOwn x.sec = false) : d.Retreats 0 (d.releaseClaims p) := by
  let gone : Claim → Bool := fun x => x.isHeld && p x
  let x : Dev := { d with cle := { d.cle with
    table := d.cle.table.filter (fun x => !gone x), gathering := some (l ++ (d.cle.table.filter gone).map (·.sec)) } }
  have hrelease : d.releaseClaims p = x.tidyDeadlock := by
    unfold Dev.releaseClaims Dev.announceRelease
    simp only [hg]
    rfl
  have hstep : d.Retreats 0 x := by
    refine ⟨(claimWork_apart d).cle _ d.claimsApart_refl, fun y hy hheld hu => ?_, fun y hy _ => List.mem_of_mem_filter hy,
      ⟨l, _, hg, rfl, fun m hm => ?_, fun y hy hheld hno => ?_⟩, Dev.adds.of_lif rfl⟩
    · refine List.mem_filter.mpr ⟨hy, ?_⟩
      cases hpy : p y with
      | false => simp [gone, hpy]
      | true => rw [hp y hy hheld hpy] at hu; exact absurd hu Bool.false_ne_true
    · obtain ⟨y, hy, rfl⟩ := List.mem_map.mp hm
      obtain ⟨hy, hgone⟩ := List.mem_filter.mp hy
      obtain ⟨hheld, hpy⟩ := Bool.and_eq_true_iff.mp hgone
      exact ⟨y, hy, by simp [Dev.outside, hheld, hp y hy hheld hpy], rfl⟩
    · refine List.mem_map_of_mem (List.mem_filter.mpr ⟨hy, ?_⟩)
      cases hgone : gone y with
      | true => rfl
      | false => exact absurd (List.mem_filter.mpr ⟨hy, by simp [hgone]⟩) hno
  rw [hrelease]
  exact hstep.tidied

/-- A surrender spares what is HELD under the footprint (R75, R77, log 16). -/
theorem surrenderFrom {l : List Nat} (hg : d.cle.gathering = some l) (k : Nat) : d.Retreats 0 (d.surrenderFrom k) := by
  let open' : Claim → Claim := fun x => { x with state := .wanted false, points := .unrequested, pointsTimer := none, rerequestTimer := none }
  let y : Dev := (d.cle.table.filter (d.yields k)).foldl Dev.abandon d
  let x : Dev := { y with cle := { d.cle with
    table := d.cle.table.map (fun x => if d.yields k x then open' x else x)
    gathering := some (l ++ (d.cle.table.filter (fun x => x.isHeld && d.yields k x)).map (·.sec)) } }
  have hcle : y.cle = d.cle := Dev.foldl_abandon_cle ..
  have hapart : d.claimsApart y := foldl_keeps (fun z c hz => (claimWork_apart d).abandon c hz) _ _ d.claimsApart_refl
  have hadds : Dev.adds 0 d y := Dev.adds.foldl_abandon ..
  have hsurrender : d.surrenderFrom k = x.tidyDeadlock := by
    have hy : (d.cle.table.filter (d.yields k)).foldl Dev.abandon d = y := rfl
    unfold Dev.surrenderFrom Dev.announceRelease
    simp only [hy, hcle, hg]
    rfl
  have hyields : ∀ z : Claim, z.isHeld = true → d.yields k z = true → d.underOwn z.sec = false := fun z hheld hz => by
    simp only [Dev.yields, hheld, Bool.true_and, Bool.and_eq_true, Bool.not_eq_true'] at hz
    exact hz.2
  have hstep : d.Retreats 0 x := by
    refine ⟨(claimWork_apart d).cle _ hapart, fun z hz hheld hu => List.mem_map.mpr ⟨z, hz, if_neg fun hy => ?_⟩, fun z hz hheld => ?_,
      ⟨l, _, hg, rfl, fun m hm => ?_, fun z hz hheld hno => ?_⟩, hadds.to_lif rfl⟩
    · rw [hyields z hheld hy] at hu
      exact absurd hu Bool.false_ne_true
    · obtain ⟨w, hw, rfl⟩ := List.mem_map.mp hz
      split at hheld
      · exact absurd hheld Bool.false_ne_true
      · next h =>
        rw [if_neg h]
        exact hw
    · obtain ⟨z, hz, rfl⟩ := List.mem_map.mp hm
      obtain ⟨hz, hgone⟩ := List.mem_filter.mp hz
      obtain ⟨hheld, hy⟩ := Bool.and_eq_true_iff.mp hgone
      exact ⟨z, hz, by simp [Dev.outside, hheld, hyields z hheld hy], rfl⟩
    · refine List.mem_map_of_mem (List.mem_filter.mpr ⟨hz, ?_⟩)
      cases hy : d.yields k z with
      | true => rw [hheld]; rfl
      | false =>
        have hstays : z ∈ x.cle.table := List.mem_map.mpr ⟨z, hz, if_neg (Bool.eq_false_iff.mp hy)⟩
        exact absurd hstays hno
  rw [hsurrender]
  exact hstep.tidied

theorem bump {l : List Nat} (hg : d.cle.gathering = some l) (c : Counter) : d.Retreats 0 (d.bump c) :=
  of_same hg ((claimWork_apart d).bump c d.claimsApart_refl) rfl rfl (Dev.adds.of_lif rfl)

theorem raiseLoss {l : List Nat} (hg : d.cle.gathering = some l) : d.Retreats 0 d.raiseLoss :=
  of_same hg ((claimWork_apart d).cle _ d.claimsApart_refl) rfl rfl (Dev.adds.of_lif rfl)

theorem endDeadlock {l : List Nat} (hg : d.cle.gathering = some l) : d.Retreats 0 d.endDeadlock :=
  of_same hg ((claimWork_apart d).endDeadlock d.claimsApart_refl) (by rw [Dev.endDeadlock_cle]) (by rw [Dev.endDeadlock_cle])
    (Dev.adds.of_lif d.endDeadlock_lif)

/-- DEADLOCK raised queues its report at most (R77, R183). -/
theorem raiseDeadlock {l : List Nat} (hg : d.cle.gathering = some l) (p : Nat) :
    d.Retreats 1 (({ d with cle := { d.cle with deadlock := some p } } : Dev).raise .deadlock) := by
  let x : Dev := { d with cle := { d.cle with deadlock := some p } }
  have hcle : (x.raise .deadlock).cle = x.cle := by
    rw [Dev.raise_of_warn rfl]
    exact (x.enterFault_claims _).1
  have hadds : Dev.adds 1 d (x.raise .deadlock) := by
    rw [Dev.raise_of_warn rfl]
    obtain ⟨_, _, _, heq, -⟩ := x.enterFault_changes .deadlock
    rw [heq]
    split
    · exact ⟨by rw [Lif.place_eq], (Lif.place_length ..).le, fun y hy _ => by
        rw [Lif.place_queue, mem_insertSorted]
        exact .inr hy⟩
    · exact ⟨rfl, Nat.le_succ _, fun _ hy _ => hy⟩
  refine of_same hg ((claimWork_apart d).raiseDeadlock ((claimWork_apart d).cle _ d.claimsApart_refl)) ?_ ?_ hadds
  · exact (congrArg Cle.table hcle :)
  · exact (congrArg Cle.gathering hcle :)

/-- A mutual-wait yield of a HELD entry off the footprint (R77). -/
theorem mutualYield {l : List Nat} {t : Claim} (hok : d.cle.ok) (hg : d.cle.gathering = some l) (ht : t ∈ d.cle.table)
    (hu : d.underOwn t.sec = false) (p : Nat) : d.Retreats 0 (d.mutualYield t p) := by
  unfold Dev.mutualYield
  split
  · have hreleased : d.Retreats 0 (d.releaseClaims (fun e => e.sec == t.sec)) := releaseClaims hg fun x _ _ hs => by
      rw [beq_iff_eq.mp hs]
      exact hu
    obtain ⟨l', hg'⟩ := hreleased.gathering
    exact (hreleased.trans (raiseLoss hg')).trans (bump (d := (d.releaseClaims _).raiseLoss) hg' _)
  · next k hk =>
    have hsurrendered := surrenderFrom hg k
    obtain ⟨l', hg'⟩ := hsurrendered.gathering
    have hended : d.Retreats 0 ((d.surrenderFrom k).raiseLoss.bump .mutualYields).endDeadlock :=
      ((hsurrendered.trans (raiseLoss hg')).trans (bump (d := (d.surrenderFrom k).raiseLoss) hg' _)).trans
        (endDeadlock (d := (d.surrenderFrom k).raiseLoss.bump .mutualYields) hg')
    have hopen : ((d.surrenderFrom k).raiseLoss.bump .mutualYields).endDeadlock.cle.holds t.sec = false := by
      have htable : ((d.surrenderFrom k).raiseLoss.bump .mutualYields).endDeadlock.cle.table = (d.surrenderFrom k).cle.table := by
        rw [Dev.endDeadlock_cle]
        rfl
      unfold Cle.holds
      rw [htable]
      exact Dev.surrenderFrom_holds fun e he hs => by
        rw [Cle.sec_inj hok he ht hs, Dev.yields, Claim.fromIdx, hk, hu]
        simp
    obtain ⟨l'', hg''⟩ := hended.gathering
    simp only
    split
    · exact hended.trans (updateClaim hg'' hopen fun _ => rfl)
    · exact hended

theorem waitedEntry_mem {p : Nat} {t : Claim} (h : d.waitedEntry p = some t) : t ∈ d.cle.table := by
  unfold Dev.waitedEntry at h
  obtain ⟨r, -, h⟩ := Option.bind_eq_some_iff.mp h
  obtain ⟨w, -, h⟩ := Option.bind_eq_some_iff.mp h
  split at h
  · exact List.mem_of_find?_eq_some h
  · cases h

/-- The examination for a mutual wait gives back nothing under the footprint (R76, R77). -/
theorem examineMutual {l : List Nat} (hok : d.cle.ok) (hg : d.cle.gathering = some l) : d.Retreats 1 d.examineMutual := by
  unfold Dev.examineMutual
  split
  · next p b _ _ =>
    have hother : d.Retreats 0 (if d.cle.deadlock.any (fun q => q != p) then d.endDeadlock else d)
        ∧ (if d.cle.deadlock.any (fun q => q != p) then d.endDeadlock else d).cle.ok := by
      split
      · exact ⟨endDeadlock hg, Cle.ok_same (c := d.cle) d.endDeadlock_table (.inl (by rw [Dev.endDeadlock_cle])) hok⟩
      · exact ⟨refl hg, hok⟩
    simp only
    generalize (if d.cle.deadlock.any (fun q => q != p) then d.endDeadlock else d) = x at hother ⊢
    obtain ⟨hx, hokx⟩ := hother
    obtain ⟨l', hgx⟩ := hx.gathering
    have hsame : d.Retreats 1 x := hx.mono (Nat.zero_le _)
    split
    · split
      · exact (hx.trans (endDeadlock hgx)).mono (Nat.zero_le _)
      · exact hsame
    · next t ht =>
      have htm : t ∈ x.cle.table := by
        split at ht
        · cases ht
        · exact waitedEntry_mem ht
      split
      · exact hsame
      · split
        · exact (hx.trans (raiseDeadlock hgx p)).mono (by omega)
        · next hu =>
          split
          · exact (hx.trans (mutualYield hokx hgx htm (Bool.eq_false_iff.mpr hu) p)).mono (Nat.zero_le _)
          · exact hsame
  · exact (refl hg).mono (Nat.zero_le _)

theorem front_unheld {c : Claim} (hc : d.cle.front = some c) : c.isHeld = false := by
  have hopen := (Cle.front_eq_some.mp hc).1
  simp only [Claim.isOpen, Bool.and_eq_true, Bool.not_eq_true'] at hopen
  exact hopen.2

theorem front_open {c : Claim} (hok : d.cle.ok) (hc : d.cle.front = some c) : d.cle.holds c.sec = false := by
  rw [Cle.holds_eq hok, Cle.entry_front hok hc]
  exact front_unheld hc

/-- The front entry contends, its INTENT queued at most (R67). -/
theorem contend {l : List Nat} {c : Claim} (hok : d.cle.ok) (hg : d.cle.gathering = some l) (hc : d.cle.front = some c) :
    d.Retreats 1 (d.contend c) := by
  let x : Dev := ({ d with cle := { d.cle with nextTag := d.cle.nextTag + 1 } } : Dev).bump .contentionsStarted
  let y := (x.enqueue .intent 0 (ticketPayload c.sec d.currentTicket) (some d.cle.nextTag)).1
  have hcle : y.cle = { d.cle with nextTag := d.cle.nextTag + 1 } := Dev.enqueue_cle ..
  have hapart : d.claimsApart y := (claimWork_apart d).enqueue _ _ _ _ ((claimWork_apart d).bump _ ((claimWork_apart d).cle _ d.claimsApart_refl))
  have hy : d.Retreats 1 y := of_same hg hapart (by rw [hcle]) (by rw [hcle]) ((Dev.adds.enqueue x _ _ _ _).from_lif rfl)
  have hgy : y.cle.gathering = some l := by rw [hcle]; exact hg
  have hopen : y.cle.holds c.sec = false := by
    rw [hcle]
    exact front_open hok hc
  unfold Dev.contend
  refine ite_keeps (P := d.Retreats 1) (fun _ => hy.trans (updateClaim hgy hopen fun _ => rfl)) (fun _ => ?_)
  exact (hy.trans (updateClaim hgy hopen fun _ => rfl)).trans (bump (d := y.updateClaim _ _) hgy _)

/-- An examination of the front entry (R66). -/
theorem examineFront {l : List Nat} (hok : d.cle.ok) (hg : d.cle.gathering = some l) : d.Retreats 1 d.examineFront := by
  unfold Dev.examineFront
  split
  · exact (tidyDeadlock hg).mono (Nat.zero_le _)
  · next c hc =>
    have hopen := front_open hok hc
    have hmem := Cle.front_mem hc
    split
    · refine (dropClaims hg fun x hx hs => ?_).mono (Nat.zero_le _)
      rw [Cle.sec_inj hok hx hmem (beq_iff_eq.mp hs)]
      exact front_unheld hc
    · split
      · exact ((updateClaim hg hopen fun _ => rfl).tidied).mono (Nat.zero_le _)
      · have hsame : d.Retreats 1 d := (refl hg).mono (Nat.zero_le _)
        have hfound : d.Retreats 1 (match d.blocked c.sec with
            | some (p, b) =>
              if c.state = .blocked p b none then d
              else (d.updateClaim c.sec (fun e => { e with state := .blocked p b none })).examineMutual
            | none => (d.contend c).tidyDeadlock) := by
          split
          · next p b _ =>
            split
            · exact hsame
            · have hok' : (d.updateClaim c.sec (fun e => { e with state := .blocked p b none })).cle.ok :=
                Cle.ok_front hc (fun _ => rfl) (fun _ => rfl) rfl hok
              exact ((updateClaim hg hopen fun _ => rfl).trans (examineMutual hok' hg)).mono (by omega)
          · exact (contend hok hg hc).tidied
        split
        · exact hsame
        · exact hsame
        · exact hsame
        · exact hfound
        · exact hfound

theorem refront {l : List Nat} (hok : d.cle.ok) (hg : d.cle.gathering = some l) (old : Option (Option Nat)) : d.Retreats 1 (d.refront old) :=
  ite_keeps (P := d.Retreats 1) (fun _ => examineFront hok hg) (fun _ => (refl hg).mono (Nat.zero_le _))

end Dev.Retreats

end Sys2Proof.Machine

/-! SUPPORT. A conflict that brings the station to SAFE-STOP within the footprint check (R62, R80, R152, R158). -/

namespace Sys2Proof.Machine

section
variable {d e : Dev} {x : Covered}

/-! ### The entry marked before a conflict is raised -/

/-- The part `e`, in which the section's entry is HELD and no frame is queued for it yet. -/
structure Dev.Marks (d e : Dev) (x : Covered) : Prop where
  apart : d.claimsApart e
  cle : ∃ t dl, e.cle = { d.cle with table := t, deadlock := dl }
  ok : e.cle.ok
  others : ∀ n, n ≠ x.sec → e.cle.entry n = d.cle.entry n
  entry : ∃ c, e.cle.entry x.sec = some c ∧ c.isHeld = true ∧ (∀ y, d.cle.entry x.sec = some y → c.legNeeded = y.legNeeded)
    ∧ (d.cle.entry x.sec = none → c.legNeeded = (d.joining x).legNeeded)
  length : e.cle.table.length = d.cle.table.length + (d.cle.entry x.sec).isNone.toNat
  secs : ∀ p : Nat → Bool, p x.sec = false → (e.cle.table.map (·.sec)).filter p = (d.cle.table.map (·.sec)).filter p
  adds : Dev.adds 0 d e
  step : d.checkCovered x = ((e.judgeConflict x.sec).announceTaken x.sec d.occupancyTicket).afterHeld x.sec

/-- Marking an entry of the table. -/
theorem Dev.Marks.of_entry {c : Claim} (hok : d.cle.ok) (hknown : d.odo.known = true) (hc : d.cle.entry x.sec = some c) (hheld : c.isHeld = false) :
    d.Marks (d.markOccupied c) x := by
  have hsec : c.sec = x.sec := (Cle.entry_mem hc).2
  obtain ⟨hapart, ⟨dl, -, hcle⟩, -, hadds⟩ := d.markOccupied_marks c
  let f : Claim → Claim := fun e => { e with state := .held .occupancy d.occupancyTicket }
  have hcle' : (d.markOccupied c).cle = { d.cle.update x.sec f with deadlock := dl } := by rw [hcle, hsec]
  refine ⟨hapart, ⟨_, dl, by rw [hcle']; rfl⟩, ?_, fun n hn => ?_, ⟨f c, ?_, rfl, fun y hy => ?_, fun hn => absurd (hn.symm.trans hc) (Option.some_ne_none c).symm⟩,
    ?_, fun p _ => ?_, hadds, ?_⟩
  · rw [hcle']
    exact Cle.ok_same (c := d.cle.update x.sec f) rfl (.inl le_rfl) (Cle.ok_hold x.sec (fun _ => rfl) (fun _ => rfl) (fun _ => rfl) hok)
  · rw [hcle']
    exact Cle.entry_update_ne (c := d.cle) (f := f) (fun _ => rfl) hn
  · rw [hcle']
    exact Cle.entry_update (c := d.cle) (f := f) (fun _ => rfl) hc
  · rw [Option.some.inj (hy.symm.trans hc)]
  · rw [hcle', hc]
    exact List.length_map _
  · rw [hcle']
    exact congrArg (List.filter p) (Cle.update_secs d.cle x.sec (g := f) fun _ => rfl)
  · unfold Dev.checkCovered
    rw [if_neg (by simp [hknown]), hc]
    exact (if_neg (by simp [hheld])).trans (Dev.occupy_eq hc)

/-- Marking an entry that joins. -/
theorem Dev.Marks.of_none (hok : d.cle.ok) (hknown : d.odo.known = true) (hc : d.cle.entry x.sec = none)
    (hroom : d.cle.table.length < Config.maxClaims) : ∃ e, d.Marks e x := by
  obtain ⟨a, b, hab, hinsert⟩ := Cle.insert_splits hok (placeIn d.trackOrder) (d.joinedAs x) hroom hc
  let d1 : Dev := { d with cle := { d.cle with table := a ++ d.joinedAs x :: b } }
  have hok1 : d1.cle.ok := by
    have h := Cle.ok_insertHeld (placeIn d.trackOrder) (d.joinedAs x) rfl hok
    rwa [hinsert] at h
  have hentry : d1.cle.entry x.sec = some (d.joinedAs x) :=
    Cle.entry_of_mem (c := d.joinedAs x) hok1 (List.mem_append_right a (List.mem_cons_self ..))
  have hothers : ∀ n, n ≠ x.sec → d1.cle.entry n = d.cle.entry n := fun n hn => by
    have hne : ((d.joinedAs x).sec == n) = false := beq_false_of_ne hn.symm
    show (a ++ d.joinedAs x :: b).find? _ = d.cle.table.find? _
    rw [hab, List.find?_append, List.find?_append, List.find?_cons_of_neg (by rw [hne]; exact Bool.false_ne_true)]
  obtain ⟨hapart, ⟨dl, -, hcle⟩, -, hadds⟩ := d1.markOccupied_marks (d.joinedAs x)
  let f : Claim → Claim := fun e => { e with state := .held .occupancy d.occupancyTicket }
  have hcle' : (d1.markOccupied (d.joinedAs x)).cle = { d1.cle.update x.sec f with deadlock := dl } := hcle
  refine ⟨d1.markOccupied (d.joinedAs x), ?_, ⟨_, dl, by rw [hcle']; rfl⟩, ?_, fun n hn => ?_,
    ⟨f (d.joinedAs x), ?_, rfl, fun y hy => absurd (hc.symm.trans hy) (Option.some_ne_none y).symm, fun _ => rfl⟩, ?_, fun p hp => ?_, ?_, ?_⟩
  · obtain ⟨_, _, _, _, _, heq, hfs⟩ := hapart
    exact ⟨_, _, _, _, _, heq, hfs⟩
  · rw [hcle']
    exact Cle.ok_same (c := d1.cle.update x.sec f) rfl (.inl le_rfl) (Cle.ok_hold x.sec (fun _ => rfl) (fun _ => rfl) (fun _ => rfl) hok1)
  · rw [hcle']
    exact (Cle.entry_update_ne (c := d1.cle) (f := f) (fun _ => rfl) hn).trans (hothers n hn)
  · rw [hcle']
    exact Cle.entry_update (c := d1.cle) (f := f) (fun _ => rfl) hentry
  · rw [hcle', hc]
    show (List.map _ (a ++ d.joinedAs x :: b)).length = _
    rw [List.length_map, hab, List.length_append, List.length_append, List.length_cons]
    rfl
  · rw [hcle']
    refine (congrArg (List.filter p) (Cle.update_secs d1.cle x.sec (g := f) fun _ => rfl)).trans ?_
    show ((a ++ d.joinedAs x :: b).map (·.sec)).filter p = (d.cle.table.map (·.sec)).filter p
    have hneg : ¬p (d.joinedAs x).sec = true := by
      rw [show p (d.joinedAs x).sec = p x.sec from rfl, hp]
      exact Bool.false_ne_true
    rw [hab, List.map_append, List.map_append, List.map_cons, List.filter_append, List.filter_append, List.filter_cons_of_neg hneg]
  · exact hadds.from_lif rfl
  · have hjoin : d.joinOccupied x = d1.occupy x.sec := congrArg (fun y : Cle => Dev.occupy { d with cle := y } x.sec) hinsert
    unfold Dev.checkCovered
    rw [if_neg (by simp [hknown]), hc]
    exact (if_pos hroom).trans (hjoin.trans (Dev.occupy_eq hentry))

theorem Dev.Marks.exist (hok : d.cle.ok) (hknown : d.odo.known = true) (hopen : d.cle.holds x.sec = false)
    (hroom : d.cle.entry x.sec = none → d.cle.table.length < Config.maxClaims) : ∃ e, d.Marks e x := by
  cases hc : d.cle.entry x.sec with
  | none => exact Dev.Marks.of_none hok hknown hc (hroom hc)
  | some c => exact ⟨_, Dev.Marks.of_entry hok hknown hc (by rw [Cle.holds_eq hok, hc] at hopen; exact hopen)⟩

/-! ### The entry into SAFE-STOP (R80, R158) -/

/-- The part in SAFE-STOP, before CLE takes it (R158). -/
def Dev.stopping (d : Dev) : Dev :=
  (({ d.enterFault .occupancyConflict with stc := { (d.enterFault .occupancyConflict).stc with
    listenTimer := none, remembered := none, stopKind := some .occupancyConflict } } : Dev).enterState .safeStop).bump .entriesSafeStop

theorem Dev.raise_reacting (h : ¬d.deaf) : d.raise .occupancyConflict = (d.enterFault .occupancyConflict).enterSafeStop .occupancyConflict := by
  have hstc : (d.enterFault .occupancyConflict).stc.state = d.stc.state := by
    obtain ⟨_, _, _, heq, -⟩ := d.enterFault_changes .occupancyConflict
    rw [heq]
  unfold Dev.raise Dev.takeRaise
  rw [hstc]
  unfold Dev.deaf at h
  cases hs : d.stc.state <;> simp [hs] at h ⊢ <;> rfl

theorem Dev.stopping_same (d : Dev) : d.stopping.cle = d.cle ∧ d.stopping.odo = d.odo ∧ d.stopping.peers = d.peers ∧ d.stopping.tmp = d.tmp
    ∧ d.stopping.stc.state = .safeStop ∧ d.stopping.stc.order = d.stc.order ∧ d.stopping.stc.abortPending = d.stc.abortPending
    ∧ d.stopping.stc.heldReport = d.stc.heldReport ∧ d.stopping.faultActive .occupancyConflict = true
    ∧ Dev.adds 1 d d.stopping := by
  obtain ⟨fs, b, cs, heq, hin⟩ := d.enterFault_changes .occupancyConflict
  have hactive : kindIn fs .occupancyConflict = true := by rw [hin]; rfl
  have hadds : Dev.adds 1 d (d.enterFault .occupancyConflict) := by
    rw [heq]
    split
    · exact ⟨by rw [Lif.place_eq], (Lif.place_length ..).le, fun y hy _ => by
        rw [Lif.place_queue, mem_insertSorted]
        exact .inr hy⟩
    · exact ⟨rfl, Nat.le_succ _, fun _ hy _ => hy⟩
  generalize hy : ({ d.enterFault .occupancyConflict with stc := { (d.enterFault .occupancyConflict).stc with
    listenTimer := none, remembered := none, stopKind := some .occupancyConflict } } : Dev) = y
  have hstopping : d.stopping = (y.enterState .safeStop).bump .entriesSafeStop := by rw [← hy]; rfl
  obtain ⟨sup, bdu, k, t, cs', hentered⟩ := y.enterState_changes .safeStop
  have hlif : y.lif = (d.enterFault .occupancyConflict).lif := by rw [← hy]
  have hadds' : Dev.adds 1 d d.stopping := by
    rw [hstopping, hentered]
    obtain ⟨hact, hlen, hstays⟩ := hadds
    rw [← hlif] at hact hlen hstays
    exact ⟨hact, hlen, hstays⟩
  have hfault : d.stopping.faultActive .occupancyConflict = true := by
    rw [hstopping, hentered, ← hy, heq]
    exact hactive
  refine ⟨?_, ?_, ?_, ?_, ?_, ?_, ?_, ?_, hfault, hadds'⟩
  all_goals rw [hstopping, hentered, ← hy, heq]
  all_goals rfl

/-! ### CLE at the entry into SAFE-STOP at standstill (R80) -/

/-- At standstill what is left is HELD and under the footprint, and one RELEASE names what lay off it. -/
theorem Dev.claimsAbort_standing (hok : d.cle.ok) (hs : d.odo.standstill = true) (hk : d.odo.known = true) :
    d.claimsAbort.cle.table = d.cle.table.filter (fun x => x.isHeld && d.underOwn x.sec) ∧ d.claimsAbort.cle.gathering = d.cle.gathering
      ∧ d.claimsAbort.cle.ok ∧ Dev.adds 1 d d.claimsAbort ∧ d.announces d.claimsAbort d.outside := by
  have hdropped := (Dev.Gives.begun d).dropUnheld
  have hretreats : d.gatheringNone.Retreats 0 d.gatheringNone.dropUnheld := Dev.Retreats.dropClaims (l := []) rfl fun x _ hx => by simpa using hx
  have hawaits : d.Gives d.gatheringNone.dropUnheld.abortAwaited { d.cle with abortPending := true } (d.cle.table.filter (fun x => x.isHeld)) [] := by
    obtain ⟨dl, hdl, hcle⟩ := hdropped.cle
    exact hdropped.withCle ⟨dl, hdl, by rw [hcle]⟩
  have hsettled := hawaits.settleAbort rfl hs hk
  have hout : (d.cle.table.filter (fun x => x.isHeld)).filter d.outside = d.cle.table.filter d.outside := by
    rw [List.filter_filter]
    exact List.filter_congr fun x _ => by rw [Dev.outside]; cases x.isHeld <;> cases d.underOwn x.sec <;> rfl
  have hin : (d.cle.table.filter (fun x => x.isHeld)).filter (fun x => !d.outside x) = d.cle.table.filter (fun x => x.isHeld && d.underOwn x.sec) := by
    rw [List.filter_filter]
    exact List.filter_congr fun x _ => by rw [Dev.outside]; cases x.isHeld <;> cases d.underOwn x.sec <;> rfl
  rw [hout, hin] at hsettled
  have hgone := fun n => d.mem_outside d.cle.table n
  let act (d : Dev) : Dev := d.dropUnheld.abortAwaited.settleAbort
  have hact : d.Gives (act d.gatheringNone) _ _ _ := hsettled
  obtain ⟨htable, -, -, hloss, -, hannounced⟩ := hact.ended hok hgone
  have hevent := Dev.event_gives (act := act) hok rfl hact.gathering hgone
  have hadds : Dev.adds 0 d (act d.gatheringNone) := by
    have hif : ((d.gatheringNone.dropUnheld.abortAwaited.cle.abortPending && d.gatheringNone.dropUnheld.abortAwaited.odo.standstill
        && d.gatheringNone.dropUnheld.abortAwaited.odo.known)) = true := by
      rw [hawaits.pending, hawaits.odo, hs, hk]
      rfl
    have hreleased : d.gatheringNone.dropUnheld.abortAwaited.Retreats 0 d.gatheringNone.dropUnheld.abortAwaited.releaseOutside :=
      Dev.Retreats.releaseClaims hawaits.gathering fun x _ _ hx => by simpa using hx
    show Dev.adds 0 d (Dev.settleAbort _)
    unfold Dev.settleAbort
    rw [if_pos hif]
    exact ((hretreats.adds.from_lif (f := d) rfl).trans (hreleased.adds.from_lif (f := d.gatheringNone.dropUnheld) rfl)).to_lif rfl
  have hz : d.claimsAbort = Dev.event act d := rfl
  rw [hz]
  have hokz : (Dev.event act d).cle.ok := Cle.ok_same (c := { d.cle with table := d.cle.table.filter (fun x => x.isHeld && d.underOwn x.sec) }) htable
    (.inl hloss.le) (Cle.ok_filter _ hok)
  refine ⟨htable, ?_, hokz, ?_, hannounced⟩
  · rw [hevent]
    obtain ⟨_, _, _, _, heq⟩ := Dev.sendRelease_changes ({ act d.gatheringNone with
      cle := { (act d.gatheringNone).cle with gathering := d.cle.gathering } } : Dev) ((d.cle.table.filter d.outside).map (·.sec))
    rw [heq]
  · rw [hevent]
    generalize hx : ({ act d.gatheringNone with cle := { (act d.gatheringNone).cle with gathering := d.cle.gathering } } : Dev) = x
    have hlif : x.lif = (act d.gatheringNone).lif := by rw [← hx]
    exact (hadds.to_lif hlif).trans (Dev.adds.sendRelease x _)

theorem Dev.raise_reacting_idle (h : ¬d.deaf) (ho : d.stc.order = none) : d.raise .occupancyConflict = d.stopping.claimsAbort := by
  obtain ⟨-, -, -, -, -, horder, -⟩ := d.stopping_same
  obtain ⟨-, hstc, -⟩ := Dev.claimsApart_frame ((claimWork_apart d.stopping).claimsAbort d.stopping.claimsApart_refl)
  have hnone : d.stopping.claimsAbort.stc.order = none := by rw [hstc, horder, ho]
  rw [Dev.raise_reacting h, Dev.enterSafeStop]
  show (if _ then d.stopping.claimsAbort else if _ then d.stopping.claimsAbort.endOrder .aborted none
    else d.stopping.claimsAbort.endOrder .failed (some .occupancyConflict)) = _
  rw [Dev.endOrder_none hnone, Dev.endOrder_none hnone, ite_self, ite_self]

end

end Sys2Proof.Machine

/-! SUPPORT. The footprint check of a carriage at standstill with no order current, whatever conflict it finds (R58, R62, R80, R158). -/

namespace Sys2Proof.Machine

section
variable {d e f : Dev} {stopped loud : Bool} {n m : Nat}

/-- One RELEASE in the queue of `e` names the entries of `d` that a test takes, in table order (R81). -/
def Dev.releasedIn (d e : Dev) (p : Claim → Bool) : Prop :=
  ∃ y ∈ e.lif.queue, y.kind = .release ∧ y.dest = 0
    ∧ y.payload = BitVec.ofNat 8 ((d.cle.table.filter p).map (·.sec)).length :: ((d.cle.table.filter p).map (·.sec)).map (BitVec.ofNat 8)

theorem Dev.releasedIn.of_adds {p : Claim → Bool} (h : d.releasedIn e p) (hadds : Dev.adds n e f) : d.releasedIn f p := by
  obtain ⟨y, hy, hk, hd, hp⟩ := h
  exact ⟨y, hadds.stays y hy (TxEntry.lasting_of hk (by decide)), hk, hd, hp⟩

/-- What the check of the sections under the footprint leaves at a standing carriage; `stopped` is set where a conflict has brought the
station to SAFE-STOP, and CLE has given back what lay off the footprint already. -/
structure Dev.Checked (stopped : Bool) (n : Nat) (d e : Dev) : Prop where
  frame : e.odo = d.odo ∧ e.peers = d.peers ∧ e.tmp = d.tmp ∧ e.stc.order = d.stc.order
  state : stopped = false → e.stc.state = d.stc.state
  gathering : e.cle.gathering = d.cle.gathering
  ok : e.cle.ok
  kept : ∀ x ∈ d.cle.table, x.isHeld = true → d.underOwn x.sec = true → x ∈ e.cle.table
  outside : stopped = false → ∀ x, d.outside x = true → (x ∈ e.cle.table ↔ x ∈ d.cle.table)
  cleared : stopped = true → ∀ x ∈ e.cle.table, x.isHeld = true ∧ d.underOwn x.sec = true
  unheld : ∀ x ∈ e.cle.table, x.isHeld = false → x ∈ d.cle.table
  adds : Dev.adds n d e
  release : stopped = true → d.cle.table.filter d.outside ≠ [] → d.lif.active = true → d.lif.queue.length + n ≤ 8 → d.releasedIn e d.outside

theorem Dev.Checked.mono (h : d.Checked stopped n e) (hle : n ≤ m) : d.Checked stopped m e :=
  { h with
    adds := h.adds.mono hle
    release := fun hs hne hact hlen => h.release hs hne hact (by omega) }

theorem Dev.underOwn_of_frame (h : e.odo = d.odo ∧ e.peers = d.peers ∧ e.tmp = d.tmp ∧ e.stc.order = d.stc.order) :
    e.underOwn = d.underOwn ∧ e.footprint = d.footprint := by
  obtain ⟨hodo, -, htmp, horder⟩ := h
  have hfoot : e.footprint = d.footprint := by
    unfold Dev.footprint Dev.routeEntries
    rw [hodo, htmp, horder]
  refine ⟨funext fun k => ?_, hfoot⟩
  rw [Dev.underOwn, Dev.underOwn, hodo, hfoot]

theorem Dev.outside_of_under (h : e.underOwn = d.underOwn) : e.outside = d.outside :=
  funext fun x => by rw [Dev.outside, Dev.outside, h]

theorem Dev.takesApart_frame (h : d.takesApart loud e) : e.odo = d.odo ∧ e.peers = d.peers ∧ e.tmp = d.tmp ∧ e.stc.order = d.stc.order := by
  obtain ⟨hodo, hpeers, htmp, -, -, horder, -⟩ := Dev.takesApart_same h
  exact ⟨hodo, hpeers, htmp, horder⟩

/-! ### The check with no station that stops -/

theorem Dev.Covers.mem_held {xs : List Covered} (hok : d.cle.ok) (h : d.Covers loud e xs) {y : Claim} (hy : y ∈ d.cle.table) (hheld : y.isHeld = true) :
    y ∈ e.cle.table := by
  have hentry := Cle.entry_of_mem hok hy
  by_cases hm : y.sec ∈ xs.map (·.sec)
  · obtain ⟨x, hx, hs⟩ := List.mem_map.mp hm
    have hcov := h.covered x hx
    rw [hs, Dev.covered_some (by rw [hs]; exact hentry), if_pos hheld] at hcov
    exact (Cle.entry_mem hcov).1
  · exact (Cle.entry_mem ((h.others _ hm).trans hentry)).1

theorem Dev.Covers.mem_unheld {xs : List Covered} (h : d.Covers loud e xs) {y : Claim} (hy : y ∈ e.cle.table) (hheld : y.isHeld = false) :
    y ∈ d.cle.table ∧ y.sec ∉ xs.map (·.sec) := by
  have hentry := Cle.entry_of_mem h.ok hy
  by_cases hm : y.sec ∈ xs.map (·.sec)
  · obtain ⟨x, hx, hs⟩ := List.mem_map.mp hm
    have hcov := h.covered x hx
    rw [hs, hentry, Option.some.injEq] at hcov
    rw [hcov, d.covered_held x] at hheld
    exact absurd hheld.symm Bool.false_ne_true
  · exact ⟨(Cle.entry_mem ((h.others _ hm).symm.trans hentry)).1, hm⟩

theorem Dev.Covers.mem_other {xs : List Covered} (hok : d.cle.ok) (h : d.Covers loud e xs) {y : Claim} (hs : y.sec ∉ xs.map (·.sec)) :
    y ∈ e.cle.table ↔ y ∈ d.cle.table := by
  have hentry := h.others _ hs
  exact ⟨fun hy => (Cle.entry_mem (hentry.symm.trans (Cle.entry_of_mem h.ok hy))).1,
    fun hy => (Cle.entry_mem (hentry.trans (Cle.entry_of_mem hok hy))).1⟩

theorem Cle.holds_iff {c : Cle} {k : Nat} : c.holds k = true ↔ ∃ y ∈ c.table, y.sec = k ∧ y.isHeld = true := by
  unfold Cle.holds
  simp only [List.any_eq_true, Bool.and_eq_true, beq_iff_eq]

theorem Dev.Covers.holds {xs : List Covered} (hok : d.cle.ok) (h : d.Covers loud e xs) {k : Nat} (hk : d.cle.holds k = true) : e.cle.holds k = true := by
  obtain ⟨y, hy, hs, hheld⟩ := Cle.holds_iff.mp hk
  exact Cle.holds_iff.mpr ⟨y, h.mem_held hok hy hheld, hs, hheld⟩

theorem Dev.Covers.holds_covered {xs : List Covered} (h : d.Covers loud e xs) {k : Nat} (hk : k ∈ xs.map (·.sec)) : e.cle.holds k = true := by
  obtain ⟨x, hx, rfl⟩ := List.mem_map.mp hk
  rw [Cle.holds_eq h.ok, h.covered x hx]
  exact d.covered_held x

/-- A section is off the footprint where it is under none of its places. -/
theorem Dev.outside_sec {x : Claim} (hk : d.odo.known = true) (h : d.outside x = true) : x.sec ∉ d.footprint.places.map (·.sec) := by
  have hno := (Bool.and_eq_true_iff.mp h).2
  rw [Dev.underOwn, hk, Bool.true_and, Bool.not_eq_true'] at hno
  exact fun hm => Bool.false_ne_true (hno.symm.trans ((Footprint.covers_iff ..).mpr hm))

theorem Dev.Covers.checked {xs : List Covered} (hok : d.cle.ok) (hk : d.odo.known = true) (h : d.Covers loud e xs)
    (hsub : xs ⊆ d.footprint.places) (hadds : Dev.adds n d e) : d.Checked false n e where
  frame := Dev.takesApart_frame h.apart
  state _ := (Dev.takesApart_same h.apart).2.2.2.2.1
  gathering := by
    obtain ⟨_, _, -, hcle⟩ := h.cle
    rw [hcle]
  ok := h.ok
  kept _ hx hheld _ := h.mem_held hok hx hheld
  outside _ _ hx := h.mem_other hok fun hm => Dev.outside_sec hk hx (List.map_subset _ hsub hm)
  cleared h := absurd h Bool.false_ne_true
  unheld _ hx hheld := (h.mem_unheld hx hheld).1
  adds := hadds
  release h := absurd h Bool.false_ne_true

/-! ### What the check may queue -/

/-- The section's entry is in the table and not HELD. -/
def Dev.openAt (d : Dev) (x : Covered) : Bool :=
  (d.cle.entry x.sec).any (fun c => !c.isHeld)

theorem Dev.takeCost_le (hok : d.cle.ok) (ho : d.stc.order = none) (x : Covered) : d.takeCost x ≤ 1 + (d.openAt x).toNat := by
  unfold Dev.takeCost
  split
  · exact Nat.zero_le _
  · next hno =>
    rw [Cle.holds_eq hok] at hno
    refine Nat.add_le_add_left ?_ 1
    cases hc : d.cle.entry x.sec with
    | none =>
      have hleg : (d.covered x).legNeeded = none := by
        rw [Dev.covered_none hc, (d.occupied_fields _).2.2.2.2]
        show d.legAt x.sec _ = none
        have hnone : d.routeEntries = [] := by rw [Dev.routeEntries, ho]
        unfold Dev.legAt
        rw [hnone]
        split
        · split <;> simp
        · rfl
      rw [hleg, Option.isSome_none, Bool.and_false]
      exact Nat.zero_le _
    | some c =>
      have hopen : d.openAt x = true := by
        rw [hc, Option.any_some] at hno
        rw [Dev.openAt, hc, Option.any_some]
        simpa using hno
      rw [hopen]
      exact Bool.toNat_le _

/-- The sections under the footprint whose entry is not HELD are no more than the entries that are not HELD. -/
theorem Dev.openAt_le (d : Dev) {xs : List Covered} (hd : (xs.map (·.sec)).Nodup) :
    (xs.map (fun x => (d.openAt x).toNat)).sum ≤ d.cle.table.countP (fun c => !c.isHeld) := by
  have hsum : (xs.map (fun x => (d.openAt x).toNat)).sum = (xs.filter d.openAt).length := by
    rw [← List.countP_eq_length_filter]
    clear hd
    induction xs with
    | nil => rfl
    | cons x xs ih =>
      rw [List.map_cons, List.sum_cons, ih, List.countP_cons]
      cases d.openAt x <;> simp [Nat.add_comm]
  have hsub : (xs.filter d.openAt).map (·.sec) ⊆ (d.cle.table.filter (fun c => !c.isHeld)).map (·.sec) := fun k hk => by
    obtain ⟨x, hx, rfl⟩ := List.mem_map.mp hk
    obtain ⟨c, hc, hopen⟩ := Option.any_eq_true .. |>.mp (List.mem_filter.mp hx).2
    obtain ⟨hm, hs⟩ := Cle.entry_mem hc
    exact List.mem_map.mpr ⟨c, List.mem_filter.mpr ⟨hm, hopen⟩, hs⟩
  have hnodup : ((xs.filter d.openAt).map (·.sec)).Nodup := hd.sublist (List.filter_sublist.map _)
  have hle := (List.subperm_of_subset hnodup hsub).length_le
  rw [List.length_map, List.length_map, ← List.countP_eq_length_filter (p := fun c : Claim => !c.isHeld)] at hle
  rw [hsum]
  exact hle

/-! ### The check in which a conflict stops the station -/

/-- The sections of the HELD entries off a footprint, in table order. -/
theorem Cle.secs_outside {c : Cle} (hok : c.ok) (under : Nat → Bool) : (c.table.filter (fun x => x.isHeld && !under x.sec)).map (·.sec)
    = (c.table.map (·.sec)).filter (fun k => c.holds k && !under k) := by
  rw [List.filter_map]
  refine congrArg (List.map _) (List.filter_congr fun x hx => ?_)
  rw [Function.comp_apply, Cle.holds_eq hok, Cle.entry_of_mem hok hx]
  rfl

/-- The entries off the footprint keep their order, where the check puts others between them. -/
theorem Dev.Checked.outside_secs (hok : d.cle.ok) (h : d.Checked false n e) (hsecs : (e.cle.table.map (·.sec)).filter (fun k => !d.underOwn k)
    = (d.cle.table.map (·.sec)).filter (fun k => !d.underOwn k)) :
    (e.cle.table.filter d.outside).map (·.sec) = (d.cle.table.filter d.outside).map (·.sec) := by
  have hholds : ∀ k, (e.cle.holds k && !d.underOwn k) = (d.cle.holds k && !d.underOwn k) := fun k => by
    cases hu : d.underOwn k with
    | true => simp
    | false =>
      have hiff : e.cle.holds k = true ↔ d.cle.holds k = true := by
        rw [Cle.holds_iff, Cle.holds_iff]
        refine exists_congr fun y => ⟨fun ⟨hy, hs, hheld⟩ => ⟨?_, hs, hheld⟩, fun ⟨hy, hs, hheld⟩ => ⟨?_, hs, hheld⟩⟩
        · exact (h.outside rfl y (by rw [Dev.outside, hheld, hs, hu]; rfl)).mp hy
        · exact (h.outside rfl y (by rw [Dev.outside, hheld, hs, hu]; rfl)).mpr hy
      rw [Bool.eq_iff_iff.mpr hiff]
  have hboth : ∀ l : List Nat, l.filter (fun k => d.cle.holds k && !d.underOwn k) = (l.filter (fun k => !d.underOwn k)).filter d.cle.holds := fun l => by
    rw [List.filter_filter]
  have he := Cle.secs_outside h.ok d.underOwn
  have hd := Cle.secs_outside hok d.underOwn
  simp only [hholds] at he
  rw [hboth, hsecs, ← hboth] at he
  exact he.trans hd.symm

/-- The entry of a section found in conflict is marked. -/
theorem Dev.Checked.marks {x : Covered} (hk : d.odo.known = true) (h : d.Checked false n e) (hm : e.Marks f x)
    (hx : x ∈ d.footprint.places) (hopen : e.cle.holds x.sec = false) : d.Checked false n f := by
  have hodo : f.odo = e.odo ∧ f.stc = e.stc ∧ f.sup = e.sup ∧ f.peers = e.peers ∧ f.dkc = e.dkc ∧ f.tmp = e.tmp := Dev.claimsApart_frame hm.apart
  obtain ⟨hodo, hstc, -, hpeers, -, htmp⟩ := hodo
  obtain ⟨hodo', hpeers', htmp', horder'⟩ := h.frame
  have hothers : ∀ y : Claim, y.sec ≠ x.sec → (y ∈ f.cle.table ↔ y ∈ e.cle.table) := fun y hs =>
    ⟨fun hy => (Cle.entry_mem ((hm.others _ hs).symm.trans (Cle.entry_of_mem hm.ok hy))).1,
      fun hy => (Cle.entry_mem ((hm.others _ hs).trans (Cle.entry_of_mem h.ok hy))).1⟩
  refine ⟨⟨hodo.trans hodo', hpeers.trans hpeers', htmp.trans htmp', (congrArg Stc.order hstc).trans horder'⟩,
    fun hs => (congrArg Stc.state hstc).trans (h.state hs), ?_, hm.ok, fun y hy hheld hu => ?_, fun _ y hy => ?_,
    fun h => absurd h Bool.false_ne_true, fun y hy hheld => ?_, h.adds.trans hm.adds, fun h => absurd h Bool.false_ne_true⟩
  · obtain ⟨_, _, hcle⟩ := hm.cle
    rw [hcle]
    exact h.gathering
  · have hye := h.kept y hy hheld hu
    refine (hothers y fun hs => ?_).mpr hye
    exact Bool.false_ne_true (hopen.symm.trans (Cle.holds_iff.mpr ⟨y, hye, hs, hheld⟩))
  · have hs : y.sec ≠ x.sec := fun hs => Dev.outside_sec hk hy (hs ▸ List.mem_map_of_mem hx)
    exact (hothers y hs).trans (h.outside rfl y hy)
  · refine h.unheld y ((hothers y fun hs => ?_).mp hy) hheld
    obtain ⟨c, hc, hcheld, -⟩ := hm.entry
    have hyc := Cle.entry_of_mem hm.ok hy
    rw [hs, hc, Option.some.injEq] at hyc
    rw [← hyc, hcheld] at hheld
    exact absurd hheld.symm Bool.false_ne_true

/-- A conflict raised that stops the station at standstill: what is not HELD and what lies off the footprint has gone (R80, R158). -/
theorem Dev.Checked.stops (hk : d.odo.known = true) (hs : d.odo.standstill = true) (ho : d.stc.order = none) (h : d.Checked false n e)
    (hlive : ¬e.deaf) (hsecs : (e.cle.table.filter d.outside).map (·.sec) = (d.cle.table.filter d.outside).map (·.sec)) :
    d.Checked true (n + 2) (e.raise .occupancyConflict) ∧ (e.raise .occupancyConflict).cle.table = e.cle.table.filter (fun x => x.isHeld && d.underOwn x.sec)
      ∧ (e.raise .occupancyConflict).faultActive .occupancyConflict = true ∧ (e.raise .occupancyConflict).stc.state = .safeStop := by
  obtain ⟨hodo, hpeers, htmp, horder⟩ := h.frame
  obtain ⟨hcle, hodo', hpeers', htmp', hstate, horder', -, -, hfault, hadds⟩ := e.stopping_same
  have hunder : e.stopping.underOwn = d.underOwn :=
    (Dev.underOwn_of_frame (d := d) ⟨hodo'.trans hodo, hpeers'.trans hpeers, htmp'.trans htmp, horder'.trans horder⟩).1
  obtain ⟨htable, hgathering, hok, hadds', hannounced⟩ := Dev.claimsAbort_standing (d := e.stopping) (by rw [hcle]; exact h.ok)
    (by rw [hodo', hodo]; exact hs) (by rw [hodo', hodo]; exact hk)
  have hz := e.raise_reacting_idle hlive (horder.trans ho)
  obtain ⟨hzodo, hzstc, -, hzpeers, -, hztmp⟩ := Dev.claimsApart_frame ((claimWork_apart e.stopping).claimsAbort e.stopping.claimsApart_refl)
  rw [hunder, hcle] at htable
  rw [hcle] at hgathering
  have hzfault : e.stopping.claimsAbort.faultActive .occupancyConflict = true := by
    obtain ⟨_, _, _, _, _, heq, hfs⟩ := (claimWork_apart e.stopping).claimsAbort e.stopping.claimsApart_refl
    rw [heq]
    exact (hfs _ (by decide)).trans hfault
  rw [hz]
  generalize e.stopping.claimsAbort = z at htable hgathering hadds' hannounced hzodo hzstc hzpeers hztmp hok hzfault
  have htotal : Dev.adds (n + 2) d z := (h.adds.trans hadds).trans hadds'
  refine ⟨⟨⟨by rw [hzodo, hodo', hodo], by rw [hzpeers, hpeers', hpeers], by rw [hztmp, htmp', htmp], by rw [hzstc, horder', horder]⟩,
    fun h => absurd h.symm Bool.false_ne_true, hgathering.trans h.gathering, hok, fun x hx hheld hu => ?_, fun h => absurd h.symm Bool.false_ne_true,
    fun _ x hx => ?_, fun x hx hheld => ?_, htotal, fun _ hne hact hlen => ?_⟩, htable, hzfault, by rw [hzstc, hstate]⟩
  · rw [htable]
    exact List.mem_filter.mpr ⟨h.kept x hx hheld hu, by rw [hheld, hu]; rfl⟩
  · rw [htable] at hx
    simpa using (List.mem_filter.mp hx).2
  · rw [htable] at hx
    have hin := (List.mem_filter.mp hx).2
    rw [hheld] at hin
    exact absurd hin Bool.false_ne_true
  · have hlist : ((e.stopping.cle.table.filter e.stopping.outside).map (·.sec)) = (d.cle.table.filter d.outside).map (·.sec) := by
      rw [Dev.outside_of_under hunder, hcle, hsecs]
    have hne' : e.stopping.cle.table.filter e.stopping.outside ≠ [] := fun hnil => hne (by
      rw [hnil] at hlist
      exact List.map_eq_nil_iff.mp hlist.symm)
    obtain ⟨y, hy, hkind, hdest, hp⟩ := hannounced hne' ((h.adds.trans hadds).room hact (by omega))
    refine ⟨y, hy, hkind, hdest, ?_⟩
    rw [hp, ← hlist, List.length_map, List.map_map]
    rfl

/-- What the check does after the station has stopped. -/
theorem Dev.Checked.goes (h : d.Checked true n e) (hframe : f.odo = e.odo ∧ f.peers = e.peers ∧ f.tmp = e.tmp ∧ f.stc.order = e.stc.order)
    (hgathering : f.cle.gathering = e.cle.gathering) (hok : f.cle.ok) (hadds : Dev.adds m e f)
    (hcleared : ∀ x ∈ f.cle.table, x.isHeld = true ∧ d.underOwn x.sec = true)
    (hkept : ∀ x ∈ d.cle.table, x.isHeld = true → d.underOwn x.sec = true → x ∈ f.cle.table) : d.Checked true (n + m) f := by
  obtain ⟨hodo, hpeers, htmp, horder⟩ := hframe
  obtain ⟨hodo', hpeers', htmp', horder'⟩ := h.frame
  refine ⟨⟨hodo.trans hodo', hpeers.trans hpeers', htmp.trans htmp', horder.trans horder'⟩, fun h => absurd h.symm Bool.false_ne_true,
    hgathering.trans h.gathering, hok, hkept, fun h => absurd h.symm Bool.false_ne_true, fun _ => hcleared, fun x hx hheld => ?_,
    h.adds.trans hadds, fun _ hne hact hlen => (h.release rfl hne hact (by omega)).of_adds hadds⟩
  rw [(hcleared x hx).1] at hheld
  exact absurd hheld.symm Bool.false_ne_true

theorem Dev.takeCost_of {c : Claim} {x : Covered} (hno : d.cle.holds x.sec = false) (hsome : ∀ y, d.cle.entry x.sec = some y → c.legNeeded = y.legNeeded)
    (hnone : d.cle.entry x.sec = none → c.legNeeded = (d.joining x).legNeeded) (hok : d.cle.ok) :
    d.takeCost x = 1 + (d.isPoints x.sec && c.legNeeded.isSome).toNat := by
  have hleg : (d.covered x).legNeeded = c.legNeeded := by
    cases hc : d.cle.entry x.sec with
    | none => rw [Dev.covered_none hc, (d.occupied_fields _).2.2.2.2, hnone hc]
    | some y =>
      rw [Cle.holds_eq hok, hc, Option.any_some] at hno
      rw [Dev.covered_some hc, if_neg (by simp [hno]), (d.occupied_fields _).2.2.2.2, hsome y hc]
  rw [Dev.takeCost, if_neg (by simp [hno]), hleg]

/-- A change of a section's points alone. -/
theorem Cle.update_points {c : Cle} {f : Claim → Claim} (hok : c.ok) (k : Nat) (hf : ∀ y, (f y).sec = y.sec ∧ (f y).idx = y.idx ∧ (f y).state = y.state) :
    (c.update k f).ok ∧ (c.update k f).table.length = c.table.length
      ∧ (∀ y ∈ (c.update k f).table, ∃ z ∈ c.table, z.sec = y.sec ∧ z.isHeld = y.isHeld)
      ∧ (∀ z ∈ c.table, ∃ y ∈ (c.update k f).table, y.sec = z.sec ∧ y.isHeld = z.isHeld)
      ∧ ∀ z ∈ c.table, z.sec ≠ k → z ∈ (c.update k f).table := by
  let g : Claim → Claim := fun y => if y.sec = k then f y else y
  have hg : ∀ y, (g y).sec = y.sec ∧ (g y).idx = y.idx ∧ (g y).state = y.state := fun y => by
    by_cases hy : y.sec = k
    · rw [show g y = f y from if_pos hy]
      exact hf y
    · rw [show g y = y from if_neg hy]
      exact ⟨rfl, rfl, rfl⟩
  have hheld : ∀ y, (g y).isHeld = y.isHeld := fun y => by rw [Claim.isHeld, Claim.isHeld, (hg y).2.2]
  have htried : ∀ y, (g y).tried = y.tried := fun y => by
    unfold Claim.tried Claim.isContending Claim.isBlocked
    rw [(hg y).2.2]
  have htable : (c.update k f).table = c.table.map g := rfl
  refine ⟨Cle.ok_map htable (.inl (Nat.le_refl _)) hok (fun y _ => (hg y).1) (fun y _ => (hg y).2.1) (fun y _ => hheld y)
    (fun y _ h => (htried y).symm.trans h), List.length_map _, fun y hy => ?_, fun z hz => ?_, fun z hz hne => ?_⟩
  · obtain ⟨z, hz, rfl⟩ := List.mem_map.mp hy
    exact ⟨z, hz, (hg z).1.symm, (hheld z).symm⟩
  · exact ⟨g z, List.mem_map_of_mem hz, (hg z).1, hheld z⟩
  · exact List.mem_map.mpr ⟨z, hz, if_neg hne⟩

/-- What follows TAKEN changes the points of the section's entry at most (R82, R85). -/
theorem Dev.afterHeld_table {c : Claim} {k : Nat} (hok : d.cle.ok) (hc : d.cle.entry k = some c) :
    (d.afterHeld k).cle.ok ∧ (d.afterHeld k).cle.gathering = d.cle.gathering ∧ (d.afterHeld k).cle.table.length = d.cle.table.length
      ∧ (∀ y ∈ (d.afterHeld k).cle.table, ∃ z ∈ d.cle.table, z.sec = y.sec ∧ z.isHeld = y.isHeld)
      ∧ (∀ z ∈ d.cle.table, ∃ y ∈ (d.afterHeld k).cle.table, y.sec = z.sec ∧ y.isHeld = z.isHeld)
      ∧ ∀ z ∈ d.cle.table, z.sec ≠ k → z ∈ (d.afterHeld k).cle.table := by
  obtain ⟨-, hcle, -, -⟩ := Dev.afterHeld_calm (loud := true) hc
  rw [hcle]
  split
  · obtain ⟨hok, hlen, hback, hforth, hsame⟩ := Cle.update_points (f := d.requested false) hok k fun y => ⟨rfl, rfl, rfl⟩
    exact ⟨hok, rfl, hlen, hback, hforth, hsame⟩
  · exact ⟨hok, rfl, rfl, fun y hy => ⟨y, hy, rfl, rfl⟩, fun z hz => ⟨z, hz, rfl, rfl⟩, fun z hz _ => hz⟩

/-- The section whose conflict stops the station. -/
theorem Dev.Checked.stopsAt {x : Covered} (hok : d.cle.ok) (hk : d.odo.known = true) (hs : d.odo.standstill = true) (ho : d.stc.order = none)
    (h : d.Checked false n e) (hsecs : (e.cle.table.map (·.sec)).filter (fun k => !d.underOwn k) = (d.cle.table.map (·.sec)).filter (fun k => !d.underOwn k))
    (hx : x ∈ d.footprint.places) (hopen : e.cle.holds x.sec = false) (hconflict : e.conflicts x.sec = true) (hlive : ¬e.deaf)
    (hroom : e.cle.entry x.sec = none → e.cle.table.length < Config.maxClaims) :
    d.Checked true (n + 2 + e.takeCost x) (e.checkCovered x) ∧ (e.checkCovered x).cle.holds x.sec = true
      ∧ (∀ k, d.underOwn k = true → e.cle.holds k = true → (e.checkCovered x).cle.holds k = true)
      ∧ (e.checkCovered x).cle.table.length ≤ e.cle.table.length + 1 ∧ (e.checkCovered x).faultActive .occupancyConflict = true
      ∧ (e.checkCovered x).deaf := by
  have hodo : e.odo = d.odo := h.frame.1
  obtain ⟨g, hg⟩ := Dev.Marks.exist h.ok (by rw [hodo]; exact hk) hopen hroom
  have hunder : d.underOwn x.sec = true := by
    rw [Dev.underOwn, hk, Bool.true_and]
    exact (Footprint.covers_iff ..).mpr (List.mem_map_of_mem hx)
  have hmarked := h.marks hk hg hx hopen
  have hgsecs := hmarked.outside_secs hok ((hg.secs _ (by rw [hunder]; rfl)).trans hsecs)
  have hglive : ¬g.deaf ∧ g.conflicts x.sec = true := by
    obtain ⟨_, _, _, _, _, heq, -⟩ := hg.apart
    rw [heq]
    exact ⟨hlive, hconflict⟩
  obtain ⟨c, hc, hcheld, hcsome, hcnone⟩ := hg.entry
  obtain ⟨hstopped, htable, hfault, hstate⟩ := hmarked.stops hk hs ho hglive.1 hgsecs
  have hjudge : g.judgeConflict x.sec = g.raise .occupancyConflict := if_pos hglive.2
  have hstep := hg.step
  rw [hjudge] at hstep
  generalize g.raise .occupancyConflict = s at hstopped htable hfault hstate hstep
  have hsent : Dev.adds 1 s (s.announceTaken x.sec e.occupancyTicket) := Dev.adds.send ..
  have hsapart : s.claimsApart (s.announceTaken x.sec e.occupancyTicket) := (claimWork_apart s).send _ _ _ s.claimsApart_refl
  have hscle : (s.announceTaken x.sec e.occupancyTicket).cle = s.cle := Dev.send_cle ..
  generalize s.announceTaken x.sec e.occupancyTicket = u at hsent hsapart hscle hstep
  have hcin : c ∈ u.cle.table := by
    obtain ⟨hm, hcs⟩ := Cle.entry_mem hc
    rw [hscle, htable]
    exact List.mem_filter.mpr ⟨hm, by rw [hcheld, hcs, hunder]; rfl⟩
  have hcsec : c.sec = x.sec := (Cle.entry_mem hc).2
  have huentry : u.cle.entry x.sec = some c := by
    rw [← hcsec]
    exact Cle.entry_of_mem (by rw [hscle]; exact hstopped.ok) hcin
  obtain ⟨hafter, -, hfaults, hspends⟩ := Dev.afterHeld_calm (loud := true) huentry
  have hupoints : u.isPoints = e.isPoints ∧ u.stc.order = none ∧ u.faultActive .occupancyConflict = true := by
    obtain ⟨-, -, htmp, horder⟩ := hstopped.frame
    obtain ⟨_, _, _, _, _, heq, hfs⟩ := hsapart
    obtain ⟨-, -, htmp', -⟩ := h.frame
    have hpoints : s.isPoints = e.isPoints := by
      unfold Dev.isPoints
      rw [htmp, htmp']
    rw [heq]
    exact ⟨hpoints, horder.trans ho, (hfs _ (by decide)).trans hfault⟩
  obtain ⟨hupoints, huorder, hufault⟩ := hupoints
  rw [hupoints] at hspends
  have howes : u.owes true = 0 := by rw [Dev.owes, huorder, hufault]; rfl
  have hadds : Dev.adds (1 + (e.isPoints x.sec && c.legNeeded.isSome).toNat) s (u.afterHeld x.sec) := by
    obtain ⟨k, hk, hle⟩ := hspends
    rw [howes] at hle
    exact hsent.trans (hk.mono (by omega))
  have hcost := e.takeCost_of hopen hcsome hcnone h.ok
  have hafterOk := Dev.afterHeld_table (by rw [hscle]; exact hstopped.ok) huentry
  have hvframe := Dev.takesApart_frame hafter
  have hvstate : (u.afterHeld x.sec).stc.state = u.stc.state := (Dev.takesApart_same hafter).2.2.2.2.1
  have hvfault : (u.afterHeld x.sec).faultActive .occupancyConflict = true := by
    rw [Dev.faultActive, hfaults]
    exact hufault
  have husame : u.odo = s.odo ∧ u.peers = s.peers ∧ u.tmp = s.tmp ∧ u.stc = s.stc := by
    obtain ⟨hodo, hstc, -, hpeers, -, htmp⟩ := Dev.claimsApart_frame hsapart
    exact ⟨hodo, hpeers, htmp, hstc⟩
  rw [hstep]
  generalize u.afterHeld x.sec = v at hafterOk hvframe hvstate hvfault hadds
  obtain ⟨huodo, hupeers, hutmp, hustc⟩ := husame
  obtain ⟨hvok, hvgathering, hvlen, hback, hforth, hsame⟩ := hafterOk
  obtain ⟨hvodo, hvpeers, hvtmp, hvorder⟩ := hvframe
  rw [hscle] at hvgathering hvlen hback hforth hsame
  have hcleared : ∀ y ∈ v.cle.table, y.isHeld = true ∧ d.underOwn y.sec = true := fun y hy => by
    obtain ⟨z, hz, hzs, hzh⟩ := hback y hy
    rw [← hzs, ← hzh]
    exact hstopped.cleared rfl z hz
  have hholds : ∀ k, s.cle.holds k = true → v.cle.holds k = true := fun k hk => by
    obtain ⟨z, hz, hzs, hzh⟩ := Cle.holds_iff.mp hk
    obtain ⟨y, hy, hys, hyh⟩ := hforth z hz
    exact Cle.holds_iff.mpr ⟨y, hy, hys.trans hzs, hyh.trans hzh⟩
  have hsholds : ∀ k, d.underOwn k = true → g.cle.holds k = true → s.cle.holds k = true := fun k hu hk => by
    obtain ⟨z, hz, hzs, hzh⟩ := Cle.holds_iff.mp hk
    exact Cle.holds_iff.mpr ⟨z, by rw [htable]; exact List.mem_filter.mpr ⟨hz, by rw [hzh, hzs, hu]; rfl⟩, hzs, hzh⟩
  have hgholds : ∀ k, e.cle.holds k = true → g.cle.holds k = true := fun k hk => by
    have hne : k ≠ x.sec := fun hkx => Bool.false_ne_true (hopen.symm.trans (hkx ▸ hk))
    rw [Cle.holds_eq hg.ok, hg.others k hne, ← Cle.holds_eq h.ok]
    exact hk
  refine ⟨?_, ?_, fun k hu hk => hholds k (hsholds k hu (hgholds k hk)), ?_, hvfault, ?_⟩
  · rw [hcost]
    refine hstopped.goes ⟨hvodo.trans huodo, hvpeers.trans hupeers, hvtmp.trans hutmp, hvorder.trans (congrArg Stc.order hustc)⟩ hvgathering hvok hadds
      hcleared fun y hy hheld hu => hsame y (hstopped.kept y hy hheld hu) fun hys => ?_
    exact Bool.false_ne_true (hopen.symm.trans (Cle.holds_iff.mpr ⟨y, h.kept y hy hheld hu, hys, hheld⟩))
  · exact hholds _ (hsholds _ hunder (Cle.holds_iff.mpr ⟨c, (Cle.entry_mem hc).1, hcsec, hcheld⟩))
  · have hglen := hg.length
    have hfilter := List.length_filter_le (fun y : Claim => y.isHeld && d.underOwn y.sec) g.cle.table
    have hone := Bool.toNat_le (e.cle.entry x.sec).isNone
    rw [hvlen, htable]
    omega
  · rw [Dev.deaf, hvstate, hustc, hstate]
    exact List.mem_cons_self ..

/-- The sections after it: each that is not HELD joins, and the table stays under the footprint. -/
theorem Dev.Checked.covers {xs : List Covered} (hk : d.odo.known = true) (ho : d.stc.order = none) (h : d.Checked true n e)
    (hfault : e.faultActive .occupancyConflict = true) (hsub : xs ⊆ d.footprint.places) (hc : e.Covers true f xs) :
    d.Checked true (n + xs.length) f := by
  obtain ⟨hodo, hpeers, htmp, horder⟩ := h.frame
  have hopen : ∀ x : Covered, e.openAt x = false := fun x => by
    rw [Bool.eq_false_iff]
    intro hopen
    obtain ⟨c, hc, hno⟩ := Option.any_eq_true .. |>.mp hopen
    rw [(h.cleared rfl c (Cle.entry_mem hc).1).1] at hno
    exact Bool.false_ne_true hno
  have hcost : (xs.map e.takeCost).sum ≤ xs.length := by
    have hle : ∀ x ∈ xs, e.takeCost x ≤ 1 := fun x _ => by
      have := Dev.takeCost_le h.ok (horder.trans ho) x
      rwa [hopen] at this
    have := List.sum_le_card_nsmul (xs.map e.takeCost) 1 fun k hk => by
      obtain ⟨x, hx, rfl⟩ := List.mem_map.mp hk
      exact hle x hx
    rwa [List.length_map, smul_eq_mul, Nat.mul_one] at this
  have howes : e.owes true = 0 := by rw [Dev.owes, horder, ho, hfault]; rfl
  obtain ⟨k, hadds, hle⟩ := hc.spends
  obtain ⟨_, _, -, hcle⟩ := hc.cle
  refine h.goes (Dev.takesApart_frame hc.apart) (by rw [hcle]) hc.ok (hadds.mono (by omega)) (fun y hy => ?_) fun y hy hheld hu => ?_
  · by_cases hm : y.sec ∈ xs.map (·.sec)
    · obtain ⟨x, hx, hs⟩ := List.mem_map.mp hm
      have hentry := Cle.entry_of_mem hc.ok hy
      have hcov := hc.covered x hx
      rw [hs, hentry, Option.some.injEq] at hcov
      refine ⟨by rw [hcov]; exact e.covered_held x, ?_⟩
      rw [Dev.underOwn, hk, Bool.true_and]
      exact (Footprint.covers_iff ..).mpr (hs ▸ List.mem_map_of_mem (hsub hx))
    · exact h.cleared rfl y ((hc.mem_other h.ok hm).mp hy)
  · exact hc.mem_held h.ok (h.kept y hy hheld hu) hheld

/-- The sections before the first conflict. -/
theorem Dev.Covers.before {xs : List Covered} (hok : d.cle.ok) (hk : d.odo.known = true) (hd : (xs.map (·.sec)).Nodup)
    (hsub : xs ⊆ d.footprint.places) (hroom : d.cle.table.length + xs.length ≤ 8)
    (hcalm : ∀ x ∈ xs, d.cle.holds x.sec = false → d.conflicts x.sec = false) : d.Covers false (xs.foldl Dev.checkCovered d.realigned) xs := by
  have hre := Dev.realigned_covers (loud := false) hok
  have hfilter := List.length_filter_le (fun x : Covered => (d.realigned.cle.entry x.sec).isNone) xs
  refine hre.trans hok (Dev.foldl_covers hre.ok hk _ hd ?_ (fun x hx hno => ?_) fun x hx => ?_) fun _ _ => List.not_mem_nil
  · rw [hre.length, List.filter_nil, List.length_nil, Nat.add_zero]
    show _ ≤ 8
    omega
  · exact (if_neg Bool.false_ne_true).mpr (hcalm x hx ((hre.holds_eq hok (x := x) List.not_mem_nil).symm.trans hno))
  · exact (Footprint.covers_iff ..).mpr (List.mem_map_of_mem (hsub hx))

/-- The check in which the section `x` is the first in conflict and stops the station. -/
theorem Dev.Checked.conflict {x : Covered} {pre post : List Covered} (hok : d.cle.ok) (hk : d.odo.known = true) (hs : d.odo.standstill = true)
    (ho : d.stc.order = none) (hroom : d.cle.table.length + d.footprint.places.length ≤ 8) (hlive : ¬d.deaf) (hplaces : d.footprint.places = pre ++ x :: post)
    (hopen : d.cle.holds x.sec = false) (hconflict : d.conflicts x.sec = true)
    (hcalm : ∀ y ∈ pre, d.cle.holds y.sec = false → d.conflicts y.sec = false) :
    d.Checked true ((pre.map d.takeCost).sum + 2 + d.takeCost x + post.length) d.underChecked ∧ ∀ k ∈ d.footprint.sections, d.underChecked.cle.holds k = true := by
  have hnodup : (d.footprint.places.map (·.sec)).Nodup := footprintOf_nodup ..
  have hpre : pre ⊆ d.footprint.places := fun y hy => hplaces ▸ List.mem_append_left _ hy
  have hx : x ∈ d.footprint.places := hplaces ▸ List.mem_append_right _ (List.mem_cons_self ..)
  have hpost : post ⊆ d.footprint.places := fun y hy => hplaces ▸ List.mem_append_right _ (List.mem_cons_of_mem _ hy)
  have hlen : d.footprint.places.length = pre.length + (post.length + 1) := by rw [hplaces, List.length_append, List.length_cons]
  have hxpre : x.sec ∉ pre.map (·.sec) := fun hm => by
    rw [hplaces, List.map_append, List.nodup_append] at hnodup
    exact hnodup.2.2 _ hm _ (List.mem_cons_self ..) rfl
  have hprenodup : (pre.map (·.sec)).Nodup := by
    rw [hplaces, List.map_append, List.nodup_append] at hnodup
    exact hnodup.1
  have hpostnodup : (post.map (·.sec)).Nodup := by
    rw [hplaces, List.map_append, List.nodup_append] at hnodup
    exact (List.nodup_cons.mp hnodup.2.1).2
  have hbefore := Dev.Covers.before hok hk hprenodup hpre (by omega) hcalm
  have hunder : d.underChecked = post.foldl Dev.checkCovered ((pre.foldl Dev.checkCovered d.realigned).checkCovered x) := by
    rw [Dev.underChecked, hplaces, List.foldl_append, List.foldl_cons]
  generalize pre.foldl Dev.checkCovered d.realigned = e at hbefore hunder
  have hjoined := List.length_filter_le (fun y : Covered => (d.cle.entry y.sec).isNone) pre
  have helen := hbefore.length
  obtain ⟨k, hadds, hle⟩ := hbefore.spends
  have howes : d.owes false = 0 := by rw [Dev.owes, ho]; rfl
  have hchecked := hbefore.checked (n := (pre.map d.takeCost).sum) hok hk hpre (hadds.mono (by omega))
  obtain ⟨hocc, hjoin, -, hpoints, hconflicts, -, -, hdeaf⟩ := hbefore.same
  have hcost : e.takeCost x = d.takeCost x := by
    rw [Dev.takeCost, Dev.takeCost, hbefore.holds_eq hok hxpre, hbefore.covered_eq hxpre, hpoints]
  have horder := hbefore.order (fun k => !d.underOwn k) fun k hc => by rw [Dev.underOwn, hk, hc]; rfl
  obtain ⟨hstopped, hholds, hkeeps, hvlen, hfault, hvdeaf⟩ := hchecked.stopsAt hok hk hs ho horder hx ((hbefore.holds_eq hok hxpre).trans hopen)
    (by rw [hconflicts]; exact hconflict) (mt hdeaf.mp hlive) fun _ => by show _ < 8; omega
  generalize e.checkCovered x = v at hunder hstopped hholds hkeeps hvlen hfault hvdeaf
  obtain ⟨hvodo, -, -, -⟩ := hstopped.frame
  have hvfoot := (Dev.underOwn_of_frame hstopped.frame).2
  have hpostjoined := List.length_filter_le (fun y : Covered => (v.cle.entry y.sec).isNone) post
  have hafter : v.Covers true (post.foldl Dev.checkCovered v) post := Dev.foldl_covers hstopped.ok (by rw [hvodo]; exact hk) post hpostnodup
    (by show _ ≤ 8; omega) (fun y _ _ => (if_pos rfl).mpr hvdeaf) fun y hy => by
      rw [hvfoot]
      exact (Footprint.covers_iff ..).mpr (List.mem_map_of_mem (hpost hy))
  rw [← hunder] at hafter
  have hdone := hstopped.covers hk ho hfault hpost hafter
  rw [hcost] at hdone
  refine ⟨hdone, fun k hk' => ?_⟩
  have hu : d.underOwn k = true := by
    rw [Dev.underOwn, hk, Bool.true_and]
    exact (Footprint.covers_iff ..).mpr hk'
  obtain ⟨y, hy, hys⟩ := Footprint.mem_sections.mp hk'
  rw [hplaces, List.mem_append, List.mem_cons] at hy
  obtain hy | rfl | hy := hy
  · exact hafter.holds hstopped.ok (hkeeps k hu (hbefore.holds_covered (hys ▸ List.mem_map_of_mem hy)))
  · exact hafter.holds hstopped.ok (hys ▸ hholds)
  · exact hafter.holds_covered (hys ▸ List.mem_map_of_mem hy)

/-- The check of the footprint at standstill with no order current, where the table has room. -/
theorem Dev.underChecked_checked (hok : d.cle.ok) (hk : d.odo.known = true) (hs : d.odo.standstill = true) (ho : d.stc.order = none)
    (hroom : d.cle.table.length + d.footprint.sections.length ≤ 8) :
    ∃ stopped, d.Checked stopped (d.footprint.sections.length + d.cle.table.countP (fun c => !c.isHeld) + 1 + stopped.toNat) d.underChecked
      ∧ (∀ k ∈ d.footprint.sections, d.underChecked.cle.holds k = true)
      ∧ ((∀ k ∈ d.footprint.sections, d.conflicts k = false) → stopped = false) := by
  have hlen : d.footprint.sections.length = d.footprint.places.length := List.length_map _
  have hnodup : (d.footprint.places.map (·.sec)).Nodup := footprintOf_nodup ..
  have hcosts : ∀ xs : List Covered, (xs.map d.takeCost).sum ≤ xs.length + (xs.map (fun x => (d.openAt x).toNat)).sum := fun xs => by
    induction xs with
    | nil => exact Nat.le_refl _
    | cons x xs ih =>
      have := Dev.takeCost_le hok ho x
      simp only [List.map_cons, List.sum_cons, List.length_cons]
      omega
  have hopens := d.openAt_le hnodup
  have hjoins : ∀ (p : Covered → Bool) (xs : List Covered), (xs.filter p).length ≤ xs.length := fun p xs => List.length_filter_le p xs
  by_cases hcalm : ∃ loud, ∀ x ∈ d.footprint.places, d.cle.holds x.sec = false → d.calmAt loud x.sec
  · obtain ⟨loud, hcalm⟩ := hcalm
    have hc := Dev.underChecked_covers hok hk (by have := hjoins (fun x => (d.cle.entry x.sec).isNone) d.footprint.places; show _ ≤ 8; omega) hcalm
    refine ⟨false, hc.checked hok hk (List.Subset.refl _) ?_, fun k hk => hc.holds_covered hk, fun _ => rfl⟩
    obtain ⟨k, hadds, hle⟩ := hc.spends
    have howes : d.owes loud ≤ 1 := by
      rw [Dev.owes, ho]
      exact (Nat.zero_add _).le.trans (Bool.toNat_le _)
    have := hcosts d.footprint.places
    exact hadds.mono (by simp only [Bool.toNat_false]; omega)
  · have hlive : ¬d.deaf := fun hd => hcalm ⟨true, fun x _ _ => (if_pos rfl).mpr hd⟩
    obtain ⟨x, hfind⟩ : ∃ x, d.footprint.places.find? (fun x => !d.cle.holds x.sec && d.conflicts x.sec) = some x := by
      refine Option.ne_none_iff_exists'.mp fun hnone => hcalm ⟨false, fun x hx hno => (if_neg Bool.false_ne_true).mpr ?_⟩
      have hnot := List.find?_eq_none.mp hnone x hx
      rw [hno] at hnot
      simpa using hnot
    obtain ⟨hfound, pre, post, hplaces, hbefore⟩ := List.find?_eq_some_iff_append.mp hfind
    obtain ⟨hopen, hconflict⟩ := Bool.and_eq_true_iff.mp hfound
    have hopen : d.cle.holds x.sec = false := by simpa using hopen
    obtain ⟨hchecked, hholds⟩ := Dev.Checked.conflict hok hk hs ho (by omega) hlive hplaces hopen hconflict fun y hy hno => by
      have hnot := hbefore y hy
      rw [hno] at hnot
      simpa using hnot
    refine ⟨true, ?_, hholds, fun hno => ?_⟩
    · have hpre := hcosts pre
      have hxcost := Dev.takeCost_le hok ho x
      have hplen : d.footprint.places.length = pre.length + (post.length + 1) := by rw [hplaces, List.length_append, List.length_cons]
      rw [hplaces, List.map_append, List.map_cons, List.sum_append, List.sum_cons] at hopens
      refine hchecked.mono ?_
      simp only [Bool.toNat_true]
      omega
    · have hx : x ∈ d.footprint.places := hplaces ▸ List.mem_append_right _ (List.mem_cons_self ..)
      rw [hno x.sec (List.mem_map_of_mem hx)] at hconflict
      exact absurd hconflict Bool.false_ne_true

end

end Sys2Proof.Machine

/-! SUPPORT. CLE at a LOCATE taken (R62, R63, R80). -/

namespace Sys2Proof.Machine

section
variable {d e f : Dev} {stopped : Bool} {n m : Nat}

/-- The entries that are not HELD. -/
def Dev.unheldCount (d : Dev) : Nat :=
  d.cle.table.countP (fun c => !c.isHeld)

/-- With every entry HELD there is no front entry to examine. -/
theorem Dev.refront_retreats {l : List Nat} (hok : d.cle.ok) (hg : d.cle.gathering = some l) (old : Option (Option Nat)) :
    ∃ m, m ≤ d.unheldCount ∧ m ≤ 1 ∧ d.Retreats m (d.refront old) := by
  cases hfront : d.cle.front with
  | none => exact ⟨0, Nat.zero_le _, Nat.zero_le _, by
      rw [Dev.refront, hfront, Option.any_none, Bool.and_false, if_neg Bool.false_ne_true]
      exact Dev.Retreats.refl hg⟩
  | some c =>
    refine ⟨1, List.countP_pos_iff.mpr ⟨c, Cle.front_mem hfront, ?_⟩, Nat.le_refl _, Dev.Retreats.refront hok hg old⟩
    rw [Dev.Retreats.front_unheld hfront]
    rfl

/-- The entries not HELD after the check were in the table before it. -/
theorem Dev.Checked.unheldCount_le (h : d.Checked stopped n e) : e.unheldCount ≤ d.unheldCount := by
  have hnodup : (e.cle.table.filter (fun c => !c.isHeld)).Nodup := (List.Nodup.of_map _ h.ok.2.1).filter _
  have hsub : e.cle.table.filter (fun c => !c.isHeld) ⊆ d.cle.table.filter (fun c => !c.isHeld) := fun c hc => by
    obtain ⟨hm, hopen⟩ := List.mem_filter.mp hc
    exact List.mem_filter.mpr ⟨h.unheld c hm (by simpa using hopen), hopen⟩
  have hle := (List.subperm_of_subset hnodup hsub).length_le
  rwa [← List.countP_eq_length_filter, ← List.countP_eq_length_filter] at hle

/-- The part when the footprint has been checked, before an entry that has become the front entry is examined. -/
theorem Dev.footprintCheck_checked (hok : d.cle.ok) (hk : d.odo.known = true) (hs : d.odo.standstill = true) (ho : d.stc.order = none)
    (hg : d.cle.gathering = some []) (hroom : d.cle.table.length + d.footprint.sections.length ≤ 8) :
    ∃ (e : Dev) (stopped : Bool) (m : Nat), d.Checked stopped (d.footprint.sections.length + d.unheldCount + 1 + stopped.toNat) e
      ∧ (d.cle.active = true → ∀ k ∈ d.footprint.sections, e.cle.holds k = true)
      ∧ ((∀ k ∈ d.footprint.sections, d.conflicts k = false) → stopped = false)
      ∧ e.Retreats m d.footprintCheck ∧ m ≤ d.unheldCount := by
  cases hact : d.cle.active with
  | true =>
    obtain ⟨stopped, hchecked, hholds, hcalm⟩ := Dev.underChecked_checked hok hk hs ho hroom
    obtain ⟨m, hle, -, hretreats⟩ := Dev.refront_retreats hchecked.ok (hchecked.gathering.trans hg) d.frontIdx
    rw [← Dev.footprintCheck_eq hact hk] at hretreats
    exact ⟨_, stopped, m, hchecked, fun _ => hholds, hcalm, hretreats, hle.trans hchecked.unheldCount_le⟩
  | false =>
    have hsame : d.footprintCheck = d := by
      unfold Dev.footprintCheck
      rw [hact, Bool.false_and, if_neg Bool.false_ne_true]
    rw [hsame]
    refine ⟨d, false, 0, ⟨⟨rfl, rfl, rfl, rfl⟩, fun _ => rfl, rfl, hok, fun x hx _ _ => hx, fun _ _ _ => Iff.rfl, fun h => absurd h Bool.false_ne_true,
      fun x hx _ => hx, (Dev.adds.refl d).mono (Nat.zero_le _), fun h => absurd h Bool.false_ne_true⟩, fun h => absurd h Bool.false_ne_true, fun _ => rfl,
      Dev.Retreats.refl hg, Nat.zero_le _⟩

/-- What CLE leaves at a LOCATE taken. -/
structure Dev.Located (d e : Dev) : Prop where
  frame : e.odo = d.odo ∧ e.peers = d.peers ∧ e.tmp = d.tmp
  held : d.cle.active = true → ∀ k ∈ d.footprint.sections, e.cle.holds k = true
  pending : e.cle.abortPending = false
  under : ∀ c ∈ e.cle.table, c.isHeld = true → c.sec ∈ d.footprint.sections
  kept : ∀ c ∈ d.cle.table, c.isHeld = true → c.sec ∈ d.footprint.sections → c ∈ e.cle.table
  adds : Dev.adds (d.footprint.sections.length + 2 * d.unheldCount + 2) d e
  release : d.cle.table.filter d.outside ≠ [] → d.lif.active = true → d.lif.queue.length + d.footprint.sections.length + 2 * d.unheldCount + 3 ≤ 8 →
    d.releasedIn e d.outside
  state : (∀ k ∈ d.footprint.sections, d.conflicts k = false) → e.stc.state = d.stc.state

/-- The release of what lies off the footprint after a check. -/
theorem Dev.Checked.released (h : d.Checked stopped n e) (hr : e.Retreats m f) :
    e.Retreats m f.releaseOutside ∧ f.underOwn = d.underOwn ∧ ∀ x, x ∈ f.releaseOutside.cle.table ↔ x ∈ f.cle.table ∧ d.outside x = false := by
  have hunder : f.underOwn = d.underOwn := (Dev.Retreats.under hr.apart).1.trans (Dev.underOwn_of_frame h.frame).1
  obtain ⟨l', hg'⟩ := hr.gathering
  have hreleased : f.Retreats 0 f.releaseOutside := Dev.Retreats.releaseClaims hg' fun x _ _ hx => by simpa using hx
  refine ⟨hr.trans hreleased, hunder, fun x => ?_⟩
  rw [Dev.releaseOutside, Dev.releaseClaims_table, List.mem_filter, hunder]
  refine and_congr_right fun _ => ?_
  rw [Bool.not_eq_true']
  rfl

/-- CLE with no ABORT pending any more (R80). -/
def Dev.abortSettled (d : Dev) : Dev := { d with cle := { d.cle with abortPending := false } }

/-- CLE's event at a LOCATE taken (R63, R80). -/
def Dev.locating (d : Dev) : Dev :=
  let e := d.footprintCheck
  if e.odo.known then e.releaseOutside.abortSettled else e

/-- The end of the event: one RELEASE names what it has given back, unless the station has stopped and CLE has announced it already. -/
theorem Dev.Checked.closes {act : Dev → Dev} (hok : d.cle.ok) (h : d.gatheringNone.Checked stopped n e) (hr : e.Retreats m f)
    (hout : ∀ x ∈ f.cle.table, d.outside x = false) (hact : act d.gatheringNone = f.abortSettled) :
    ∃ k, k + stopped.toNat ≤ 1 ∧ Dev.adds k f (Dev.event act d) ∧ (Dev.event act d).cle.table = f.cle.table
      ∧ (Dev.event act d).cle.abortPending = false ∧ ((Dev.event act d).odo = f.odo ∧ (Dev.event act d).peers = f.peers
        ∧ (Dev.event act d).tmp = f.tmp ∧ (Dev.event act d).stc = f.stc)
      ∧ (stopped = false → d.cle.table.filter d.outside ≠ [] → f.lif.hasRoom → d.releasedIn (Dev.event act d) d.outside) := by
  obtain ⟨l₀, l, he, hf, hfrom, hgone⟩ := hr.gathered
  obtain rfl : l₀ = [] := Option.some.inj (he.symm.trans h.gathering)
  have hout' : e.outside = d.outside := Dev.outside_of_under (Dev.underOwn_of_frame h.frame).1
  rw [hout'] at hfrom
  have hgathering : (act d.gatheringNone).cle.gathering = some l := by
    rw [hact]
    exact hf
  cases stopped with
  | true =>
    have hnil : l = [] := List.eq_nil_iff_forall_not_mem.mpr fun k hk => by
      obtain ⟨x, hx, hxo, -⟩ := hfrom k hk
      obtain ⟨hheld, hu⟩ := h.cleared rfl x hx
      rw [Dev.outside, hheld] at hxo
      have hu : d.underOwn x.sec = true := hu
      rw [hu] at hxo
      exact Bool.false_ne_true hxo
    rw [Dev.event_of_gathered_nil (hgathering.trans (congrArg some hnil)), hact]
    exact ⟨0, Nat.le_refl _, Dev.adds.of_lif rfl, rfl, rfl, ⟨rfl, rfl, rfl, rfl⟩, fun h => absurd h.symm Bool.false_ne_true⟩
  | false =>
    have hnames : ∀ k, k ∈ l ↔ ∃ x ∈ d.cle.table, d.outside x = true ∧ x.sec = k := fun k => by
      constructor
      · intro hk
        obtain ⟨x, hx, hxo, hs⟩ := hfrom k hk
        exact ⟨x, (h.outside rfl x hxo).mp hx, hxo, hs⟩
      · rintro ⟨x, hx, hxo, rfl⟩
        refine hgone x ((h.outside rfl x hxo).mpr hx) (Bool.and_eq_true_iff.mp hxo).1 fun hxf => ?_
        exact Bool.false_ne_true ((hout x hxf).symm.trans hxo)
    have hevent := Dev.event_gives hok rfl hgathering hnames
    rw [hact] at hevent
    rw [hevent]
    generalize hy : ({ f.abortSettled with cle := { f.abortSettled.cle with gathering := d.cle.gathering } } : Dev) = y
    have hlif : y.lif = f.lif := by rw [← hy]; rfl
    have hadds := (Dev.adds.sendRelease y ((d.cle.table.filter d.outside).map (·.sec))).from_lif hlif
    have hqueued : d.cle.table.filter d.outside ≠ [] → f.lif.hasRoom → d.releasedIn (y.sendRelease ((d.cle.table.filter d.outside).map (·.sec))) d.outside :=
      fun hne hroom => Dev.sendRelease_queued (hlif ▸ hroom) (by simpa using hne)
    obtain ⟨_, _, _, _, heq⟩ := Dev.sendRelease_changes y ((d.cle.table.filter d.outside).map (·.sec))
    rw [heq] at hadds hqueued ⊢
    refine ⟨1, Nat.le_refl _, hadds, ?_, ?_, ⟨?_, ?_, ?_, ?_⟩, fun _ => hqueued⟩ <;> rw [← hy] <;> rfl

theorem Dev.claimsLocated_located (hok : d.cle.ok) (hk : d.odo.known = true) (hs : d.odo.standstill = true) (ho : d.stc.order = none)
    (hroom : d.cle.table.length + d.footprint.sections.length ≤ 8) : d.Located d.claimsLocated := by
  obtain ⟨b, stopped, m, hb, hholds, hcalm, hretreats, hm⟩ := Dev.footprintCheck_checked (d := d.gatheringNone) hok hk hs ho rfl hroom
  obtain ⟨hreleased, hunder, htable⟩ := hb.released hretreats
  have hknown : d.gatheringNone.footprintCheck.odo.known = true := by
    rw [(Dev.claimsApart_frame hretreats.apart).1, hb.frame.1]
    exact hk
  have hact : Dev.locating d.gatheringNone = d.gatheringNone.footprintCheck.releaseOutside.abortSettled := if_pos hknown
  have hz : d.claimsLocated = Dev.event Dev.locating d := rfl
  have hframe := Dev.claimsApart_frame hreleased.apart
  have hcovers : ∀ k, d.underOwn k = true ↔ k ∈ d.footprint.sections := fun k => by
    rw [Dev.underOwn, hk, Bool.true_and]
    exact Footprint.covers_iff ..
  have hbunder : b.underOwn = d.underOwn := (Dev.underOwn_of_frame hb.frame).1
  obtain ⟨k, hk1, hadds, hztable, hpending, ⟨hzodo, hzpeers, hztmp, hzstc⟩, hqueued⟩ :=
    hb.closes hok hreleased (fun x hx => ((htable x).mp hx).2) hact
  rw [hz]
  generalize Dev.event Dev.locating d = z at hadds hztable hpending hzodo hzpeers hztmp hzstc hqueued
  generalize d.gatheringNone.footprintCheck.releaseOutside = r at hreleased htable hframe hadds hztable hzodo hzpeers hztmp hzstc hqueued
  obtain ⟨hrodo, hrstc, -, hrpeers, -, hrtmp⟩ := hframe
  obtain ⟨hbodo, hbpeers, hbtmp, -⟩ := hb.frame
  have hkept : ∀ c ∈ b.cle.table, c.isHeld = true → c.sec ∈ d.footprint.sections → c ∈ z.cle.table := fun c hc hheld hu => by
    rw [hztable]
    exact hreleased.kept c hc hheld (by rw [hbunder]; exact (hcovers _).mpr hu)
  have hcount : d.gatheringNone.unheldCount = d.unheldCount := rfl
  have hsecs : d.gatheringNone.footprint = d.footprint := rfl
  rw [hcount, hsecs] at hb
  rw [hcount] at hm
  have hafter := hb.adds.trans hreleased.adds
  refine ⟨⟨hzodo.trans (hrodo.trans hbodo), hzpeers.trans (hrpeers.trans hbpeers), hztmp.trans (hrtmp.trans hbtmp)⟩, fun ha s hs => ?_, hpending,
    fun c hc hheld => ?_, fun c hc hheld hu => hkept c (hb.kept c hc hheld ((hcovers _).mpr hu)) hheld hu, ?_, fun hne ha hlen => ?_, fun hno => ?_⟩
  · obtain ⟨c, hc, hcs, hheld⟩ := Cle.holds_iff.mp (hholds ha s hs)
    exact Cle.holds_iff.mpr ⟨c, hkept c hc hheld (hcs ▸ hs), hcs, hheld⟩
  · rw [hztable] at hc
    have hin : d.outside c = false := ((htable c).mp hc).2
    refine (hcovers _).mp ?_
    rw [Dev.outside, hheld] at hin
    simpa using hin
  · have htotal : Dev.adds _ d z := (hafter.trans hadds).from_lif rfl
    exact htotal.mono (by omega)
  · cases stopped with
    | true => exact (hb.release rfl hne ha (by show d.lif.queue.length + _ ≤ 8; simp only [Bool.toNat_true]; omega)).of_adds (hreleased.adds.trans hadds)
    | false => exact hqueued rfl hne (hafter.room ha (by show d.lif.queue.length + _ < 8; simp only [Bool.toNat_false]; omega))
  · rw [hzstc, hrstc]
    exact hb.state (hcalm hno)

theorem Cle.insert_length (c : Cle) (pos : Nat → Option Nat) (x : Claim) : (c.insert pos x).table.length ≤ c.table.length + 1 := by
  unfold Cle.insert
  split
  · exact Nat.le_succ _
  · split
    · exact (insertSorted_perm ..).length_eq.le
    · show (placeFootprint pos x c.table).length ≤ _
      unfold placeFootprint
      simp only [List.length_append, List.length_cons, List.length_take, List.length_drop]
      omega

/-! ### The blocks beside the Claim Engine, whatever the table (R59) -/

/-- With no order current the blocks beside the line, the station and the Claim Engine stay, and the table grows by at most `n`. -/
structure Dev.Grows (n : Nat) (d e : Dev) : Prop where
  frame : e.odo = d.odo ∧ e.peers = d.peers ∧ e.tmp = d.tmp ∧ e.stc.order = d.stc.order
  length : e.cle.table.length ≤ d.cle.table.length + n

namespace Dev.Grows

theorem of_apart (h : d.claimsApart e) (hlen : e.cle.table.length ≤ d.cle.table.length + n) : d.Grows n e := by
  obtain ⟨hodo, hstc, -, hpeers, -, htmp⟩ := Dev.claimsApart_frame h
  exact ⟨⟨hodo, hpeers, htmp, congrArg Stc.order hstc⟩, hlen⟩

theorem refl (d : Dev) : d.Grows 0 d := ⟨⟨rfl, rfl, rfl, rfl⟩, Nat.le_refl _⟩

theorem trans (h : d.Grows n e) (h' : e.Grows m f) : d.Grows (n + m) f := by
  obtain ⟨⟨hodo, hpeers, htmp, horder⟩, hlen⟩ := h
  obtain ⟨⟨hodo', hpeers', htmp', horder'⟩, hlen'⟩ := h'
  exact ⟨⟨hodo'.trans hodo, hpeers'.trans hpeers, htmp'.trans htmp, horder'.trans horder⟩, by omega⟩

/-- A conflict raised (R62, R158). -/
theorem raise (ho : d.stc.order = none) : d.Grows 0 (d.raise .occupancyConflict) := by
  by_cases hdeaf : d.deaf
  · rw [Dev.raise_deaf hdeaf]
    obtain ⟨_, _, _, heq, -⟩ := d.enterFault_changes .occupancyConflict
    rw [heq]
    exact ⟨⟨rfl, rfl, rfl, rfl⟩, Nat.le_refl _⟩
  · rw [Dev.raise_reacting_idle hdeaf ho]
    obtain ⟨hcle, hodo, hpeers, htmp, -, horder, -⟩ := d.stopping_same
    have hstopping : d.Grows 0 d.stopping := ⟨⟨hodo, hpeers, htmp, horder⟩, by rw [hcle]; exact Nat.le_refl _⟩
    refine hstopping.trans (m := 0) (of_apart ((claimWork_apart _).claimsAbort (Dev.claimsApart_refl _)) ?_)
    have hdropped : d.stopping.gatheringNone.dropUnheld.cle.table.length ≤ d.stopping.cle.table.length := by
      unfold Dev.dropUnheld Dev.dropClaims
      rw [Dev.tidyDeadlock_table]
      simp only [Dev.foldl_abandon_cle]
      exact List.length_filter_le _ _
    have hsettled : ∀ x : Dev, x.settleAbort.cle.table.length ≤ x.cle.table.length := fun x => by
      unfold Dev.settleAbort
      split
      · show x.releaseOutside.cle.table.length ≤ _
        rw [Dev.releaseOutside, Dev.releaseClaims_table]
        exact List.length_filter_le _ _
      · exact Nat.le_refl _
    rw [Dev.claimsAbort, Dev.event_table]
    exact (hsettled _).trans hdropped

theorem announceTaken (d : Dev) (k : Nat) (t : Ticket) : d.Grows 0 (d.announceTaken k t) :=
  of_apart ((claimWork_apart d).send _ _ _ d.claimsApart_refl) (by rw [Dev.announceTaken, Dev.send_cle]; exact Nat.le_refl _)

theorem requestPoints (d : Dev) (c : Claim) (keep : Bool) : d.Grows 0 (d.requestPoints c keep) := by
  obtain ⟨_, _, _, heq⟩ := d.requestPoints_changes c keep
  rw [heq]
  exact ⟨⟨rfl, rfl, rfl, rfl⟩, (List.length_map _).le⟩

theorem judgeHeldReport (d : Dev) (b : Bool) : d.Grows 0 (d.judgeHeldReport b) := by
  obtain ⟨_, _, _, _, heq⟩ := d.judgeHeldReport_changes b
  rw [heq]
  exact ⟨⟨rfl, rfl, rfl, rfl⟩, Nat.le_refl _⟩

theorem afterHeld (d : Dev) (k : Nat) : d.Grows 0 (d.afterHeld k) := by
  unfold Dev.afterHeld
  split
  · refine ite_keeps (P := d.Grows 0) (fun _ => ?_) (fun _ => ?_)
    · exact ite_keeps (P := d.Grows 0) (fun _ => requestPoints ..) (fun _ => refl d)
    · exact ite_keeps (P := d.Grows 0) (fun _ => judgeHeldReport ..) (fun _ => refl d)
  · exact refl d

theorem occupy (ho : d.stc.order = none) (k : Nat) : d.Grows 0 (d.occupy k) := by
  cases hc : d.cle.entry k with
  | none =>
    have hsame : d.occupy k = d := by
      unfold Dev.occupy
      simp only [hc]
    rw [hsame]
    exact refl d
  | some c =>
    rw [Dev.occupy_eq hc]
    obtain ⟨hapart, ⟨_, -, hcle⟩, -, -⟩ := d.markOccupied_marks c
    have hmarked : d.Grows 0 (d.markOccupied c) := of_apart hapart (by rw [hcle]; exact (List.length_map _).le)
    have horder : (d.markOccupied c).stc.order = none := hmarked.frame.2.2.2.trans ho
    generalize d.markOccupied c = x at hmarked horder
    have hjudged : x.Grows 0 (x.judgeConflict k) := ite_keeps (P := x.Grows 0) (fun _ => raise horder) (fun _ => refl x)
    exact ((hmarked.trans hjudged).trans (announceTaken ..)).trans (afterHeld ..)

/-- A section checked where the table has room. -/
theorem checkCovered {x : Covered} (ho : d.stc.order = none) (hroom : d.cle.table.length < 8) : d.Grows 1 (d.checkCovered x) := by
  have hsame : d.Grows 1 d := ⟨⟨rfl, rfl, rfl, rfl⟩, Nat.le_succ _⟩
  unfold Dev.checkCovered
  refine ite_keeps (P := d.Grows 1) (fun _ => hsame) (fun _ => ?_)
  split
  · exact ite_keeps (P := d.Grows 1) (fun _ => hsame) (fun _ => (occupy ho _).trans (m := 1) ⟨⟨rfl, rfl, rfl, rfl⟩, Nat.le_succ _⟩)
  · rw [if_pos (show d.cle.table.length < Config.maxClaims from hroom)]
    have hlen := d.cle.insert_length (placeIn d.trackOrder) (d.joinedAs x)
    let y : Dev := { d with cle := d.cle.insert (placeIn d.trackOrder) (d.joinedAs x) }
    have hy : d.Grows 1 y := ⟨⟨rfl, rfl, rfl, rfl⟩, hlen⟩
    exact hy.trans (occupy (d := y) ho x.sec)

theorem foldl (ho : d.stc.order = none) (xs : List Covered) (hroom : d.cle.table.length + xs.length ≤ 8) :
    d.Grows xs.length (xs.foldl Dev.checkCovered d) := by
  induction xs using List.reverseRecOn with
  | nil => exact refl d
  | append_singleton xs x ih =>
    rw [List.length_append, List.length_singleton] at hroom ⊢
    have h := ih (by omega)
    rw [List.foldl_append]
    exact h.trans (checkCovered (h.frame.2.2.2.trans ho) (by have := h.length; omega))

end Dev.Grows

theorem Dev.event_apart (act : Dev → Dev) (d : Dev) : (act d.gatheringNone).claimsApart (Dev.event act d) := by
  have h := claimWork_apart (act d.gatheringNone)
  unfold Dev.event
  exact h.sendRelease _ (h.sendRelease _ (h.cle _ (Dev.claimsApart_refl _)))

/-- A LOCATE's event leaves the blocks beside as they are, where the table has room (R59, R63). -/
theorem Dev.claimsLocated_frame (ho : d.stc.order = none) (hroom : d.cle.table.length + d.footprint.places.length ≤ 8) :
    d.claimsLocated.odo = d.odo ∧ d.claimsLocated.peers = d.peers ∧ d.claimsLocated.tmp = d.tmp ∧ d.claimsLocated.stc.order = d.stc.order := by
  let g := d.gatheringNone
  have hrealigned : g.Grows 0 g.realigned := ⟨⟨rfl, rfl, rfl, rfl⟩, (Dev.shrinks.realign_perm g.cle g.trackOrder).length_eq.le⟩
  have hunder : g.Grows g.footprint.places.length g.underChecked := by
    have h := hrealigned.trans (Dev.Grows.foldl (d := g.realigned) ho g.footprint.places (Nat.le_trans (Nat.add_le_add_right hrealigned.length _) hroom))
    rwa [Nat.zero_add] at h
  have hchecked : g.footprintCheck.odo = d.odo ∧ g.footprintCheck.peers = d.peers ∧ g.footprintCheck.tmp = d.tmp
      ∧ g.footprintCheck.stc.order = d.stc.order := by
    by_cases hact : (g.cle.active && g.odo.known) = true
    · obtain ⟨hodo, hpeers, htmp, horder⟩ := hunder.frame
      obtain ⟨hodo', hstc', -, hpeers', -, htmp'⟩ := Dev.claimsApart_frame
        ((claimWork_apart g.underChecked).refront g.frontIdx g.underChecked.claimsApart_refl)
      rw [Dev.footprintCheck_eq (Bool.and_eq_true_iff.mp hact).1 (Bool.and_eq_true_iff.mp hact).2]
      exact ⟨hodo'.trans hodo, hpeers'.trans hpeers, htmp'.trans htmp, (congrArg Stc.order hstc').trans horder⟩
    · rw [Dev.footprintCheck, if_neg hact]
      exact ⟨rfl, rfl, rfl, rfl⟩
  have hlocating : g.footprintCheck.claimsApart g.locating := by
    have h := claimWork_apart g.footprintCheck
    exact ite_keeps (fun _ => h.cle _ (h.releaseClaims _ (Dev.claimsApart_refl _))) (fun _ => Dev.claimsApart_refl _)
  obtain ⟨hodo, hpeers, htmp, horder⟩ := hchecked
  obtain ⟨hodo', hstc', -, hpeers', -, htmp'⟩ := Dev.claimsApart_frame hlocating
  obtain ⟨hodo'', hstc'', -, hpeers'', -, htmp''⟩ := Dev.claimsApart_frame (Dev.event_apart Dev.locating d)
  exact ⟨hodo''.trans (hodo'.trans hodo), hpeers''.trans (hpeers'.trans hpeers), htmp''.trans (htmp'.trans htmp),
    (congrArg Stc.order (hstc''.trans hstc')).trans horder⟩

end

end Sys2Proof.Machine

/-! SUPPORT. LOCATE: its refusals, and the record that it places (R37, R145, R157). -/

namespace Sys2Proof.Machine

section
variable {d e : Dev} {s : State} {f : Frame} {rest : List Frame} {console sec off : Nat} {dir : Direction}

theorem exec_locate (h : s.dev.passes f rest) (hk : f.kind = .locate) : exec .locate s = .next { s with
    dev := if f.toAll then (s.dev.takenIn f rest).orderToAll
      else (s.dev.takenIn f rest).takeLocateFields f.src (byteAt f.payload 0) (beAt f.payload 1 3) (Direction.ofCode (byteAt f.payload 4)) } := by
  have hexec : exec .locate s = s.becomes (s.dev.dispatch (Frame.isKind .locate) Dev.takeLocate) := rfl
  rw [hexec, State.becomes_eq]
  exact congrArg (fun d => Host.Outcome.next { s with dev := d }) (Dev.dispatch_console h (Frame.isKind_of hk) (fun d f =>
    if f.toAll then d.orderToAll
    else d.takeLocateFields f.src (byteAt f.payload 0) (beAt f.payload 1 3) (Direction.ofCode (byteAt f.payload 4))))

/-! ### The judgement (R37, R157) -/

/-- The states in which a LOCATE is refused BUSY (R157). -/
def Dev.underWay (d : Dev) : Prop :=
  d.stc.state = .running ∨ d.stc.state = .approach ∨ d.stc.state = .docking

/-- What STC does with the placed part (R157). -/
def Dev.locateDone (d : Dev) (console : Nat) : Dev :=
  (if d.stc.state == .noPosition && d.odo.known then d.enterState .standing else d).orderReport console .locate 0 .accepted

theorem Dev.takeLocateFields_busy (h : d.underWay) : d.takeLocateFields console sec off dir = d.orderReport console .locate 0 (.refused .busy) := by
  unfold Dev.takeLocateFields
  obtain h | h | h := h <;> rw [h]

/-- What comes of ODO's judgement (R157). -/
def Dev.locateJudged (d : Dev) (console : Nat) : Except RefuseReason Dev → Dev
  | .error r => d.orderReport console .locate 0 (.refused r)
  | .ok x => x.locateDone console

theorem Dev.takeLocateFields_judged (h : ¬d.underWay) : d.takeLocateFields console sec off dir
    = (d.bump .locatesHanded).locateJudged console ((d.bump .locatesHanded).locate sec off dir) := by
  unfold Dev.underWay at h
  unfold Dev.takeLocateFields
  cases hs : d.stc.state
  case running => exact absurd (.inl hs) h
  case approach => exact absurd (.inr (.inl hs)) h
  case docking => exact absurd (.inr (.inr hs)) h
  all_goals
    simp only
    generalize (d.bump .locatesHanded).locate sec off dir = r
    cases r <;> rfl

theorem Dev.takeLocateFields_refused {r : RefuseReason} (h : ¬d.underWay) (hr : (d.bump .locatesHanded).locate sec off dir = .error r) :
    d.takeLocateFields console sec off dir = (d.bump .locatesHanded).orderReport console .locate 0 (.refused r) := by
  rw [Dev.takeLocateFields_judged h, hr]
  rfl

theorem Dev.takeLocateFields_placed {x : Dev} (h : ¬d.underWay) (hr : (d.bump .locatesHanded).locate sec off dir = .ok x) :
    d.takeLocateFields console sec off dir = x.locateDone console := by
  rw [Dev.takeLocateFields_judged h, hr]
  rfl

/-- A plain section of the map, and an offset strictly inside it (R37). -/
def Dev.insidePlain (d : Dev) (sec off : Nat) : Prop :=
  ∃ r, findSection d.tmp.sections sec = some r ∧ r.kind = .plain ∧ 0 < off ∧ off < r.length

theorem Dev.locate_held (h : d.odo.known = true) : d.locate sec off dir = .error .positionHeld := by
  rw [Dev.locate, if_pos h]

theorem Dev.locate_moving (h : ¬d.odo.known = true) (hs : d.odo.standstill = false) : d.locate sec off dir = .error .notStandstill := by
  rw [Dev.locate, if_neg h, if_pos (by rw [hs]; rfl)]

theorem Dev.locate_invalid (h : ¬d.odo.known = true) (hs : d.odo.standstill = true) (hin : ¬d.insidePlain sec off) :
    d.locate sec off dir = .error .locateInvalid := by
  rw [Dev.locate, if_neg h, if_neg (by rw [hs]; decide)]
  cases hr : findSection d.tmp.sections sec with
  | none => rfl
  | some r =>
    refine if_pos ?_
    by_contra hno
    simp only [Bool.or_eq_true, beq_iff_eq, decide_eq_true_eq, not_or] at hno
    obtain ⟨⟨hkind, hzero⟩, hlen⟩ := hno
    refine hin ⟨r, hr, ?_, Nat.pos_of_ne_zero hzero, Nat.not_le.mp hlen⟩
    cases hk : r.kind with
    | plain => rfl
    | points => exact absurd hk hkind

/-- The record that a LOCATE gives (R37). -/
def Dev.locateRecord (d : Dev) (sec off : Nat) (dir : Direction) : PositionRec :=
  { PositionRec.reset with validity := .restricted, sec := sec, offset := off * 1000, dir := dir, uAnchor := d.tmp.carriage.locateUnc * 1000 }

/-- The part with the record placed, before CLE takes it (R37). -/
def Dev.placing (d : Dev) (sec off : Nat) (dir : Direction) : Dev :=
  (((d.turn dir).withPos (d.locateRecord sec off dir)).recompute 0 0).findDue

theorem Dev.locate_placed (h : ¬d.odo.known = true) (hs : d.odo.standstill = true) (hin : d.insidePlain sec off) :
    d.locate sec off dir = .ok (d.placing sec off dir).claimsLocated := by
  obtain ⟨r, hr, hkind, hzero, hlen⟩ := hin
  rw [Dev.locate, if_neg h, if_neg (by rw [hs]; decide), hr]
  refine (if_neg ?_).trans ?_
  · simp only [Bool.or_eq_true, beq_iff_eq, decide_eq_true_eq, not_or]
    exact ⟨⟨by rw [hkind]; decide, hzero.ne'⟩, Nat.not_le.mpr hlen⟩
  · rfl

/-! ### The record placed -/

theorem Dev.turn_changes (d : Dev) (dir : Direction) : ∃ (o : Odo) (b : Bdu) (cs : List (BitVec 16)),
    d.turn dir = { d with odo := o, bdu := b, counters := cs } ∧ o.standstill = d.odo.standstill := by
  unfold Dev.turn Dev.reverseLine
  split
  · exact ⟨_, _, _, rfl, rfl⟩
  · split
    · exact ⟨_, _, _, rfl, rfl⟩
    · exact ⟨_, _, _, rfl, rfl⟩

/-- With its uncertainty below the cap the record is held as it was given. -/
theorem Dev.placing_changes (hu : d.tmp.carriage.locateUnc * 1000 < Config.uncertaintyCap) : ∃ (o : Odo) (b : Bdu) (cs : List (BitVec 16)),
    d.placing sec off dir = { d with odo := o, bdu := b, counters := cs } ∧ o.standstill = d.odo.standstill
      ∧ o.pos = { d.locateRecord sec off dir with unc := d.tmp.carriage.locateUnc * 1000 } := by
  obtain ⟨o, b, cs, hturn, hstand⟩ := d.turn_changes dir
  have hrecord : ((d.turn dir).withPos (d.locateRecord sec off dir)).recompute 0 0
      = ((d.turn dir).withPos (d.locateRecord sec off dir)).withPos { d.locateRecord sec off dir with unc := d.tmp.carriage.locateUnc * 1000 } :=
    Dev.recompute_within rfl (Dev.uncertainty_none _ _) hu
  rw [Dev.placing, hrecord, hturn]
  exact ⟨_, _, _, rfl, hstand, rfl⟩

/-- The report of a LOCATE joins a queue with room (R173). -/
theorem Dev.orderReport_queued (hroom : d.lif.hasRoom) (r : ReportRequest) (n : Nat) (o : ReportOutcome) :
    ⟨.orderReport, console, orderReportPayload r n o, 0, none, false⟩ ∈ (d.orderReport console r n o).lif.queue := by
  show _ ∈ (Dev.enqueue _ _ _ _ _).1.lif.queue
  rw [Dev.enqueue_of_room hroom rfl]
  exact Lif.mem_place ..

/-- What STC does with the placed part leaves its claims, its record, the peers and the map (R157). -/
theorem Dev.locateDone_changes (hk : d.odo.known = true) (console : Nat) :
    ((d.locateDone console).odo = d.odo ∧ (d.locateDone console).cle = d.cle ∧ (d.locateDone console).peers = d.peers
      ∧ (d.locateDone console).tmp = d.tmp)
      ∧ (d.locateDone console).stc.state = (if d.stc.state = .noPosition then .standing else d.stc.state)
      ∧ Dev.adds 1 d (d.locateDone console)
      ∧ (d.lif.hasRoom → ⟨.orderReport, console, orderReportPayload .locate 0 .accepted, 0, none, false⟩ ∈ (d.locateDone console).lif.queue) := by
  let x : Dev := if d.stc.state == .noPosition && d.odo.known then d.enterState .standing else d
  have hx : (x.odo = d.odo ∧ x.cle = d.cle ∧ x.peers = d.peers ∧ x.tmp = d.tmp) ∧ x.stc.state = (if d.stc.state = .noPosition then .standing else d.stc.state)
      ∧ x.lif.queue = d.lif.queue ∧ x.lif.active = d.lif.active := by
    by_cases hs : d.stc.state = .noPosition
    · have hxe : x = d.enterState .standing := if_pos (by rw [hs, hk]; rfl)
      obtain ⟨_, _, _, _, _, heq⟩ := d.enterState_changes .standing
      rw [hxe, if_pos hs, heq]
      exact ⟨⟨rfl, rfl, rfl, rfl⟩, rfl, rfl, rfl⟩
    · have hxd : x = d := if_neg (by simp [hs])
      rw [hxd, if_neg hs]
      exact ⟨⟨rfl, rfl, rfl, rfl⟩, rfl, rfl, rfl⟩
  have hdone : d.locateDone console = x.orderReport console .locate 0 .accepted := rfl
  obtain ⟨⟨hodo, hcle, hpeers, htmp⟩, hstate, hqueue, hactive⟩ := hx
  have hadds : Dev.adds 1 x (x.orderReport console .locate 0 .accepted) := Dev.adds.send ..
  have hqueued := Dev.orderReport_queued (d := x) (console := console) (r := .locate) (n := 0) (o := .accepted)
  obtain ⟨_, _, _, heq⟩ := x.enqueue_line .orderReport console (orderReportPayload .locate 0 .accepted) none
  have hsent : x.orderReport console .locate 0 .accepted = _ := heq
  rw [hdone]
  have hkeeps : (x.orderReport console .locate 0 .accepted).odo = x.odo ∧ (x.orderReport console .locate 0 .accepted).cle = x.cle
      ∧ (x.orderReport console .locate 0 .accepted).peers = x.peers ∧ (x.orderReport console .locate 0 .accepted).tmp = x.tmp
      ∧ (x.orderReport console .locate 0 .accepted).stc = x.stc := by
    rw [hsent]
    exact ⟨rfl, rfl, rfl, rfl, rfl⟩
  obtain ⟨hodo', hcle', hpeers', htmp', hstc'⟩ := hkeeps
  obtain ⟨hact, hlen, hstays⟩ := hadds
  rw [hqueue] at hlen hstays
  rw [hactive] at hact
  exact ⟨⟨hodo'.trans hodo, hcle'.trans hcle, hpeers'.trans hpeers, htmp'.trans htmp⟩, (congrArg Stc.state hstc').trans hstate, ⟨hact, hlen, hstays⟩,
    fun ⟨ha, hl⟩ => hqueued ⟨hactive.trans ha, by rw [hqueue]; exact hl⟩⟩

/-- The footprint of the record that a LOCATE gives (R13, R37). -/
def Dev.locateFootprint (d : Dev) (sec off : Nat) (dir : Direction) : Footprint :=
  footprintOf d.tmp.sections [] { sec := sec, leg := .plain, offset := off * 1000, dir := dir, idx := none }
    (d.tmp.carriage.length * 500 + d.tmp.carriage.locateUnc * 1000)

/-- What a LOCATE that is taken leaves (R37, R63, R80, R157). -/
theorem Dev.locate_places {r : PositionRec} (hs : d.odo.standstill = true) (ho : d.stc.order = none)
    (hu : d.tmp.carriage.locateUnc * 1000 < Config.uncertaintyCap) (hroom : d.cle.table.length + (d.locateFootprint sec off dir).sections.length ≤ 8)
    (hr : r = { d.locateRecord sec off dir with unc := d.tmp.carriage.locateUnc * 1000 }) :
    let x := ((d.placing sec off dir).claimsLocated).locateDone console
    let under := (d.locateFootprint sec off dir).sections
    let unheld := d.cle.table.countP (fun c => !c.isHeld)
    let off := (d.cle.table.filter (fun c => c.isHeld && !under.contains c.sec)).map (·.sec)
    x.odo.pos = r ∧ x.peers = d.peers ∧ x.tmp = d.tmp
      ∧ (d.cle.ok → (d.cle.active = true → ∀ n ∈ under, x.cle.holds n = true)
        ∧ x.cle.abortPending = false ∧ (∀ c ∈ x.cle.table, c.isHeld = true → c.sec ∈ under)
        ∧ (∀ c ∈ d.cle.table, c.isHeld = true → c.sec ∈ under → c ∈ x.cle.table)
        ∧ (off ≠ [] → d.lif.active = true → d.lif.queue.length + under.length + 2 * unheld + 3 ≤ 8 → ∃ y ∈ x.lif.queue, y.kind = .release
          ∧ y.dest = 0 ∧ y.payload = BitVec.ofNat 8 off.length :: off.map (BitVec.ofNat 8))
        ∧ (d.lif.active = true → d.lif.queue.length + under.length + 2 * unheld + 3 ≤ 8 → ∃ y ∈ x.lif.queue, y.kind = .orderReport
          ∧ y.dest = console ∧ y.payload = orderReportPayload .locate 0 .accepted)
        ∧ ((∀ n ∈ under, ∀ q b, d.blocked n = some (q, b) → b = .intent) →
          x.stc.state = if d.stc.state = .noPosition then .standing else d.stc.state)) := by
  intro x under unheld off'
  obtain ⟨o, b, cs, hplacing, hstand, hpos⟩ := d.placing_changes (sec := sec) (off := off) (dir := dir) hu
  generalize hy : d.placing sec off dir = y at hplacing
  have hodo : y.odo.pos = r := by rw [hplacing, hr]; exact hpos
  have hk : y.odo.known = true := by rw [Odo.known, hodo, hr]; rfl
  have hys : y.odo.standstill = true := by rw [hplacing]; exact hstand.trans hs
  have hyo : y.stc.order = none := by rw [hplacing]; exact ho
  have hfoot : y.footprint = d.locateFootprint sec off dir := by
    unfold Dev.footprint Dev.routeEntries
    rw [hyo, hodo, hr, hplacing]
    rfl
  have hsecs : y.footprint.sections = under := by rw [hfoot]
  have hroomy : y.cle.table.length + y.footprint.sections.length ≤ 8 := by
    rw [hsecs, hplacing]
    exact hroom
  obtain ⟨hzodo, hzpeers, hztmp, -⟩ := Dev.claimsLocated_frame hyo (Nat.le_trans (Nat.add_le_add_left (List.length_map _).ge _) hroomy)
  obtain ⟨⟨hxodo, hxcle, hxpeers, hxtmp⟩, hxstate, hadds, hqueued⟩ := Dev.locateDone_changes (d := y.claimsLocated)
    (by rw [hzodo]; exact hk) console
  have hx : x = y.claimsLocated.locateDone console := congrArg (fun z : Dev => z.claimsLocated.locateDone console) hy
  rw [hx]
  refine ⟨by rw [hxodo, hzodo, hodo], by rw [hxpeers, hzpeers, hplacing], by rw [hxtmp, hztmp, hplacing], fun hok => ?_⟩
  have hlocated := Dev.claimsLocated_located (d := y) (by rw [hplacing]; exact hok) hk hys hyo hroomy
  have hunder : ∀ n, y.underOwn n = under.contains n := fun n => by
    rw [Dev.underOwn, hk, Bool.true_and, Bool.eq_iff_iff, Footprint.covers_iff, hsecs]
    simp
  have hout : (y.cle.table.filter y.outside).map (·.sec) = off' := by
    have houtside : y.outside = fun c => c.isHeld && !under.contains c.sec := funext fun c => by rw [Dev.outside, hunder]
    rw [houtside, hplacing]
  generalize y.claimsLocated = z at hlocated hxodo hxcle hxstate hadds hqueued
  obtain ⟨-, hheld, hpending, hin, hkept, hzadds, hrelease, hstate⟩ := hlocated
  have hunheld : y.unheldCount = unheld := by rw [Dev.unheldCount, hplacing]
  rw [hsecs, hunheld] at hzadds hrelease
  rw [hsecs] at hheld hin hkept hstate
  have hcle : y.cle = d.cle := by rw [hplacing]
  have hlif : y.lif = d.lif := by rw [hplacing]
  rw [hcle] at hheld hkept
  rw [hlif] at hrelease
  rw [hxcle]
  refine ⟨hheld, hpending, hin, hkept, fun hne ha hlen => ?_, fun ha hlen => ?_, fun hno => ?_⟩
  · have hne' : y.cle.table.filter y.outside ≠ [] := fun hnil => hne (by rw [← hout, hnil]; rfl)
    obtain ⟨f, hf, hkind, hdest, hp⟩ := (hrelease hne' ha hlen).of_adds hadds
    exact ⟨f, hf, hkind, hdest, by rw [hp, hout]⟩
  · exact ⟨_, hqueued (hzadds.room (by rw [hlif]; exact ha) (by rw [hlif]; omega)), rfl, rfl, rfl⟩
  · have hcalm : ∀ k ∈ under, y.conflicts k = false := fun k hk => by
      rw [Bool.eq_false_iff]
      intro hc
      obtain ⟨q, b, hb, hne⟩ := (Dev.conflicts_iff ..).mp hc
      rw [hplacing] at hb
      exact hne (hno k hk q b hb)
    rw [hxstate, hstate hcalm, hplacing]

end

/-- Settles O40: the refusals are R157's judgement, and what is placed is what CLE's event at the LOCATE leaves, with STC's state and
report after it. -/
theorem locateIsJudged : Obligations.LocateIsJudged := by
  intro s f rest d sec off dir hpasses hkind e u unheld moving inside handed
  have hexec := exec_locate hpasses hkind
  have hall : f.toAll = true ↔ f.dest = 0 := by simp [Frame.toAll]
  have htaken : f.dest ≠ 0 → exec .locate s = .next { s with dev := e.takeLocateFields f.src sec off dir } := fun hd =>
    hexec.trans (congrArg (fun d => Host.Outcome.next { s with dev := d }) (if_neg (mt hall.mp hd)))
  have hrefused : ∀ r, f.dest ≠ 0 → ¬moving → (e.bump .locatesHanded).locate sec off dir = .error r → handed r := fun r hd hm hr =>
    (htaken hd).trans (congrArg (fun d => Host.Outcome.next { s with dev := d }) (Dev.takeLocateFields_refused hm hr))
  have hunknown : e.odo.pos.validity = .unknown → ¬(e.bump .locatesHanded).odo.known = true := fun hv hk => (e.odo.known_iff.mp hk) hv
  refine ⟨fun hd => hexec.trans (congrArg (fun d => Host.Outcome.next { s with dev := d }) (if_pos (hall.mpr hd))),
    fun hd hm => (htaken hd).trans (congrArg (fun d => Host.Outcome.next { s with dev := d }) (Dev.takeLocateFields_busy hm)),
    fun hd hm hv => hrefused _ hd hm (Dev.locate_held (e.odo.known_iff.mpr hv)),
    fun hd hm hv hs => hrefused _ hd hm (Dev.locate_moving (hunknown hv) hs),
    fun hd hm hv hs hin => hrefused _ hd hm (Dev.locate_invalid (hunknown hv) hs hin), fun hd hm hv hs hin ho hu hroom => ?_⟩
  have hplaced := (htaken hd).trans (congrArg (fun d => Host.Outcome.next { s with dev := d })
    (Dev.takeLocateFields_placed hm (Dev.locate_placed (hunknown hv) hs hin)))
  exact ⟨_, hplaced, Dev.locate_places (d := e.bump .locatesHanded) hs ho hu hroom rfl⟩

end Sys2Proof.Machine

/-! SUPPORT. The claim table keeps its limits in every shared operation, and what the Claim Engine's own work does to the frames of others
(R57, R58, R173). -/

namespace Sys2Proof.Machine

/-- The claim table keeps its limits and its order in every operation that the blocks share. -/
theorem inner_cleOk : Inner fun d => d.cle.ok where
  counters _ h := h
  freeCount _ h := h
  enqueue _ _ _ _ h := (Dev.enqueue_cle ..).symm ▸ h
  withdraw _ h := h
  faults _ _ h := h
  cle _ _ hc h := hc h
  odo _ _ _ h := h
  place _ h := h
  orderSpeed h := h
  dkc _ _ h := h
  stc _ _ h := h
  settle h := h
  zeroDemand h := h
  stopTrain h := by
    unfold Dev.stopTrain
    simp only
    split <;> exact h
  setLatch l h := by
    obtain ⟨_, _, _, heq⟩ := Dev.setLatch_changes _ l
    rw [heq]
    exact h
  clamps _ _ _ h := h
  turn _ _ h := h
  enterState s h := (Dev.enterState_cle _ s).symm ▸ h

/-- From `d` to `e` at most `n` frames have joined the queue, none of them an ORDER-REPORT, no frame but an INTENT has left it while there
was room, and the route view is the same. -/
structure Dev.Mails (n : Nat) (d e : Dev) : Prop where
  view : e.cle.view = d.cle.view
  active : e.lif.active = d.lif.active
  length : e.lif.queue.length ≤ d.lif.queue.length + n
  reports : ∀ y ∈ e.lif.queue, y.kind = .orderReport → y ∈ d.lif.queue
  stays : d.lif.active = true → d.lif.queue.length + n ≤ 8 → ∀ y ∈ d.lif.queue, y.kind ≠ .intent → y ∈ e.lif.queue

namespace Dev.Mails
variable {d e f : Dev} {n m sec : Nat} {l : List Nat}

theorem of_lif (hv : e.cle.view = d.cle.view) (h : e.lif = d.lif) : d.Mails 0 e :=
  ⟨hv, by rw [h], by rw [h]; exact Nat.le_refl _, fun _ hy _ => h ▸ hy, fun _ _ _ hy _ => h.symm ▸ hy⟩

theorem refl (d : Dev) : d.Mails 0 d := of_lif rfl rfl

theorem mono (h : d.Mails n e) (hle : n ≤ m) : d.Mails m e :=
  ⟨h.view, h.active, h.length.trans (Nat.add_le_add_left hle _), h.reports, fun ha hl => h.stays ha (by omega)⟩

theorem trans (h : d.Mails n e) (h' : e.Mails m f) : d.Mails (n + m) f := by
  have hlen := h.length
  have hlen' := h'.length
  refine ⟨h'.view.trans h.view, h'.active.trans h.active, by omega, fun y hy hk => h.reports y (h'.reports y hy hk) hk, fun ha hl y hy hk => ?_⟩
  exact h'.stays (h.active.trans ha) (by omega) y (h.stays ha (by omega) y hy hk) hk

/-- The same, where the claims and the blocks beside the line were changed first. -/
theorem from_lif (h : d.Mails n e) (hl : d.lif = f.lif) (hv : d.cle.view = f.cle.view) : f.Mails n e := by
  obtain ⟨hview, hact, hlen, hreports, hstays⟩ := h
  rw [hl] at hact hlen hreports hstays
  exact ⟨hview.trans hv, hact, hlen, hreports, hstays⟩

theorem to_lif (h : d.Mails n e) (hl : f.lif = e.lif) (hv : f.cle.view = e.cle.view) : d.Mails n f := by
  obtain ⟨hview, hact, hlen, hreports, hstays⟩ := h
  rw [← hl] at hact hlen hreports hstays
  exact ⟨hv.trans hview, hact, hlen, hreports, hstays⟩

theorem enqueue {k : FrameKind} (hk : k ≠ .orderReport) (d : Dev) (dst : Nat) (b : List Byte) (t : Option Nat) : d.Mails 1 (d.enqueue k dst b t).1 := by
  have hview : (d.enqueue k dst b t).1.cle.view = d.cle.view := by rw [Dev.enqueue_cle]
  have hadds := Dev.adds.enqueue d k dst b t
  refine ⟨hview, hadds.active, hadds.length, ?_, fun ha hl y hy _ => ?_⟩
  · have hplaced : ∀ (x : Lif) (q : TxEntry), q.kind = k → (∀ y ∈ x.queue, y ∈ d.lif.queue) → ∀ y ∈ (x.place q).queue, y.kind = .orderReport → y ∈ d.lif.queue :=
      fun x q hq hx y hy hkind => by
        rw [Lif.place_queue, mem_insertSorted] at hy
        obtain rfl | hy := hy
        · exact absurd (hq.symm.trans hkind) hk
        · exact hx y hy
    unfold Dev.enqueue
    simp only
    split
    · exact fun y hy _ => hy
    · split
      · exact fun y hy _ => hy
      · split
        · exact hplaced d.lif ⟨k, dst, b, 0, t, false⟩ rfl fun y hy => hy
        · split
          · next q hq => exact hplaced { d.lif with queue := q } ⟨k, dst, b, 0, t, false⟩ rfl fun y hy => (makeRoom_eq_some hq).1.subset hy
          · exact fun y hy _ => hy
  · unfold Dev.enqueue
    simp only
    split
    · exact hy
    · split
      · exact hy
      · rw [if_pos (show d.lif.queue.length < Config.maxQueue from by show _ < 8; omega), Lif.place_queue, mem_insertSorted]
        exact .inr hy

theorem send {k : FrameKind} (hk : k ≠ .orderReport) (d : Dev) (dst : Nat) (b : List Byte) : d.Mails 1 (d.send k dst b) := enqueue hk d dst b none

theorem withdraw (d : Dev) (tag : Nat) : d.Mails 0 (d.withdraw tag) := by
  have hadds := Dev.adds.withdraw d tag
  refine ⟨rfl, hadds.active, hadds.length, fun y hy _ => ?_, fun _ _ y hy hk => ?_⟩
  · rw [Dev.withdraw, Outer.follow_queue] at hy
    exact List.mem_of_mem_filter hy
  · rw [Dev.withdraw, Outer.follow_queue]
    refine List.mem_filter.mpr ⟨hy, ?_⟩
    rw [beq_false_of_ne hk]
    rfl

theorem abandon (d : Dev) (c : Claim) : d.Mails 0 (d.abandon c) := by
  unfold Dev.abandon
  split
  · exact withdraw d _
  all_goals exact refl d

theorem foldl_abandon (l : List Claim) (d : Dev) : d.Mails 0 (l.foldl Dev.abandon d) := by
  induction l generalizing d with
  | nil => exact refl d
  | cons c l ih => exact (abandon d c).trans (ih _)

theorem tidyDeadlock (d : Dev) : d.Mails 0 d.tidyDeadlock :=
  of_lif (by obtain h | h := d.tidyDeadlock_cle <;> rw [h]) (Dev.tidyDeadlock_lif d)

theorem endDeadlock (d : Dev) : d.Mails 0 d.endDeadlock := of_lif (by rw [Dev.endDeadlock_cle]) d.endDeadlock_lif

theorem dropClaims (d : Dev) (p : Claim → Bool) : d.Mails 0 (d.dropClaims p) := by
  have h := foldl_abandon (d.cle.table.filter p) d
  have h' : d.Mails 0 { (d.cle.table.filter p).foldl Dev.abandon d with
      cle := { ((d.cle.table.filter p).foldl Dev.abandon d).cle with
        table := ((d.cle.table.filter p).foldl Dev.abandon d).cle.table.filter (fun e => !p e) } } := h.to_lif rfl rfl
  exact h'.trans (tidyDeadlock _)

theorem sendRelease (d : Dev) (secs : List Nat) : d.Mails 1 (d.sendRelease secs) := by
  unfold Dev.sendRelease
  refine ite_keeps (P := d.Mails 1) (fun _ => (refl d).mono (Nat.zero_le _)) (fun _ => ?_)
  exact ((enqueue (k := .release) (by decide) { d with cle := { d.cle with nextTag := d.cle.nextTag + 1 } } 0 (releasePayload secs)
    (some d.cle.nextTag)).from_lif (f := d) rfl rfl).to_lif rfl rfl

theorem announceRelease (d : Dev) (secs : List Nat) : d.Mails 1 (d.announceRelease secs) := by
  unfold Dev.announceRelease
  split
  · exact mono (n := 0) (of_lif rfl rfl) (Nat.zero_le _)
  · exact sendRelease d secs

/-- Within an event nothing is queued for what is given back (R81). -/
theorem announceRelease_gathered (hg : d.cle.gathering = some l) (secs : List Nat) : d.Mails 0 (d.announceRelease secs) := by
  unfold Dev.announceRelease
  simp only [hg]
  exact of_lif rfl rfl

theorem releaseClaims (d : Dev) (p : Claim → Bool) : d.Mails 1 (d.releaseClaims p) := by
  have h := announceRelease { d with cle := { d.cle with table := d.cle.table.filter (fun e => !(e.isHeld && p e)) } }
    ((d.cle.table.filter (fun e => e.isHeld && p e)).map (·.sec))
  exact (h.from_lif (f := d) rfl rfl).trans (tidyDeadlock _)

theorem releaseClaims_gathered (hg : d.cle.gathering = some l) (p : Claim → Bool) : d.Mails 0 (d.releaseClaims p) := by
  have h := announceRelease_gathered (d := { d with cle := { d.cle with table := d.cle.table.filter (fun e => !(e.isHeld && p e)) } }) hg
    ((d.cle.table.filter (fun e => e.isHeld && p e)).map (·.sec))
  exact (h.from_lif (f := d) rfl rfl).trans (tidyDeadlock _)

theorem surrenderFrom (d : Dev) (k : Nat) : d.Mails 1 (d.surrenderFrom k) := by
  have h := foldl_abandon (d.cle.table.filter (d.yields k)) d
  unfold Dev.surrenderFrom
  simp only
  generalize (d.cle.table.filter (d.yields k)).foldl Dev.abandon d = x at h ⊢
  have hopen : ∀ t : List Claim, d.Mails 0 { x with cle := { x.cle with table := t } } := fun t => h.to_lif rfl rfl
  exact ((hopen _).trans (announceRelease _ _)).trans (tidyDeadlock _)

theorem updateClaim (d : Dev) (k : Nat) (g : Claim → Claim) : d.Mails 0 (d.updateClaim k g) := of_lif rfl rfl

theorem raiseDeadlock (d : Dev) (p : Nat) : d.Mails 1 (({ d with cle := { d.cle with deadlock := some p } } : Dev).raise .deadlock) := by
  let x : Dev := { d with cle := { d.cle with deadlock := some p } }
  have hx : (x.raise .deadlock) = x.enterFault .deadlock := Dev.raise_of_warn (k := .deadlock) rfl x
  obtain ⟨_, _, _, heq, -⟩ := x.enterFault_changes .deadlock
  show d.Mails 1 (x.raise .deadlock)
  rw [hx, heq]
  by_cases hnew : x.faultActive .deadlock = false ∧ x.lif.hasRoom
  · rw [if_pos hnew]
    refine ⟨rfl, by rw [Lif.place_eq], (Lif.place_length ..).le, fun y hy hk => ?_, fun _ _ y hy _ => ?_⟩
    · rw [Lif.place_queue, mem_insertSorted] at hy
      obtain rfl | hy := hy
      · cases hk
      · exact hy
    · rw [Lif.place_queue, mem_insertSorted]
      exact .inr hy
  · rw [if_neg hnew]
    exact mono (n := 0) (of_lif rfl rfl) (Nat.zero_le _)

theorem mutualYield (d : Dev) (t : Claim) (p : Nat) : d.Mails 1 (d.mutualYield t p) := by
  unfold Dev.mutualYield
  split
  · exact (releaseClaims d _).to_lif rfl rfl
  · next k _ =>
    have hyielded : d.Mails 1 ((d.surrenderFrom k).raiseLoss.bump .mutualYields).endDeadlock :=
      ((surrenderFrom d k).to_lif (f := (d.surrenderFrom k).raiseLoss.bump .mutualYields) rfl rfl).trans (endDeadlock _)
    exact ite_keeps (P := d.Mails 1) (fun _ => hyielded.trans (updateClaim _ _ _)) (fun _ => hyielded)

theorem examineMutual (d : Dev) : d.Mails 1 d.examineMutual := by
  have hsame : ∀ x : Dev, x.Mails 1 x := fun x => (refl x).mono (Nat.zero_le _)
  unfold Dev.examineMutual
  split
  · next p b _ _ =>
    have hother : d.Mails 0 (if d.cle.deadlock.any (fun q => q != p) then d.endDeadlock else d) :=
      ite_keeps (P := d.Mails 0) (fun _ => endDeadlock d) (fun _ => refl d)
    simp only
    generalize (if d.cle.deadlock.any (fun q => q != p) then d.endDeadlock else d) = x at hother ⊢
    have hx : ∀ {y : Dev}, x.Mails 1 y → d.Mails 1 y := fun h => (hother.trans h).mono (by omega)
    split
    · exact ite_keeps (P := d.Mails 1) (fun _ => hx ((endDeadlock x).mono (Nat.zero_le _))) (fun _ => hx (hsame x))
    · next t _ =>
      refine ite_keeps (P := d.Mails 1) (fun _ => hx (hsame x)) (fun _ => ite_keeps (P := d.Mails 1) (fun _ => hx (raiseDeadlock x p)) (fun _ => ?_))
      exact ite_keeps (P := d.Mails 1) (fun _ => hx (mutualYield x t p)) (fun _ => hx (hsame x))
  · exact hsame d

theorem contend (d : Dev) (c : Claim) : d.Mails 1 (d.contend c) := by
  have hsent := (enqueue (k := .intent) (by decide) (({ d with cle := { d.cle with nextTag := d.cle.nextTag + 1 } } : Dev).bump .contentionsStarted)
    0 (ticketPayload c.sec d.currentTicket) (some d.cle.nextTag)).from_lif (f := d) rfl rfl
  exact ite_keeps (P := d.Mails 1) (fun _ => hsent.trans (updateClaim _ _ _)) (fun _ => hsent.to_lif rfl rfl)

/-- An examination of the front entry queues one frame at most (R66). -/
theorem examineFront (d : Dev) : d.Mails 1 d.examineFront := by
  have hsame : d.Mails 1 d := (refl d).mono (Nat.zero_le _)
  unfold Dev.examineFront
  split
  · exact (tidyDeadlock d).mono (Nat.zero_le _)
  · next c _ =>
    refine ite_keeps (P := d.Mails 1) (fun _ => (dropClaims d _).mono (Nat.zero_le _)) (fun _ => ?_)
    refine ite_keeps (P := d.Mails 1) (fun _ => ((updateClaim d _ _).trans (tidyDeadlock _)).mono (by omega)) (fun _ => ?_)
    have hfound : d.Mails 1 (match d.blocked c.sec with
        | some (p, b) =>
          if c.state = .blocked p b none then d
          else (d.updateClaim c.sec (fun e => { e with state := .blocked p b none })).examineMutual
        | none => (d.contend c).tidyDeadlock) := by
      split
      · exact ite_keeps (P := d.Mails 1) (fun _ => hsame) (fun _ => ((updateClaim d _ _).trans (examineMutual _)).mono (by omega))
      · exact (contend d c).trans (tidyDeadlock _)
    split
    · exact hsame
    · exact hsame
    · exact hsame
    · exact hfound
    · exact hfound

theorem refront (d : Dev) (old : Option (Option Nat)) : d.Mails 1 (d.refront old) :=
  ite_keeps (P := d.Mails 1) (fun _ => examineFront d) (fun _ => (refl d).mono (Nat.zero_le _))

theorem requestPoints (d : Dev) (c : Claim) (keep : Bool) : d.Mails 1 (d.requestPoints c keep) := by
  have h : d.Mails 1 (d.sendPointsRequest c) := by
    unfold Dev.sendPointsRequest
    split
    · exact send (by decide) d _ _
    · exact (refl d).mono (Nat.zero_le _)
  exact h.to_lif rfl rfl

end Dev.Mails

end Sys2Proof.Machine

/-! SUPPORT. The table rebuilt for an order's route (R64). -/

namespace Sys2Proof.Machine

section
variable {d e f : Dev} {n m : Nat} {v : RouteView}

/-- A step of the rebuilding: the Claim Engine's own work alone, nothing given back, at most `n` frames queued. -/
structure Dev.Builds (n : Nat) (d e : Dev) : Prop where
  apart : d.claimsApart e
  mails : d.Mails n e
  ok : e.cle.ok
  shrinks : d.shrinks e
  gathering : e.cle.gathering = d.cle.gathering
  length : e.cle.table.length ≤ d.cle.table.length
  holds : ∀ k, d.cle.holds k = true → e.cle.holds k = true
  held : d.cle.allHeld → e.cle.allHeld

theorem Dev.claimsApart_trans (h : d.claimsApart e) (h' : e.claimsApart f) : d.claimsApart f := by
  obtain ⟨_, _, _, _, _, rfl, hfs⟩ := h
  obtain ⟨_, _, _, _, _, rfl, hfs'⟩ := h'
  exact ⟨_, _, _, _, _, rfl, fun k hk => (hfs' k hk).trans (hfs k hk)⟩

namespace Dev.Builds

theorem refl (hok : d.cle.ok) : d.Builds 0 d :=
  ⟨d.claimsApart_refl, Dev.Mails.refl d, hok, Dev.shrinks.refl d, rfl, Nat.le_refl _, fun _ h => h, id⟩

theorem trans (h : d.Builds n e) (h' : e.Builds m f) : d.Builds (n + m) f := by
  exact ⟨Dev.claimsApart_trans h.apart h'.apart, h.mails.trans h'.mails, h'.ok, h.shrinks.trans h'.shrinks, h'.gathering.trans h.gathering, h'.length.trans h.length,
    fun k hk => h'.holds k (h.holds k hk), h'.held ∘ h.held⟩

theorem mono (h : d.Builds n e) (hle : n ≤ m) : d.Builds m e :=
  { h with mails := h.mails.mono hle }

/-- The points of an entry requested (R82). -/
theorem requestPoints (hok : d.cle.ok) (c : Claim) (keep : Bool) : d.Builds 1 (d.requestPoints c keep) := by
  obtain ⟨q, tx, cs, heq⟩ := d.requestPoints_changes c keep
  obtain ⟨hok', hlen, hback, hforth, -⟩ := Cle.update_points (f := d.requested keep) hok c.sec fun y => ⟨rfl, rfl, rfl⟩
  have hcle : (d.requestPoints c keep).cle = d.cle.update c.sec (d.requested keep) := by rw [heq]
  refine ⟨(claimWork_apart d).requestPoints c keep d.claimsApart_refl, Dev.Mails.requestPoints d c keep, by rw [hcle]; exact hok', fun y hy => ?_,
    by rw [hcle]; rfl, by rw [hcle]; exact hlen.le, fun k hk => ?_, fun hall y hy => ?_⟩
  · rw [hcle] at hy
    obtain ⟨z, hz, hs, hh⟩ := hback y hy
    exact ⟨z, hz, hs, fun h => hh.trans h⟩
  · rw [hcle]
    obtain ⟨z, hz, hs, hh⟩ := Cle.holds_iff.mp hk
    obtain ⟨y, hy, hs', hh'⟩ := hforth z hz
    exact Cle.holds_iff.mpr ⟨y, hy, hs'.trans hs, hh'.trans hh⟩
  · rw [hcle] at hy
    obtain ⟨z, hz, -, hh⟩ := hback y hy
    exact hh.symm.trans (hall z hz)

theorem foldl_requestPoints (hok : d.cle.ok) (l : List Claim) : d.Builds l.length (l.foldl (fun d c => d.requestPoints c false) d) := by
  induction l generalizing d with
  | nil => exact refl hok
  | cons c l ih =>
    have h := requestPoints hok c false
    rw [List.length_cons, Nat.add_comm]
    exact h.trans (ih h.ok)

/-- The footprint check where every section under the footprint is HELD already (R58, R62). -/
theorem footprintCheck (hok : d.cle.ok) (hall : d.cle.allHeld) (hk : d.odo.known = true) (hheld : ∀ k ∈ d.footprint.sections, d.cle.holds k = true) :
    d.Builds 0 d.footprintCheck := by
  cases hact : d.cle.active with
  | false =>
    have hsame : d.footprintCheck = d := by
      unfold Dev.footprintCheck
      rw [hact, Bool.false_and, if_neg Bool.false_ne_true]
    rw [hsame]
    exact refl hok
  | true =>
    have hperm := Dev.shrinks.realign_perm d.cle d.trackOrder
    have hok' : d.realigned.cle.ok := Cle.ok_realign _ hok
    have hall' : d.realigned.cle.allHeld := fun y hy => hall y (hperm.mem_iff.mp hy)
    have hholds : ∀ k, d.cle.holds k = true → d.realigned.cle.holds k = true := fun k hk => by
      obtain ⟨y, hy, hs, hh⟩ := Cle.holds_iff.mp hk
      exact Cle.holds_iff.mpr ⟨y, hperm.mem_iff.mpr hy, hs, hh⟩
    have hfold : ∀ xs ⊆ d.footprint.places, xs.foldl Dev.checkCovered d.realigned = d.realigned := fun xs hsub => by
      induction xs with
      | nil => rfl
      | cons x xs ih =>
        have hx := hholds x.sec (hheld x.sec (List.mem_map_of_mem (hsub (List.mem_cons_self ..))))
        rw [Cle.holds_eq hok'] at hx
        obtain ⟨c, hc, hch⟩ := Option.any_eq_true .. |>.mp hx
        have hcheck : d.realigned.checkCovered x = d.realigned := by
          unfold Dev.checkCovered
          rw [if_neg (show ¬(!d.realigned.odo.known) = true by rw [show d.realigned.odo.known = true from hk]; decide), hc]
          exact if_pos hch
        rw [List.foldl_cons, hcheck]
        exact ih fun y hy => hsub (List.mem_cons_of_mem _ hy)
    have hunder : d.underChecked = d.realigned := hfold _ (List.Subset.refl _)
    have hfront : d.realigned.cle.front = none := by
      cases hf : d.realigned.cle.front with
      | none => rfl
      | some c =>
        have hno := Dev.Retreats.front_unheld hf
        rw [hall' c (Cle.front_mem hf)] at hno
        exact absurd hno.symm Bool.false_ne_true
    have hcheck : d.footprintCheck = d.realigned := by
      rw [Dev.footprintCheck_eq hact hk, hunder, Dev.refront, hfront, Option.any_none, Bool.and_false, if_neg Bool.false_ne_true]
    rw [hcheck]
    exact ⟨(claimWork_apart d).cle _ d.claimsApart_refl, Dev.Mails.of_lif rfl rfl, hok', fun y hy => ⟨y, hperm.mem_iff.mp hy, rfl, id⟩, rfl,
      hperm.length_eq.le, hholds, fun _ => hall'⟩

end Dev.Builds

/-! ### The horizon (R65) -/

/-- The entries that join at the horizon are not HELD, and nothing else changes. -/
theorem Dev.horizonFrom_table (v : RouteView) : ∀ (l : List RouteEntry) (k : Nat) (d : Dev), ∃ t : List Claim,
    d.horizonFrom v k l = { d with cle := { d.cle with table := t } } ∧ (∀ y ∈ t, y ∈ d.cle.table ∨ y.isHeld = false) ∧ ∀ y ∈ d.cle.table, y ∈ t
  | [], _, d => ⟨_, rfl, fun _ hy => .inl hy, fun _ hy => hy⟩
  | e :: rest, k, d => by
    let c : Claim := Claim.fresh e.sec (some k) (if d.isPoints e.sec then some e.leg else none)
    unfold Dev.horizonFrom
    simp only
    split
    · next h =>
      simp only [Bool.and_eq_true, decide_eq_true_eq, Option.isNone_iff_eq_none] at h
      have hinsert : d.cle.insert (fun _ => none) c = { d.cle with table := insertSorted Claim.orderKey c d.cle.table } := by
        unfold Cle.insert
        rw [if_neg (by simp [c, Claim.fresh, h.2, Nat.not_le.mpr h.1.2])]
        rfl
      have hmem : ∀ y, y ∈ insertSorted Claim.orderKey c d.cle.table ↔ y = c ∨ y ∈ d.cle.table := fun y => mem_insertSorted ..
      obtain ⟨t, heq, hback, hforth⟩ := Dev.horizonFrom_table v rest (k + 1) { d with cle := d.cle.insert (fun _ => none) c }
      refine ⟨t, heq.trans (by rw [hinsert]), fun y hy => ?_, fun y hy => hforth y ?_⟩
      · obtain hy | hy := hback y hy
        · rw [hinsert] at hy
          obtain rfl | hy := (hmem y).mp hy
          · exact .inr rfl
          · exact .inl hy
        · exact .inr hy
      · rw [hinsert]
        exact (hmem y).mpr (.inr hy)
    · exact ⟨_, rfl, fun _ hy => .inl hy, fun _ hy => hy⟩

/-- The horizon walk, with the examination of an entry that has become the front entry (R65). -/
theorem Dev.horizonWalk_builds {l : List Nat} (hok : d.cle.ok) (hg : d.cle.gathering = some l) : d.claimsApart d.horizonWalk ∧ d.Mails 1 d.horizonWalk
    ∧ ∃ l', d.horizonWalk.cle.gathering = some (l ++ l') ∧ ∀ k ∈ l', ∃ y ∈ d.cle.table, y.sec = k := by
  have hsame : d.claimsApart d ∧ d.Mails 1 d ∧ ∃ l', d.cle.gathering = some (l ++ l') ∧ ∀ k ∈ l', ∃ y ∈ d.cle.table, y.sec = k :=
    ⟨d.claimsApart_refl, (Dev.Mails.refl d).mono (Nat.zero_le _), [], by rw [hg, List.append_nil], fun _ h => absurd h List.not_mem_nil⟩
  unfold Dev.horizonWalk
  split
  · next v k _ hlast =>
    split
    · exact hsame
    · have hokx : (d.horizonFrom v (k + 1) (v.route.entries.drop k)).cle.ok := inner_cleOk.horizonFrom v _ (k + 1)
        (fun y hy => (Cle.orderKey_le_lastIdx hlast y hy).trans (Nat.le_succ k)) hok
      obtain ⟨t, heq, hback, -⟩ := Dev.horizonFrom_table v (v.route.entries.drop k) (k + 1) d
      simp only
      generalize d.horizonFrom v (k + 1) (v.route.entries.drop k) = x at hokx heq
      have hgx : x.cle.gathering = some l := by rw [heq]; exact hg
      have hxapart : d.claimsApart x := by rw [heq]; exact (claimWork_apart d).cle _ d.claimsApart_refl
      have hxmails : d.Mails 0 x := by rw [heq]; exact Dev.Mails.of_lif rfl rfl
      have hretreats := Dev.Retreats.refront hokx hgx d.frontIdx
      obtain ⟨l₀, l', hx, hy, hfrom, -⟩ := hretreats.gathered
      obtain rfl : l = l₀ := Option.some.inj (hgx.symm.trans hx)
      refine ⟨(claimWork_apart d).refront _ hxapart, hxmails.trans (Dev.Mails.refront x _), l', hy, fun j hj => ?_⟩
      obtain ⟨y, hy, ho, hs⟩ := hfrom j hj
      have hheld := (Bool.and_eq_true_iff.mp ho).1
      rw [heq] at hy
      obtain hy | hno := hback y hy
      · exact ⟨y, hy, hs⟩
      · rw [hno] at hheld
        exact absurd hheld Bool.false_ne_true
  · exact hsame

/-! ### The table rebuilt (R64) -/

/-- CLE with a route view. -/
def Dev.viewing (d : Dev) (v : RouteView) : Dev := { d with cle := { d.cle with view := some v } }

/-- The HELD entries under the route's indices and in its order (R58, R64). -/
def Dev.rerouted (d : Dev) (v : RouteView) (n : Nat) : Dev :=
  { d with cle := { d.cle with
    view := some v
    horizon := d.horizonOf n
    table := sortBy Claim.orderKey (sortBy (fun c => (placeIn d.footprint.sections c.sec).getD 0)
      (d.cle.table.map (fun c => v.take (d.isPoints c.sec) c))) } }

/-- What is off the route and off the footprint given back, and the points of the rest requested (R64, R82). -/
def Dev.retaken (d : Dev) : Dev :=
  let e := d.releaseClaims (fun e => e.idx.isNone && !d.underOwn e.sec)
  (e.cle.table.filter (fun c => c.isHeld && e.isPoints c.sec && c.legNeeded.isSome && c.points == .unrequested)).foldl
    (fun d c => d.requestPoints c false) e

theorem RouteView.take_sec (v : RouteView) (b : Bool) (c : Claim) : (v.take b c).sec = c.sec ∧ (v.take b c).isHeld = c.isHeld := by
  unfold RouteView.take
  split <;> exact ⟨rfl, rfl⟩

theorem Dev.mem_rerouted {y : Claim} : y ∈ (d.rerouted v n).cle.table ↔ ∃ c ∈ d.cle.table, v.take (d.isPoints c.sec) c = y := by
  show y ∈ sortBy Claim.orderKey (sortBy _ _) ↔ _
  rw [(sortBy_perm _ _).mem_iff, (sortBy_perm _ _).mem_iff, List.mem_map]

theorem Dev.rerouted_ok (hok : d.cle.ok) (hall : d.cle.allHeld) : (d.rerouted v n).cle.ok ∧ (d.rerouted v n).cle.allHeld
    ∧ (d.rerouted v n).cle.table.length = d.cle.table.length := by
  have hperm : (d.rerouted v n).cle.table.Perm (d.cle.table.map (fun c => v.take (d.isPoints c.sec) c)) := (sortBy_perm _ _).trans (sortBy_perm _ _)
  have hheld : (d.rerouted v n).cle.allHeld := fun y hy => by
    obtain ⟨c, hc, rfl⟩ := Dev.mem_rerouted.mp hy
    exact (v.take_sec _ c).2.trans (hall c hc)
  refine ⟨Cle.ok_held (c := d.cle) ?_ (.inl (Nat.le_refl _)) (sortBy_sorted _ _) hheld hok, hheld, hperm.length_eq.trans (List.length_map _)⟩
  refine (hperm.map (·.sec)).trans ?_
  rw [List.map_map]
  exact List.Perm.of_eq (List.map_congr_left fun c _ => (v.take_sec _ c).1)

/-- The event of R64 up to the horizon, at a carriage whose footprint lies on HELD sections. -/
theorem Dev.buildView_built (hok : d.cle.ok) (hk : d.odo.known = true) (hheld : ∀ k ∈ d.footprint.sections, d.cle.holds k = true) :
    ∃ x : Dev, d.claimsApart x ∧ (d.viewing v).Mails d.cle.table.length x ∧ x.cle.ok
      ∧ (∃ l, x.cle.gathering = some l ∧ ∀ k ∈ l, k ∈ d.cle.table.map (·.sec)) ∧ (∀ y ∈ x.cle.table, y.sec ∈ d.cle.table.map (·.sec))
      ∧ d.buildView v n = Dev.event (fun _ => x.horizonWalk) d := by
  let g := d.gatheringNone
  let dropped := g.dropUnheld
  have hgives := (Dev.Gives.begun d).dropUnheld
  have hdropmails : g.Mails 0 dropped := Dev.Mails.dropClaims g _
  have hdropok : dropped.cle.ok := inner_cleOk.dropUnheld (d := g) hok
  have hdropheld : dropped.cle.allHeld := Dev.dropUnheld_allHeld g
  have hdroptable : dropped.cle.table = d.cle.table.filter (fun x => x.isHeld) := hgives.table
  let rerouted := dropped.rerouted v n
  obtain ⟨hreok, hreheld, hrelen⟩ := Dev.rerouted_ok (v := v) (n := n) hdropok hdropheld
  have hremails : (d.viewing v).Mails 0 rerouted := by
    obtain ⟨-, hact, hlen, hreports, hstays⟩ := hdropmails
    exact ⟨rfl, hact, hlen, hreports, hstays⟩
  have hreapart : d.claimsApart rerouted := (claimWork_apart d).cle _ hgives.apart
  have hreunder : rerouted.underOwn = d.underOwn := (Dev.Retreats.under hreapart).1
  have hregather : rerouted.cle.gathering = some [] := hgives.gathering
  have hresecs : ∀ y ∈ rerouted.cle.table, y.sec ∈ d.cle.table.map (·.sec) := fun y hy => by
    obtain ⟨c, hc, rfl⟩ := Dev.mem_rerouted.mp hy
    rw [(v.take_sec _ c).1]
    rw [hdroptable] at hc
    exact List.mem_map_of_mem (List.mem_of_mem_filter hc)
  have hreholds : ∀ k, d.cle.holds k = true → rerouted.cle.holds k = true := fun k hk => by
    obtain ⟨c, hc, hs, hh⟩ := Cle.holds_iff.mp hk
    have hcd : c ∈ dropped.cle.table := by rw [hdroptable]; exact List.mem_filter.mpr ⟨hc, hh⟩
    exact Cle.holds_iff.mpr ⟨_, Dev.mem_rerouted.mpr ⟨c, hcd, rfl⟩, (v.take_sec _ c).1.trans hs, (v.take_sec _ c).2.trans hh⟩
  have hrelen' : rerouted.cle.table.length ≤ d.cle.table.length := by
    rw [hrelen, hdroptable]
    exact List.length_filter_le _ _
  let q : Claim → Bool := fun e => e.idx.isNone && !rerouted.underOwn e.sec
  have hretreats : rerouted.Retreats 0 (rerouted.releaseClaims q) := Dev.Retreats.releaseClaims hregather fun x _ _ hx => by
    simpa using (Bool.and_eq_true_iff.mp hx).2
  have htable : (rerouted.releaseClaims q).cle.table = rerouted.cle.table.filter (fun e => !(e.isHeld && q e)) := Dev.releaseClaims_table ..
  have hmails := Dev.Mails.releaseClaims_gathered hregather q
  have hok' : (rerouted.releaseClaims q).cle.ok := inner_cleOk.releaseClaims q hreok
  have hapart : d.claimsApart (rerouted.releaseClaims q) := (claimWork_apart d).releaseClaims q hreapart
  obtain ⟨l₀, l, hl₀, hl, hfrom, -⟩ := hretreats.gathered
  obtain rfl : [] = l₀ := Option.some.inj (hregather.symm.trans hl₀)
  have hretaken : rerouted.retaken = ((rerouted.releaseClaims q).cle.table.filter (fun c => c.isHeld && (rerouted.releaseClaims q).isPoints c.sec
      && c.legNeeded.isSome && c.points == .unrequested)).foldl (fun d c => d.requestPoints c false) (rerouted.releaseClaims q) := rfl
  generalize rerouted.releaseClaims q = y at htable hmails hok' hapart hl hretaken
  have hrequested := Dev.Builds.foldl_requestPoints hok' (y.cle.table.filter (fun c => c.isHeld && y.isPoints c.sec && c.legNeeded.isSome
    && c.points == .unrequested))
  rw [← hretaken] at hrequested
  have hysub : ∀ z ∈ y.cle.table, z ∈ rerouted.cle.table := fun z hz => by
    rw [htable] at hz
    exact List.mem_of_mem_filter hz
  have hylen : y.cle.table.length ≤ d.cle.table.length := by
    rw [htable]
    exact (List.length_filter_le _ _).trans hrelen'
  have hzapart : d.claimsApart rerouted.retaken := Dev.claimsApart_trans hapart hrequested.apart
  have hzfoot : rerouted.retaken.footprint = d.footprint ∧ rerouted.retaken.odo = d.odo := by
    obtain ⟨_, _, _, _, _, heq, -⟩ := hzapart
    rw [heq]
    exact ⟨rfl, rfl⟩
  have hzholds : ∀ k ∈ rerouted.retaken.footprint.sections, rerouted.retaken.cle.holds k = true := fun k hk' => by
    rw [hzfoot.1] at hk'
    obtain ⟨c, hc, hs, hh⟩ := Cle.holds_iff.mp (hreholds k (hheld k hk'))
    refine hrequested.holds k (Cle.holds_iff.mpr ⟨c, ?_, hs, hh⟩)
    have hu : rerouted.underOwn c.sec = true := by
      rw [hreunder, Dev.underOwn, hk, Bool.true_and, hs]
      exact (Footprint.covers_iff ..).mpr hk'
    rw [htable]
    exact List.mem_filter.mpr ⟨hc, by simp [q, hu]⟩
  have hchecked := hrequested.trans (Dev.Builds.footprintCheck hrequested.ok (hrequested.held fun z hz => hreheld z (hysub z hz)) (by rw [hzfoot.2]; exact hk)
    hzholds)
  have hfilter := List.length_filter_le (fun c : Claim => c.isHeld && y.isPoints c.sec && c.legNeeded.isSome && c.points == .unrequested) y.cle.table
  refine ⟨rerouted.retaken.footprintCheck, Dev.claimsApart_trans hapart hchecked.apart, ((hremails.trans hmails).trans hchecked.mails).mono (by omega),
    hchecked.ok, ⟨l, hchecked.gathering.trans hl, fun k hk => ?_⟩, fun z hz => ?_, Dev.event_of_act rfl⟩
  · obtain ⟨z, hz, -, hs⟩ := hfrom k hk
    exact hs ▸ hresecs z hz
  · obtain ⟨w, hw, hs, -⟩ := hchecked.shrinks z hz
    exact hs ▸ hresecs w (hysub w hw)

/-- The whole event of R64: it queues a frame for each HELD entry and two more at most. -/
theorem Dev.buildView_mails (hok : d.cle.ok) (hk : d.odo.known = true) (hheld : ∀ k ∈ d.footprint.sections, d.cle.holds k = true) :
    d.claimsApart (d.buildView v n) ∧ (d.viewing v).Mails (d.cle.table.length + 2) (d.buildView v n) := by
  obtain ⟨x, hapart, hmails, hxok, ⟨l, hl, hlsecs⟩, hxsecs, hevent⟩ := Dev.buildView_built (v := v) (n := n) hok hk hheld
  obtain ⟨hwalkapart, hwalkmails, l', hl', hfrom⟩ := Dev.horizonWalk_builds hxok hl
  rw [hevent]
  have hnames : ∀ k, k ∈ l ++ l' ↔ ∃ c ∈ d.cle.table, (l ++ l').contains c.sec = true ∧ c.sec = k := fun k => by
    constructor
    · intro hk
      have hin : k ∈ d.cle.table.map (·.sec) := by
        obtain hk | hk := List.mem_append.mp hk
        · exact hlsecs k hk
        · obtain ⟨y, hy, hs⟩ := hfrom k hk
          exact hs ▸ hxsecs y hy
      obtain ⟨c, hc, rfl⟩ := List.mem_map.mp hin
      exact ⟨c, hc, by simpa using hk, rfl⟩
    · rintro ⟨c, -, hc, rfl⟩
      simpa using hc
  have hgives := Dev.event_gives (act := fun _ => x.horizonWalk) (p := fun c => (l ++ l').contains c.sec) hok rfl hl' hnames
  refine ⟨Dev.claimsApart_trans (Dev.claimsApart_trans hapart hwalkapart) (Dev.event_apart (fun _ => x.horizonWalk) d), ?_⟩
  rw [hgives]
  have hended : (d.viewing v).Mails (d.cle.table.length + 1) { x.horizonWalk with cle := { x.horizonWalk.cle with gathering := d.cle.gathering } } :=
    (hmails.trans hwalkmails).to_lif rfl rfl
  exact hended.trans (Dev.Mails.sendRelease _ _)

end

end Sys2Proof.Machine

/-! SUPPORT. The start of an accepted order, step by step (R148, R149). -/

namespace Sys2Proof.Machine

section
variable {d e : Dev} {o : Order} {g : RouteEntry} {auth : Bool}

/-! ### The order written, ODO and SUP told (R28, R89, R148) -/

/-- The order written, with the held report; the link test ends (R148, R176). -/
def Dev.orderWritten (d : Dev) (o : Order) (auth : Bool) : Dev :=
  { d.bump .ordersAccepted with stc := { d.stc with order := some o, heldReport := auth }, lif := { d.lif with test := none } }

/-- The part before CLE takes the route (R148). -/
def Dev.orderTold (d : Dev) (o : Order) (auth : Bool) : Dev :=
  let w := d.orderWritten o auth
  let w := if auth then w else w.orderReport o.console .moveOrder o.id .accepted
  let w := w.odoOrderStart o.route
  { w with sup := { w.sup with vOrder := some o.vOrder } }

/-- ODO takes entry 1 of the route (R28). -/
theorem Dev.odoOrderStart_changes (d : Dev) {r : Route} (hg : r.entries.head? = some g) : ∃ (x : Odo) (b : Bdu) (cs : List (BitVec 16)),
    d.odoOrderStart r = { d with odo := x, bdu := b, counters := cs } ∧ x.pos = { d.odo.pos with idx := some 1, dir := g.dir, leg := g.leg }
      ∧ b.inClampsUp = d.bdu.inClampsUp ∧ b.inClampsDown = d.bdu.inClampsDown := by
  have hturn : ∃ (x : Odo) (b : Bdu) (cs : List (BitVec 16)), d.turn g.dir = { d with odo := x, bdu := b, counters := cs }
      ∧ x.pos = { d.odo.pos with dir := g.dir } ∧ b.inClampsUp = d.bdu.inClampsUp ∧ b.inClampsDown = d.bdu.inClampsDown := by
    unfold Dev.turn Dev.reverseLine
    split
    · next hd => exact ⟨_, _, _, rfl, by rw [← hd], rfl, rfl⟩
    · split
      · exact ⟨_, _, _, rfl, rfl, rfl, rfl⟩
      · exact ⟨_, _, _, rfl, rfl, rfl, rfl⟩
  obtain ⟨x, b, cs, hx, hpos, hup, hdown⟩ := hturn
  unfold Dev.odoOrderStart
  simp only [hg, hx]
  split
  · exact ⟨_, _, _, rfl, congrArg (fun p : PositionRec => { p with idx := some 1, leg := g.leg }) hpos, hup, hdown⟩
  · exact ⟨_, _, _, rfl, congrArg (fun p : PositionRec => { p with idx := some 1, leg := g.leg }) hpos, hup, hdown⟩

/-- What the blocks hold before CLE takes the route. -/
structure Dev.Told (d : Dev) (o : Order) (auth : Bool) (g : RouteEntry) (w : Dev) : Prop where
  stc : w.stc = { d.stc with order := some o, heldReport := auth }
  same : w.cle = d.cle ∧ w.tmp = d.tmp
  pos : w.odo.pos = { d.odo.pos with idx := some 1, dir := g.dir, leg := g.leg }
  speed : w.sup.vOrder = some o.vOrder
  clamps : w.bdu.inClampsUp = d.bdu.inClampsUp ∧ w.bdu.inClampsDown = d.bdu.inClampsDown
  active : w.lif.active = d.lif.active
  length : w.lif.queue.length ≤ d.lif.queue.length + (!auth).toNat
  held : auth = true → w.lif.queue = d.lif.queue
  reported : auth = false → d.lif.hasRoom → ⟨.orderReport, o.console, orderReportPayload .moveOrder o.id .accepted, 0, none, false⟩ ∈ w.lif.queue

theorem Dev.orderTold_told (hg : o.route.entries.head? = some g) : d.Told o auth g (d.orderTold o auth) := by
  have hfirst : ∃ (q : List TxEntry) (t : TxState) (cs : List (BitVec 16)), (if auth then d.orderWritten o auth
      else (d.orderWritten o auth).orderReport o.console .moveOrder o.id .accepted)
        = { d.orderWritten o auth with lif := { (d.orderWritten o auth).lif with queue := q, tx := t }, counters := cs }
      ∧ q.length ≤ d.lif.queue.length + (!auth).toNat ∧ (auth = true → q = d.lif.queue)
      ∧ (auth = false → d.lif.hasRoom → ⟨.orderReport, o.console, orderReportPayload .moveOrder o.id .accepted, 0, none, false⟩ ∈ q) := by
    cases auth with
    | true => exact ⟨_, _, _, rfl, Nat.le_refl _, fun _ => rfl, fun h => absurd h.symm Bool.false_ne_true⟩
    | false =>
      have hadds : Dev.adds 1 (d.orderWritten o false) ((d.orderWritten o false).orderReport o.console .moveOrder o.id .accepted) := Dev.adds.send ..
      have hqueued := Dev.orderReport_queued (d := d.orderWritten o false) (console := o.console) (r := .moveOrder) (n := o.id) (o := .accepted)
      obtain ⟨q, t, cs, heq⟩ := (d.orderWritten o false).enqueue_line .orderReport o.console (orderReportPayload .moveOrder o.id .accepted) none
      have hsent : (d.orderWritten o false).orderReport o.console .moveOrder o.id .accepted = _ := heq
      rw [hsent] at hadds hqueued
      exact ⟨q, t, cs, hsent, hadds.length, fun h => absurd h Bool.false_ne_true, fun _ hroom => hqueued hroom⟩
  obtain ⟨q, t, cs, hw, hlen, hheld, hreported⟩ := hfirst
  obtain ⟨x, b, cs', hstart, hpos, hup, hdown⟩ := Dev.odoOrderStart_changes
    { d.orderWritten o auth with lif := { (d.orderWritten o auth).lif with queue := q, tx := t }, counters := cs } hg
  have htold : d.orderTold o auth = { ({ d.orderWritten o auth with lif := { (d.orderWritten o auth).lif with queue := q, tx := t }, counters := cs } : Dev)
      with odo := x, bdu := b, counters := cs', sup := { d.sup with vOrder := some o.vOrder } } := by
    unfold Dev.orderTold
    simp only [hw, hstart]
    rfl
  rw [htold]
  exact ⟨rfl, ⟨rfl, rfl⟩, hpos, rfl, ⟨hup, hdown⟩, rfl, hlen, hheld, hreported⟩

/-! ### DKC and the state (R127, R138, R148) -/

theorem Dev.requestClampUp_changes (d : Dev) : ∃ (b : Bdu) (w : Timer), d.requestClampUp = { d with bdu := b, dkc := { d.dkc with watchTimer := w } } := by
  obtain ⟨w, hw⟩ := Dev.watchClamps_changes ({ d with bdu := { d.bdu with clampDown := false, clampUp := true } } : Dev).settle
  rw [Dev.requestClampUp, hw]
  exact ⟨_, w, rfl⟩

theorem Dev.startDeparture_changes (d : Dev) : ∃ (b : Bdu) (k : Dkc), d.startDeparture = { d with bdu := b, dkc := k } ∧ k.dest = d.dkc.dest
    ∧ k.sub = .unclamping := by
  obtain ⟨b, w, heq⟩ := Dev.requestClampUp_changes { d with dkc := { d.dkc with sub := .unclamping, downLeft := false } }
  unfold Dev.startDeparture
  simp only [heq]
  exact ⟨_, _, rfl, rfl, rfl⟩

/-- DKC at the start of an order: a departure unless the clamps are confirmed up (R138). -/
theorem Dev.dockOrderStart_changes (d : Dev) (pad : Nat) : ∃ (b : Bdu) (k : Dkc), d.dockOrderStart pad = { d with bdu := b, dkc := k }
    ∧ k.dest = some pad ∧ k.sub = if d.bdu.inClampsDown || !d.bdu.inClampsUp then .unclamping else .idle := by
  unfold Dev.dockOrderStart
  simp only
  split
  · obtain ⟨b, k, heq, hdest, hsub⟩ := Dev.startDeparture_changes { d with dkc := { d.dkc with
      dest := some pad, anchored := false, motionSeen := false, abortTaken := false, corrections := 0, last := .none } }
    rw [heq]
    exact ⟨b, k, rfl, hdest, hsub⟩
  · exact ⟨_, _, rfl, rfl, rfl⟩

/-- STC's part of the start (R148, log 42). -/
def Dev.orderUnderWay (d : Dev) (o : Order) : Dev :=
  if d.dkc.sub == .unclamping then
    let e : Dev := { d with stc := { d.stc with order := some { o with departing := true } } }
    if e.stc.state == .parked then e else e.enterState .parked
  else ({ d with stc := { d.stc with parkedPad := none } } : Dev).enterState .running

theorem Dev.enterState_speed (d : Dev) (s : StationState) : (d.enterState s).sup.vOrder = d.sup.vOrder ∧ (d.enterState s).dkc.dest = d.dkc.dest :=
  Dev.enterState_keeps (P := fun x => x.sup.vOrder = d.sup.vOrder ∧ x.dkc.dest = d.dkc.dest) (fun _ h => h) (fun _ h => h)
    (fun x h => by
      obtain ⟨y, hy⟩ : ∃ y : Sup, (x.setLatch .safeStop).sup = y ∧ y.vOrder = x.sup.vOrder ∧ (x.setLatch .safeStop).dkc = x.dkc := by
        unfold Dev.setLatch Dev.stopTrain
        simp only
        split
        · exact ⟨_, rfl, rfl, rfl⟩
        · split <;> exact ⟨_, rfl, rfl, rfl⟩
      obtain ⟨hs, hv, hk⟩ := hy
      exact ⟨by rw [hs, hv, h.1], by rw [hk, h.2]⟩)
    (by
      refine ⟨rfl, ?_⟩
      unfold Dev.entering
      simp only
      split <;> rfl)

theorem Dev.orderUnderWay_changes (d : Dev) (o : Order) (ho : d.stc.order = some { o with departing := false }) :
    let e := d.orderUnderWay { o with departing := false }
    let departs := d.dkc.sub == .unclamping
    (e.odo = d.odo ∧ e.cle = d.cle ∧ e.tmp = d.tmp ∧ e.peers = d.peers) ∧ (e.lif.queue = d.lif.queue ∧ e.lif.active = d.lif.active)
      ∧ e.sup.vOrder = d.sup.vOrder ∧ e.dkc.dest = d.dkc.dest ∧ e.stc.order = some { o with departing := departs } ∧ e.stc.heldReport = d.stc.heldReport
      ∧ e.stc.state = (if departs then .parked else .running) ∧ e.stc.parkedPad = (if departs then d.stc.parkedPad else none)
      ∧ (departs = false → e.stc.waiting = true) := by
  intro e departs
  have hentered : ∀ (x : Dev) (s : StationState), ((x.enterState s).odo = x.odo ∧ (x.enterState s).cle = x.cle ∧ (x.enterState s).tmp = x.tmp
      ∧ (x.enterState s).peers = x.peers) ∧ (x.enterState s).lif.queue = x.lif.queue ∧ (x.enterState s).lif.active = x.lif.active := fun x s => by
    obtain ⟨_, _, _, _, _, heq⟩ := x.enterState_changes s
    rw [heq]
    exact ⟨⟨rfl, rfl, rfl, rfl⟩, rfl, rfl⟩
  by_cases hd : departs = true
  · let x : Dev := { d with stc := { d.stc with order := some { o with departing := true } } }
    have he : e = if x.stc.state == .parked then x else x.enterState .parked := if_pos hd
    rw [he, hd]
    by_cases hp : d.stc.state = .parked
    · rw [if_pos (show (x.stc.state == .parked) = true by rw [show x.stc.state = .parked from hp]; rfl)]
      exact ⟨⟨rfl, rfl, rfl, rfl⟩, ⟨rfl, rfl⟩, rfl, rfl, rfl, rfl, hp, rfl, fun h => absurd h.symm Bool.false_ne_true⟩
    · rw [if_neg (show ¬(x.stc.state == .parked) = true from fun h => hp (beq_iff_eq.mp h))]
      obtain ⟨hframe, hqueue, hact⟩ := hentered x .parked
      obtain ⟨hspeed, hdest⟩ := x.enterState_speed .parked
      rw [Dev.enterState_stc]
      exact ⟨hframe, ⟨hqueue, hact⟩, hspeed, hdest, rfl, rfl, rfl, rfl, fun h => absurd h.symm Bool.false_ne_true⟩
  · let x : Dev := { d with stc := { d.stc with parkedPad := none } }
    have he : e = x.enterState .running := if_neg hd
    have hdf : departs = false := Bool.eq_false_iff.mpr hd
    obtain ⟨hframe, hqueue, hact⟩ := hentered x .running
    obtain ⟨hspeed, hdest⟩ := x.enterState_speed .running
    rw [he, hdf, Dev.enterState_stc]
    exact ⟨hframe, ⟨hqueue, hact⟩, hspeed, hdest, ho, rfl, rfl, rfl, fun _ => rfl⟩

/-! ### The held report at the start (R149, log 51) -/

/-- The first section beyond the footprint is usable, or there is none (R149, log 51). -/
def Dev.beyondUsable (d : Dev) (r : Route) : Prop :=
  ∀ i, r.entries.findIdx? (fun g => !d.underOwn g.sec && decide (d.frontCoord r ≤ (g.c0 : Int))) = some i →
    ∃ c ∈ d.cle.table, c.idx = some (i + 1) ∧ c.isHeld = true ∧ (d.isPoints c.sec = true → c.points = .locked)

theorem Dev.judgeHeldReport_none (ho : d.stc.order = some o) (hh : d.stc.heldReport = false) (b : Bool) : d.judgeHeldReport b = d := by
  unfold Dev.judgeHeldReport
  simp only [ho, hh]
  rfl

theorem Dev.judgeHeldReport_start (ho : d.stc.order = some o) (hh : d.stc.heldReport = true) :
    (d.beyondUsable o.route → d.judgeHeldReport true = d.sendHeldReport o) ∧ (¬d.beyondUsable o.route → d.judgeHeldReport true = d) := by
  have hfirst : d.firstBeyond o.route
      = (o.route.entries.findIdx? (fun g => !d.underOwn g.sec && decide (d.frontCoord o.route ≤ (g.c0 : Int)))).map (· + 1) := rfl
  unfold Dev.beyondUsable Dev.judgeHeldReport
  simp only [ho, hh, if_true, hfirst]
  cases o.route.entries.findIdx? (fun g => !d.underOwn g.sec && decide (d.frontCoord o.route ≤ (g.c0 : Int))) with
  | none => exact ⟨fun _ => rfl, fun h => absurd (fun i hi => by cases hi) h⟩
  | some i =>
    simp only [Option.map_some, Option.some.injEq, forall_eq']
    exact ⟨fun h => if_pos ((d.usableIdx_iff (i + 1)).mpr h), fun h => if_neg (mt (d.usableIdx_iff (i + 1)).mp h)⟩

/-! ### The whole start (R148) -/

/-- The part when CLE has taken the route (R64, R148). -/
def Dev.orderBuilt (d : Dev) (o : Order) (auth : Bool) : Dev :=
  (d.orderTold o auth).buildView { route := o.route, pad := o.pad, priority := o.priority } o.vOrder

/-- The part when the order is under way, before the held report is judged. -/
def Dev.orderStarted (d : Dev) (o : Order) (auth : Bool) : Dev :=
  ((d.orderBuilt o auth).dockOrderStart o.pad).orderUnderWay o

/-- What the start leaves before the held report is judged. -/
structure Dev.Started (d : Dev) (o : Order) (auth : Bool) (g : RouteEntry) (x : Dev) : Prop where
  order : x.stc.order = some { o with departing := d.bdu.inClampsDown || !d.bdu.inClampsUp }
  held : x.stc.heldReport = auth
  state : x.stc.state = if d.bdu.inClampsDown || !d.bdu.inClampsUp then .parked else .running
  pad : x.stc.parkedPad = if d.bdu.inClampsDown || !d.bdu.inClampsUp then d.stc.parkedPad else none
  waiting : (d.bdu.inClampsDown || !d.bdu.inClampsUp) = false → x.stc.waiting = true
  speed : x.sup.vOrder = some o.vOrder
  dest : x.dkc.dest = some o.pad
  view : x.cle.view = some { route := o.route, pad := o.pad, priority := o.priority }
  pos : x.odo.pos = { d.odo.pos with idx := some 1, dir := g.dir, leg := g.leg }
  active : x.lif.active = d.lif.active
  length : auth = true → x.lif.queue.length ≤ d.lif.queue.length + (d.cle.table.length + 2)
  reports : auth = true → ∀ y ∈ x.lif.queue, y.kind = .orderReport → y ∈ d.lif.queue
  reported : auth = false → d.lif.active = true → d.lif.queue.length + d.cle.table.length + 3 ≤ 8 →
    ⟨.orderReport, o.console, orderReportPayload .moveOrder o.id .accepted, 0, none, false⟩ ∈ x.lif.queue

theorem Dev.orderStarted_started (hg : o.route.entries.head? = some g) (ho : o.departing = false) (hok : d.cle.ok) (hk : d.odo.known = true)
    (hheld : ∀ k ∈ (footprintOf d.tmp.sections o.route.entries { d.odo.pos.point with leg := g.leg, dir := g.dir, idx := some 1 }
      (halfSpan d.tmp.carriage.length d.odo.pos.unc)).sections, d.cle.holds k = true) :
    (d.orderBuilt o auth).stc.order = some o ∧ d.Started o auth g (d.orderStarted o auth) := by
  have htold := Dev.orderTold_told (d := d) (auth := auth) hg
  unfold Dev.orderStarted Dev.orderBuilt
  generalize d.orderTold o auth = w at htold
  obtain ⟨hstc, ⟨hcle, htmp⟩, hpos, hspeed, ⟨hup, hdown⟩, hactive, hlength, hqueue, hreported⟩ := htold
  have hfoot : w.footprint = footprintOf d.tmp.sections o.route.entries { d.odo.pos.point with leg := g.leg, dir := g.dir, idx := some 1 }
      (halfSpan d.tmp.carriage.length d.odo.pos.unc) := by
    unfold Dev.footprint Dev.routeEntries
    rw [hstc, hpos, htmp]
    rfl
  have hwk : w.odo.known = true := by
    rw [Odo.known, hpos]
    exact hk
  obtain ⟨hbapart, hbmails⟩ := Dev.buildView_mails (d := w) (v := { route := o.route, pad := o.pad, priority := o.priority }) (n := o.vOrder)
    (by rw [hcle]; exact hok) hwk (by rw [hfoot, hcle]; exact hheld)
  obtain ⟨hview, hbactive, hblength, hbreports, hbstays⟩ := hbmails
  obtain ⟨hbodo, hbstc, hbsup, -, -, hbtmp⟩ := Dev.claimsApart_frame hbapart
  have hbbdu : (w.buildView { route := o.route, pad := o.pad, priority := o.priority } o.vOrder).bdu = w.bdu := by
    obtain ⟨_, _, _, _, _, heq, -⟩ := hbapart
    rw [heq]
  generalize w.buildView { route := o.route, pad := o.pad, priority := o.priority } o.vOrder = b at hview hbactive hblength hbreports hbstays hbodo hbstc hbsup hbtmp hbbdu
  obtain ⟨bd, k, hdock, hdest, hsub⟩ := b.dockOrderStart_changes o.pad
  rw [hbbdu, hup, hdown] at hsub
  rw [hdock]
  have hdeparting : ({ o with departing := false } : Order) = o := by rw [← ho]
  obtain ⟨⟨hodo, hcle', -, -⟩, ⟨hq, ha⟩, hspeed', hdest', horder, hheld', hstate, hpad, hwaiting⟩ :=
    Dev.orderUnderWay_changes { b with bdu := bd, dkc := k } o (by rw [hdeparting]; show b.stc.order = some o; rw [hbstc, hstc])
  rw [hdeparting] at hodo hcle' hq ha hspeed' hdest' horder hheld' hstate hpad hwaiting
  have hdeparts : (k.sub == .unclamping) = (d.bdu.inClampsDown || !d.bdu.inClampsUp) := by
    rw [hsub]
    cases (d.bdu.inClampsDown || !d.bdu.inClampsUp) <;> rfl
  simp only [hdeparts] at horder hstate hpad hwaiting
  generalize Dev.orderUnderWay { b with bdu := bd, dkc := k } o = x at hodo hcle' hq ha hspeed' hdest' horder hheld' hstate hpad hwaiting
  refine ⟨by rw [hbstc, hstc], horder, hheld'.trans (by rw [hbstc, hstc]), hstate, hpad.trans (by rw [hbstc, hstc]), hwaiting, hspeed'.trans (by rw [hbsup, hspeed]),
    hdest'.trans hdest, (congrArg Cle.view hcle').trans hview, (congrArg Odo.pos hodo).trans (by rw [hbodo, hpos]), ha.trans (hbactive.trans hactive),
    fun hauth => ?_, fun hauth y hy hkind => ?_, fun hauth hact hlen => ?_⟩
  · rw [hq, ← hqueue hauth, ← hcle]
    exact hblength
  · rw [hq] at hy
    exact hqueue hauth ▸ hbreports y hy hkind
  · rw [hq]
    have hwlen : w.lif.queue.length ≤ d.lif.queue.length + 1 := by rw [hauth] at hlength; exact hlength
    exact hbstays (hactive.trans hact) (by show w.lif.queue.length + (w.cle.table.length + 2) ≤ 8; rw [hcle]; omega) _
      (hreported hauth ⟨hact, by show d.lif.queue.length < 8; omega⟩)
      (show FrameKind.orderReport ≠ .intent by decide)

/-- The order that the fields of a MOVE-ORDER give, before DKC says whether it departs (R148). -/
def Dev.orderOf (d : Dev) (console : Nat) (m : MoveFields) (route : Route) : Order :=
  { id := m.id, console := console, route := route, pad := m.pad, speedClass := m.speedClass, vOrder := d.tmp.plan.classSpeed m.speedClass
    priority := m.priority, onAuthority := m.mode == 1, departing := false }

theorem Dev.judgeOrder_accepts {m : MoveFields} {n : Nat} {route : Route} (h : d.orderChecks m = none)
    (ht : ¬(d.stc.state = .parked ∧ d.stc.parkedPad = some m.pad)) (hs : d.odo.standstill = true)
    (hv : validateRoute d.tmp.sections d.tmp.pads d.tmp.carriage.length d.tmp.carriage.dockTol d.odo.pos.point m.route m.pad = .ok route) :
    d.judgeOrder n m = d.startOrder (d.orderOf n m route) (m.mode == 1) := by
  have ht' : (d.stc.state == .parked && d.stc.parkedPad == some m.pad) = false := by simpa using ht
  unfold Dev.judgeOrder
  simp only [h, ht', hs, hv]
  rfl

/-- A step takes the station to SAFE-STOP in no order that is under way (R148). -/
theorem Dev.startOrder_eq (h : (d.orderBuilt o auth).stc.order = some o) : d.startOrder o auth = (d.orderStarted o auth).judgeHeldReport true := by
  have hsome : ¬(d.orderBuilt o auth).stc.order.isNone = true := by rw [h]; exact Bool.false_ne_true
  exact if_neg hsome

/-- A validated route has an entry: that of its pad (R16). -/
theorem validateRoute_nonempty {secs : List SectionRec} {pads : List PadRec} {length dockTol padNo : Nat} {ref : Point} {l : List Nat} {route : Route}
    (h : validateRoute secs pads length dockTol ref l padNo = .ok route) : ∃ g, route.entries.head? = some g := by
  unfold validateRoute at h
  simp only at h
  split at h
  · cases h
  · split at h
    · cases h
    · split at h
      · cases h
      · split at h
        · cases h
        · split at h
          · cases h
          · split at h
            · cases h
            · next hplace =>
              split at h
              · cases h
              · cases h
                obtain ⟨p, -, hp⟩ := Option.bind_eq_some_iff.mp hplace
                refine Option.ne_none_iff_exists'.mp fun hnone => ?_
                have hempty := List.head?_eq_none_iff.mp hnone
                simp only at hempty
                rw [hempty] at hp
                exact absurd hp (by simp [padPlace])

end

/-- Settles O36: the checks passed, the start step by step, and the judgement of the held report at its end. -/
theorem moveOrderIsAccepted : Obligations.MoveOrderIsAccepted := by
  intro s f rest route d m hpasses hkind hdest e hstate hnone hplan hhold hstand hknown hid hclass hprio hmode hcount hok hvalid o hheld
  have hall : ¬f.toAll = true := by simpa [Frame.toAll] using hdest
  have hrest : e.atRest := hstate.elim .inl fun h => .inr ⟨h.1, hnone⟩
  have hchecks : e.orderChecks m = none := by
    rw [Dev.orderChecks_of_rest hrest, hplan, hhold, MoveFields.valid_iff.mpr ⟨hid, hclass, hprio, hmode, hcount⟩]
    rfl
  have hthere : ¬(e.stc.state = .parked ∧ e.stc.parkedPad = some m.pad) := fun ⟨hp, hpad⟩ => by
    obtain hs | ⟨-, hne⟩ := hstate
    · rw [hs] at hp
      cases hp
    · exact hne hpad
  let ord := e.orderOf f.src m route
  let auth := m.mode == 1
  obtain ⟨g, hg⟩ := validateRoute_nonempty hvalid
  simp only [hg, Option.map_some, Option.getD_some] at hheld
  obtain ⟨hbuilt, hstarted⟩ := Dev.orderStarted_started (d := e) (o := ord) (auth := auth) hg rfl hok (e.odo.known_iff.mpr hknown) hheld
  have hexec : exec .moveOrder s = .next { s with dev := (e.orderStarted ord auth).judgeHeldReport true } := by
    refine (exec_moveOrder hpasses hkind).trans (congrArg (fun d => Host.Outcome.next { s with dev := d }) ?_)
    rw [if_neg hall]
    exact (Dev.judgeOrder_accepts hchecks hthere hstand hvalid).trans (Dev.startOrder_eq hbuilt)
  generalize e.orderStarted ord auth = y at hstarted hexec
  obtain ⟨q, t, cs, hr, hjudged⟩ := y.judgeHeldReport_changes true
  have horder : y.stc.order = some o := hstarted.order
  have hsame : (y.judgeHeldReport true).beyondUsable route ↔ y.beyondUsable route := by
    rw [hjudged]
    exact Iff.rfl
  have hpos : ∀ g', route.entries.head? = some g' → y.odo.pos = { e.odo.pos with idx := some 1, dir := g'.dir, leg := g'.leg } := fun g' hg' => by
    obtain rfl : g = g' := Option.some.inj (hg.symm.trans hg')
    exact hstarted.pos
  have hearly : m.mode = 0 → auth = false := fun h => by simp [auth, h]
  have hheldAuth : m.mode = 1 → auth = true := fun h => by simp [auth, h]
  have hjudge := Dev.judgeHeldReport_start (d := y) horder
  refine ⟨_, hexec, by rw [hjudged]; exact horder, by rw [hjudged]; exact hstarted.state, by rw [hjudged]; exact hstarted.speed,
    by rw [hjudged]; exact hstarted.dest, by rw [hjudged]; exact hstarted.view, by rw [hjudged]; exact hstarted.pad,
    fun h => by rw [hjudged]; exact hstarted.waiting h, fun g' hg' => by rw [hjudged]; exact hpos g' hg', ?_⟩
  intro room reported beyond wins
  have hwins : wins ↔ y.beyondUsable route := hsame
  have hready : m.mode = 0 → (y.judgeHeldReport true).stc.heldReport = false ∧ reported := fun h => by
    have hsame := Dev.judgeHeldReport_none (d := y) horder (hstarted.held.trans (hearly h)) true
    have hqueued : room → ∃ z ∈ (y.judgeHeldReport true).lif.queue, z.kind = .orderReport ∧ z.dest = f.src
        ∧ z.payload = orderReportPayload .moveOrder m.id .accepted := fun ⟨hact, hlen⟩ => by
      rw [hsame]
      exact ⟨_, hstarted.reported (hearly h) hact hlen, rfl, rfl, rfl⟩
    exact ⟨by rw [hsame]; exact hstarted.held.trans (hearly h), hqueued⟩
  have hawaits : m.mode = 1 → y.stc.heldReport = true := fun h => hstarted.held.trans (hheldAuth h)
  refine ⟨fun h => ?_, fun h hno => ?_⟩
  · by_cases hm : m.mode = 0
    · exact hready hm
    · have hone : m.mode = 1 := by omega
      have hsent := (hjudge (hawaits hone)).1 (hwins.mp (h.resolve_left hm))
      have hqueued : room → ∃ z ∈ (y.judgeHeldReport true).lif.queue, z.kind = .orderReport ∧ z.dest = f.src
          ∧ z.payload = orderReportPayload .moveOrder m.id .accepted := fun ⟨hact, hlen⟩ => by
        have hlength := hstarted.length (hheldAuth hone)
        have hroom : y.lif.hasRoom := ⟨hstarted.active.trans hact, by show y.lif.queue.length < 8; omega⟩
        rw [hsent]
        exact ⟨_, Dev.orderReport_queued (d := { y with stc := { y.stc with heldReport := false } }) hroom .moveOrder m.id .accepted, rfl, rfl, rfl⟩
      refine ⟨?_, hqueued⟩
      obtain ⟨_, _, _, heq⟩ := Dev.enqueue_line { y with stc := { y.stc with heldReport := false } } .orderReport o.console
        (orderReportPayload .moveOrder o.id .accepted) none
      rw [hsent]
      exact (congrArg (fun z : Dev => z.stc.heldReport) heq :)
  · have hkept := (hjudge (hawaits h)).2 (mt hwins.mpr hno)
    rw [hkept]
    exact ⟨hawaits h, hstarted.reports (hheldAuth h)⟩

end Sys2Proof.Machine

/-! SUPPORT. The refutation of O9 with the part that shows it: a retry that drops the front entry (R66) uncovers, for the release behind
of the same sample (R78), an entry that stood after it and is no part of the release as the statement counts it, before the sample. -/

namespace Sys2Proof.Machine

/-- Two plain sections of 20 m in a line. -/
def twoSections : List SectionRec :=
  let track (n : Nat) (a b : Option (Nat × TrackEnd)) : SectionRec :=
    { number := n, kind := .plain, length := 20000, diverge := 0, nbrA := a, nbrB := b, nbrC := none, speedLimit := 1000
      grade := 0, junction := 0, markers := [] }
  [track 1 none (some (2, .a)), track 2 (some (1, .b)) none]

/-- An entry of a section with a route index, HELD or WANTED. -/
def routeClaim (sec idx : Nat) (held : Bool) : Claim :=
  { Claim.fresh sec (some idx) none with
    state := if held then .held .route ⟨false, 0, 0, 5⟩ else .wanted false }

/-- A carriage of 4 m that moves TOWARD_B in the middle of section 2, with no route view. Its front entry is WANTED, and after it stand
the HELD entries of section 1, which is clear behind, and of section 2. -/
def retryingPart : Dev :=
  { Dev.reset with
    tmp := { Tmp.reset with
      sections := twoSections
      plan := { Tmp.reset.plan with clearance := 5000 }
      carriage := { Tmp.reset.carriage with station := 5, length := 4000 } }
    odo := { Odo.reset with
      active := true
      standstill := false
      pos := { PositionRec.reset with validity := .known, sec := 2, offset := 10000000 } }
    cle := { Cle.reset with active := true, table := [routeClaim 3 1 false, routeClaim 1 2 true, routeClaim 2 3 true] }
    stc := { Stc.reset with state := .standing } }

/-- The part meets the invariant of the claim table and the premises of the release behind, and its table starts with no entry that is
clear behind. -/
theorem retryingPart_premises :
    retryingPart.cle.ok ∧ retryingPart.cle.active = true ∧ retryingPart.odo.pos.validity ≠ .unknown
      ∧ retryingPart.footprint.sections.filter (fun n => !retryingPart.cle.holds n) = []
      ∧ (∀ q ∈ retryingPart.peers, q.waiting = none)
      ∧ retryingPart.cle.table.takeWhile (fun c => retryingPart.clearBehind c) = [] := by
  decide

/-- The retry drops the front entry, claiming being stopped with no route view, and section 1 is released. -/
theorem retryingPart_releases : (retryingPart.claimsSample (some 3)).cle.table = [routeClaim 2 3 true] := by
  decide

/-- Refutes O9: the clause on the release behind takes its entries from the table as it stood before the sample and has no premise on a
retry. The examination of the retried front entry drops that entry where claiming is stopped (R66), and the release then begins at an entry
after it: section 1, HELD and not among the entries named, leaves the table. -/
theorem not_sampleClaimsAndReleases : ¬ Obligations.SampleClaimsAndReleases := by
  unfold Obligations.SampleClaimsAndReleases
  intro h
  obtain ⟨hok, hactive, hknown, hheld, hidle, hgone⟩ := retryingPart_premises
  obtain ⟨-, -, hsettled, -⟩ := h retryingPart (some 3) hok
  obtain ⟨-, -, hbehind⟩ := hsettled ⟨hactive, hknown⟩ hheld
  obtain ⟨-, hstays, -⟩ := hbehind hidle
  have hmem : routeClaim 1 2 true ∈ retryingPart.cle.table := by decide
  have hstay := hstays (routeClaim 1 2 true) hmem rfl (by rw [hgone]; simp)
  rw [retryingPart_releases] at hstay
  exact absurd hstay (by decide)

end Sys2Proof.Machine
